-- ==== Sys2Proof/Word.lean ====
section
/-! DEFINITION. The word types of the Tvedn architecture and the 32-lane register value (R2, R12, R22). -/

namespace Sys2Proof

abbrev Byte := BitVec 8
abbrev Half := BitVec 16
abbrev Word := BitVec 32
abbrev DWord := BitVec 64

/-- One vector register: 32 lanes of 32 bits (R12). -/
abbrev Lanes := Vector (BitVec 32) 32

/-- The register value whose lane `i` is `f i`. -/
def Lanes.of (f : Nat → Word) : Lanes := ⟨⟨(List.range 32).map f⟩, by simp⟩

/-- Lane `i` of a register value; lanes past 31 do not exist and give 0. -/
def Lanes.get (v : Lanes) (i : Nat) : Word := v.toList.getD i 0

/-- The register value whose lanes are all 0. -/
def Lanes.zero : Lanes := Lanes.of fun _ => 0

theorem Lanes.get_of (f : Nat → Word) (i : Nat) (h : i < 32) : (Lanes.of f).get i = f i := by
  simp [Lanes.get, Lanes.of, h]

@[simp] theorem Lanes.get_zero (i : Nat) : Lanes.zero.get i = 0 := by
  by_cases h : i < 32
  · simp [Lanes.zero, Lanes.get_of, h]
  · have h' : ¬ i < (List.range 32).length := by simpa using h
    simp only [Lanes.zero, Lanes.get, Lanes.of, List.getD]
    rw [List.getElem?_eq_none (by simp; omega)]
    rfl

theorem Lanes.ext_get (u v : Lanes) (h : ∀ i, i < 32 → u.get i = v.get i) : u = v := by
  apply Vector.ext
  intro i hi
  have := h i hi
  simpa [Lanes.get, Vector.toList, hi] using this

/-- Bit `i` of a 32-bit mask, as the manual's `bit i`. -/
abbrev bitOf (m : Word) (i : Nat) : Bool := m.getLsbD i

/-- The mask whose bit `i` is `f i`. -/
def maskOf (f : Nat → Bool) : Word :=
  (List.range 32).foldl (fun acc i => if f i then acc ||| (1#32 <<< i) else acc) 0

/-- Lanes 4k to 4k + 3 of slice k (R180), for every slice in the set. -/
def lanesOf (slices : BitVec 8) : Word := maskOf fun i => slices.getLsbD (i / 4)

end Sys2Proof
end

