-- ==== Sys2Proof/Syntax.lean ====
section
/-! DEFINITION. The syntax of the machine: one constructor for each row of the opcode table. The first 185 are the
encoded instructions (R75 to R83), whose arguments are the fields of the word; the other 126 are the steps and events of
the part that have no encoding, whose arguments carry what arrives from outside or which object the step acts on
(`spec/95_what_each_step_holds.md`). -/

namespace Sys2Proof

/-- A group's place (R148): core, quarter and slot. -/
structure GroupId where
  core : Nat
  quarter : Nat
  slot : Nat
  deriving DecidableEq, Repr

/-- A fragment: its group's place and its index in the split table (R180). -/
structure FragId where
  core : Nat
  quarter : Nat
  slot : Nat
  index : Nat
  deriving DecidableEq, Repr

def FragId.group (w : FragId) : GroupId := ⟨w.core, w.quarter, w.slot⟩

/-- The register windows the host reaches (R89, R94). -/
inductive Window where
  /-- BAR0 of a virtual function. -/
  | vfCommon (vf : Nat)
  /-- The window of a context, reached through a virtual function. -/
  | context (vf ctx : Nat)
  /-- BAR0 of the physical function. -/
  | physical
  deriving DecidableEq, Repr

/-- Beats of one send that arrive at this chip (R353, R370). -/
structure Beats where
  part : Nat
  /-- The source chip and context, in the flit's header (R353). -/
  srcChip : Nat
  srcCtx : Nat
  /-- The sender's number of the send, and the topology generation in the flit's header (R353). -/
  send : Nat
  gen : BitVec 16
  srcKid : Nat
  ctx : Nat
  va : DWord
  bytes : List Byte
  /-- The grade carried by a graded send; `none` for an ungraded one. With it the version of the source granule's tag (R21, R353). -/
  grade : Option Nat
  version : Nat
  depth : Nat
  land : Option Nat
  /-- The sender's WINDOW as they left (R372, R389). -/
  window : Nat
  deriving DecidableEq, Repr

/-- What another chip of the partition brings to a conversion step (R338, R341): its mesh coordinates, the sequence number and the
placement of its demand, the bytes of its shard, and a notice that it has halted that conversion, with the cause. -/
structure Shard where
  coords : List Nat
  sequence : Nat
  place : Word
  bytes : List Byte
  halted : Option Nat
  deriving DecidableEq, Repr

/-- The measured fields of a lantern record (R412). -/
structure Measured where
  fetchw : Nat
  issuew : Nat
  operw : Nat
  exec : Nat
  wback : Nat
  level : Nat
  xing : Nat
  flags : Nat
  deriving DecidableEq, Repr

/-- The kinds of access another chip asks for (R303). -/
inductive RemoteKind where
  | load (size : Nat)
  | store (bytes : List Byte)
  /-- ATOM.s with its operation number, XCHG.s (8) and CAS.s (9) with compare and new value. -/
  | atomic (op size : Nat) (operand extra : DWord)
  deriving DecidableEq, Repr

/-- An access of another chip to local memory, and the sender's WINDOW as it left (R303, R372). -/
structure RemoteAccess where
  part : Nat
  chip : Nat
  pa : Nat
  kind : RemoteKind
  window : Nat
  deriving DecidableEq, Repr

/-- What a peer's collective flit carries (R374, R377, R378, R380): the first exchange with the peer's record, algorithm and
CHIPID, a contribution, a partial result that it has flushed, or notice that it halted or stopped the collective. -/
inductive PeerFlit where
  | first (record : List Byte) (ring : Bool) (chip : Nat)
  | chunk (index grade : Nat) (bytes : List Byte)
  | result (index grade : Nat) (missing : List Nat) (bytes : List Byte)
  | halted (cause chip chunk elem : Nat)
  deriving DecidableEq, Repr

/-- The chip that a flit comes from, and its WINDOW as the flit left (R372). -/
structure FlitSource where
  chip : Nat
  window : Nat
  deriving DecidableEq, Repr

/-- The instructions, steps and events of the opcode table. -/
inductive Instr where
  /-- IADD (R195). -/
  | iadd (f : BitVec 3) (d a b : BitVec 7)
  /-- ISUB (R195). -/
  | isub (f : BitVec 3) (d a b : BitVec 7)
  /-- IMUL (R195). -/
  | imul (f : BitVec 3) (d a b : BitVec 7)
  /-- IMAD (R195). -/
  | imad (f : BitVec 3) (d a b : BitVec 7)
  /-- IMIN (R195). -/
  | imin (f : BitVec 3) (d a b : BitVec 7)
  /-- IMAX (R195). -/
  | imax (f : BitVec 3) (d a b : BitVec 7)
  /-- IABS (R195). -/
  | iabs (f : BitVec 3) (d a : BitVec 7)
  /-- INEG (R195). -/
  | ineg (f : BitVec 3) (d a : BitVec 7)
  /-- AND (R196). -/
  | and (d a b : BitVec 7)
  /-- OR (R196). -/
  | or (d a b : BitVec 7)
  /-- XOR (R196). -/
  | xor (d a b : BitVec 7)
  /-- ANDN (R196). -/
  | andn (d a b : BitVec 7)
  /-- NOT (R196). -/
  | not (d a : BitVec 7)
  /-- SHL (R196). -/
  | shl (d a b : BitVec 7)
  /-- SHR (R196). -/
  | shr (f : BitVec 3) (d a b : BitVec 7)
  /-- ROT (R196). -/
  | rot (f : BitVec 3) (d a b : BitVec 7)
  /-- POPC (R196). -/
  | popc (d a : BitVec 7)
  /-- CLZ (R196). -/
  | clz (d a : BitVec 7)
  /-- BREV (R196). -/
  | brev (d a : BitVec 7)
  /-- BFX (R197). -/
  | bfx (f : BitVec 3) (d a b : BitVec 7)
  /-- BFI (R197). -/
  | bfi (d a b : BitVec 7)
  /-- ICMP (R198). -/
  | icmp (f : BitVec 3) (d a b : BitVec 7)
  /-- ICMPU (R198). -/
  | icmpu (f : BitVec 3) (d a b : BitVec 7)
  /-- SEL (R198). -/
  | sel (f : BitVec 3) (d a b : BitVec 7)
  /-- MOV (R199). -/
  | mov (d a : BitVec 7)
  /-- MOVL (R199). -/
  | movl (d : BitVec 7)
  /-- IADD64 (R200). -/
  | iadd64 (d a b : BitVec 7)
  /-- IMULW (R200). -/
  | imulw (f : BitVec 3) (d a b : BitVec 7)
  /-- CVTI (R201). -/
  | cvti (f : BitVec 3) (d a : BitVec 7)
  /-- IDOT4 (R202). -/
  | idot4 (f : BitVec 3) (d a b : BitVec 7)
  /-- LIDX (R199). -/
  | lidx (f : BitVec 3) (d : BitVec 7)
  /-- PERMB (R204). -/
  | permb (f : BitVec 3) (d a b : BitVec 7)
  /-- BALIGN (R205). -/
  | balign (f : BitVec 3) (d a b : BitVec 7)
  /-- SHFL (R207). -/
  | shfl (d a b : BitVec 7)
  /-- SHUP (R206). -/
  | shup (f : BitVec 3) (d a b : BitVec 7)
  /-- SHDN (R206). -/
  | shdn (f : BitVec 3) (d a b : BitVec 7)
  /-- SHFLX (R207). -/
  | shflx (d a b : BitVec 7)
  /-- BCST (R207). -/
  | bcst (d a b : BitVec 7)
  /-- BSEL (R208). -/
  | bsel (d a b : BitVec 7)
  /-- FADD (R218). -/
  | fadd (f : BitVec 3) (d a b : BitVec 7)
  /-- FSUB (R218). -/
  | fsub (f : BitVec 3) (d a b : BitVec 7)
  /-- FMUL (R218). -/
  | fmul (f : BitVec 3) (d a b : BitVec 7)
  /-- FFMA (R218). -/
  | ffma (f : BitVec 3) (d a b : BitVec 7)
  /-- FMIN (R219). -/
  | fmin (d a b : BitVec 7)
  /-- FMAX (R219). -/
  | fmax (d a b : BitVec 7)
  /-- FSGN (R219). -/
  | fsgn (f : BitVec 3) (d a b : BitVec 7)
  /-- FCMP (R220). -/
  | fcmp (f : BitVec 3) (d a b : BitVec 7)
  /-- FCLASS (R220). -/
  | fclass (d a b : BitVec 7)
  /-- FRCP (R222). -/
  | frcp (f : BitVec 3) (d a : BitVec 7)
  /-- FRSQ (R222). -/
  | frsq (f : BitVec 3) (d a : BitVec 7)
  /-- FSQRT (R221). -/
  | fsqrt (f : BitVec 3) (d a : BitVec 7)
  /-- FEXP2 (R222). -/
  | fexp2 (f : BitVec 3) (d a : BitVec 7)
  /-- FLOG2 (R222). -/
  | flog2 (f : BitVec 3) (d a : BitVec 7)
  /-- FTANH (R222). -/
  | ftanh (f : BitVec 3) (d a : BitVec 7)
  /-- FDIV (R221). -/
  | fdiv (f : BitVec 3) (d a b : BitVec 7)
  /-- HADD2 (R223). -/
  | hadd2 (f : BitVec 3) (d a b : BitVec 7)
  /-- HMUL2 (R223). -/
  | hmul2 (f : BitVec 3) (d a b : BitVec 7)
  /-- HFMA2 (R223). -/
  | hfma2 (f : BitVec 3) (d a b : BitVec 7)
  /-- CVTF (R225). -/
  | cvtf (f : BitVec 3) (d a b : BitVec 7)
  /-- FRND (R228). -/
  | frnd (f : BitVec 3) (d a : BitVec 7)
  /-- FSCL (R228). -/
  | fscl (f : BitVec 3) (d a b : BitVec 7)
  /-- CVTFI (R226). -/
  | cvtfi (f : BitVec 3) (d a b : BitVec 7)
  /-- CVTIF (R227). -/
  | cvtif (f : BitVec 3) (d a b : BitVec 7)
  /-- PACKN (R231). -/
  | packn (f : BitVec 3) (d a b : BitVec 7)
  /-- UNPKN (R232). -/
  | unpkn (f : BitVec 3) (d a b : BitVec 7)
  /-- LD (R305). -/
  | ld (f : BitVec 3) (d : BitVec 7) (s a : BitVec 6) (o : BitVec 2)
  /-- ST (R305). -/
  | st (f : BitVec 3) (d : BitVec 7) (s a : BitVec 6) (o : BitVec 2)
  /-- LDL (R269). -/
  | ldl (f : BitVec 3) (d : BitVec 7) (s a : BitVec 6) (o : BitVec 2)
  /-- STL (R269). -/
  | stl (f : BitVec 3) (d : BitVec 7) (s a : BitVec 6) (o : BitVec 2)
  /-- ATOM_C (R305). -/
  | atomC (f : BitVec 3) (d : BitVec 7) (s a : BitVec 6) (o : BitVec 2)
  /-- ATOM_D (R305). -/
  | atomD (f : BitVec 3) (d : BitVec 7) (s a : BitVec 6) (o : BitVec 2)
  /-- ATOM_S (R305). -/
  | atomS (f : BitVec 3) (d : BitVec 7) (s a : BitVec 6) (o : BitVec 2)
  /-- ATOML (R269). -/
  | atoml (f : BitVec 3) (d : BitVec 7) (s a : BitVec 6) (o : BitVec 2)
  /-- XCHG (R305). -/
  | xchg (f : BitVec 3) (d : BitVec 7) (s a : BitVec 6) (o : BitVec 2)
  /-- CAS (R305). -/
  | cas (f : BitVec 3) (d : BitVec 7) (s a : BitVec 6) (o : BitVec 2)
  /-- RED (R305). -/
  | red (f : BitVec 3) (d : BitVec 7) (s a : BitVec 6) (o : BitVec 2)
  /-- LDF (R305). -/
  | ldf (f : BitVec 3) (d : BitVec 7) (s a : BitVec 6) (o : BitVec 2)
  /-- PREF (R305). -/
  | pref (f : BitVec 3) (s a : BitVec 6)
  /-- SADD (R210). -/
  | sadd (f : BitVec 4) (d a b : BitVec 6)
  /-- SSUB (R210). -/
  | ssub (f : BitVec 4) (d a b : BitVec 6)
  /-- SMUL (R210). -/
  | smul (d a b : BitVec 6)
  /-- SMULH (R210). -/
  | smulh (f : BitVec 4) (d a b : BitVec 6)
  /-- SAND (R210). -/
  | sand (d a b : BitVec 6)
  /-- SOR (R210). -/
  | sor (d a b : BitVec 6)
  /-- SXOR (R210). -/
  | sxor (d a b : BitVec 6)
  /-- SSHL (R210). -/
  | sshl (d a b : BitVec 6)
  /-- SSHR (R210). -/
  | sshr (f : BitVec 4) (d a b : BitVec 6)
  /-- SMIN (R210). -/
  | smin (f : BitVec 4) (d a b : BitVec 6)
  /-- SMAX (R210). -/
  | smax (f : BitVec 4) (d a b : BitVec 6)
  /-- SCMP (R210). -/
  | scmp (f : BitVec 4) (d a b : BitVec 6)
  /-- SSEL (R210). -/
  | ssel (d a b : BitVec 6)
  /-- SMOV (R210). -/
  | smov (d a : BitVec 6)
  /-- SMOVI (R211). -/
  | smovi (d : BitVec 6) (i : BitVec 14)
  /-- SLUI (R211). -/
  | slui (f : BitVec 4) (d : BitVec 6) (i : BitVec 14)
  /-- SMOVL (R210). -/
  | smovl (d : BitVec 6)
  /-- SPOPC (R210). -/
  | spopc (d a : BitVec 6)
  /-- SCLZ (R210). -/
  | sclz (d a : BitVec 6)
  /-- SBFX (R210). -/
  | sbfx (f : BitVec 4) (d a b : BitVec 6)
  /-- SLD (R309). -/
  | sld (f : BitVec 4) (d a b : BitVec 6) (g : BitVec 2)
  /-- SST (R309). -/
  | sst (f : BitVec 4) (d a b : BitVec 6) (g : BitVec 2)
  /-- SADDI (R211). -/
  | saddi (d : BitVec 6) (i : BitVec 14)
  /-- MAND (R191). -/
  | mand (d a b : BitVec 6)
  /-- MOR (R191). -/
  | mor (d a b : BitVec 6)
  /-- MXOR (R191). -/
  | mxor (d a b : BitVec 6)
  /-- MNOT (R191). -/
  | mnot (d a : BitVec 6)
  /-- MMOV (R191). -/
  | mmov (f : BitVec 4) (d a : BitVec 6)
  /-- EMRD (R191). -/
  | emrd (f : BitVec 4) (d : BitVec 6)
  /-- EMWR (R191). -/
  | emwr (f : BitVec 4) (a : BitVec 6)
  /-- BALLOT (R191). -/
  | ballot (d a : BitVec 6)
  /-- MPOPC (R191). -/
  | mpopc (f : BitVec 4) (d a : BitVec 6)
  /-- MFIRST (R191). -/
  | mfirst (f : BitVec 4) (d a : BitVec 6)
  /-- RDLANE (R212). -/
  | rdlane (d a b : BitVec 6) (g : BitVec 2)
  /-- WRLANE (R212). -/
  | wrlane (d a b : BitVec 6) (g : BitVec 2)
  /-- REDUX (R213). -/
  | redux (f : BitVec 4) (d a : BitVec 6)
  /-- VBCST (R214). -/
  | vbcst (f : BitVec 4) (d a : BitVec 6)
  /-- SRD (R104). -/
  | srd (f : BitVec 4) (d a : BitVec 6)
  /-- SWR (R105). -/
  | swr (d a : BitVec 6)
  /-- BRA (R79). -/
  | bra (c r : BitVec 4) (p : BitVec 16)
  /-- JMPI (R184). -/
  | jmpi (a : BitVec 6)
  /-- CALL (R184). -/
  | call (p : BitVec 16)
  /-- CALLI (R184). -/
  | calli (a : BitVec 6)
  /-- RET (R184). -/
  | ret
  /-- SPLIT (R182). -/
  | split (c r : BitVec 4) (p : BitVec 16)
  /-- REGANG (R183). -/
  | regang
  /-- MELD (R188). -/
  | meld (d : BitVec 6) (i : BitVec 14)
  /-- MTAB (R187). -/
  | mtab (d a : BitVec 6) (g : BitVec 1)
  /-- MTAB_CLR (R187). -/
  | mtabClr
  /-- STAKE (R160). -/
  | stake (i : BitVec 14)
  /-- TAIL (R167). -/
  | tail
  /-- EXIT (R167). -/
  | exit
  /-- YIELD (R168). -/
  | yield (p : BitVec 16)
  /-- WAIT (R169). -/
  | wait (f : BitVec 4) (i : BitVec 14)
  /-- SYNCL (R189). -/
  | syncl (a : BitVec 6)
  /-- TRAP (R106). -/
  | trap (i : BitVec 14)
  /-- TRET (R107). -/
  | tret
  /-- BRK (R416). -/
  | brk (i : BitVec 14)
  /-- ICINV (R171). -/
  | icinv (a b : BitVec 6) (g : BitVec 2)
  /-- IFENCE (R172). -/
  | ifence
  /-- FENCE (R310). -/
  | fence (g : BitVec 2)
  /-- NOP (R174). -/
  | nop
  /-- LOOPB (R170). -/
  | loopb (c r : BitVec 4) (p : BitVec 16)
  /-- TMARK (R417). -/
  | tmark (f : BitVec 4) (i : BitVec 14)
  /-- BARI (R241). -/
  | bari (a b : BitVec 6)
  /-- BARI_BYTES (R241). -/
  | bariBytes (a : BitVec 6)
  /-- BARA (R241). -/
  | bara (d a : BitVec 6) (g : BitVec 2)
  /-- BARW (R241). -/
  | barw (a b : BitVec 6)
  /-- BART (R241). -/
  | bart (d a b : BitVec 6) (g : BitVec 2)
  /-- BARX (R241). -/
  | barx (a : BitVec 6)
  /-- BARB (R245). -/
  | barb
  /-- PHASE (R249). -/
  | phase (f : BitVec 4) (d a : BitVec 6)
  /-- TALLOC (R266). -/
  | talloc (d a b : BitVec 6) (g : BitVec 2)
  /-- TFREE (R266). -/
  | tfree (a : BitVec 6)
  /-- TINFO (R267). -/
  | tinfo (d a : BitVec 6)
  /-- TINFO_FREE (R267). -/
  | tinfoFree (d : BitVec 6)
  /-- TZERO (R266). -/
  | tzero (a : BitVec 6)
  /-- TRD (R286). -/
  | trd (f : BitVec 4) (d a : BitVec 6)
  /-- TRD_ST (R286). -/
  | trdSt (d a : BitVec 6)
  /-- TWR (R287). -/
  | twr (f : BitVec 4) (a b : BitVec 6)
  /-- MMA (R277). -/
  | mma (f : BitVec 4) (a b : BitVec 6)
  /-- MMAG (R276). -/
  | mmag (f : BitVec 4) (d a b : BitVec 6)
  /-- CPYK (R268). -/
  | cpyk (a b : BitVec 6)
  /-- QENQ (R114). -/
  | qenq (f : BitVec 4) (d a b : BitVec 6) (g : BitVec 2)
  /-- QDEQ (R114). -/
  | qdeq (f : BitVec 4) (d a b : BitVec 6) (g : BitVec 2)
  /-- QSTEAL (R114). -/
  | qsteal (f : BitVec 4) (d a b : BitVec 6)
  /-- QINFO (R119). -/
  | qinfo (d a : BitVec 6)
  /-- QCAP (R118). -/
  | qcap (f : BitVec 4) (d a : BitVec 6)
  /-- LAUNCH (R145). -/
  | launch (d a b : BitVec 6)
  /-- RENEW (R146). -/
  | renew (d a b : BitVec 6)
  /-- SIGNAL (R147). -/
  | signal (d a b : BitVec 6) (g : BitVec 2)
  /-- GFLOOR (R325). -/
  | gfloor (i : BitVec 14)
  /-- GCAP (R325). -/
  | gcap (i : BitVec 14)
  /-- GREAD (R327). -/
  | gread (d a : BitVec 6)
  /-- GWAIT (R328). -/
  | gwait (f : BitVec 4) (a b : BitVec 6)
  /-- AMEND (R329). -/
  | amend (f : BitVec 4) (a b : BitVec 6)
  /-- GSTAT (R331). -/
  | gstat (f : BitVec 4) (d : BitVec 6)
  /-- PDECL (R348). -/
  | pdecl (d a : BitVec 6)
  /-- PCONV (R349). -/
  | pconv (d a b : BitVec 6) (g : BitVec 2)
  /-- PLD (R350). -/
  | pld (d a b : BitVec 6) (g : BitVec 2)
  /-- PSTAT (R351). -/
  | pstat (f : BitVec 4) (d a : BitVec 6)
  /-- PFREE (R352). -/
  | pfree (a : BitVec 6)
  /-- XSEND (R369). -/
  | xsend (d a b : BitVec 6)
  /-- XSEND_LAND (R371). -/
  | xsendLand (d a : BitVec 6)
  /-- RECONF (R360). -/
  | reconf (d a b : BitVec 6)
  /-- SLOTS (R366). -/
  | slots (d a b : BitVec 6)
  /-- COLL (R379). -/
  | coll (f : BitVec 4) (d a : BitVec 6)
  /-- ILLEGAL_INSTRUCTION (R84): Issue of a reserved opcode or illegal form traps with cause 0x01. -/
  | illegalInstruction
  /-- FAULTY_BUNDLE (R62): Issue from a faulty bundle or a misplaced control transfer traps with cause 0x02. -/
  | faultyBundle
  /-- CREATE (R90): VFCMD creates a context and assigns a CTXID. -/
  | create (vf : Nat)
  /-- BIND (R90): Reads and checks the context record and binds the context. -/
  | bind (vf ctx : Nat) (upper : BitVec 56)
  /-- RUN (R90): Lets the context accept enqueues and launches. -/
  | run (vf ctx : Nat) (upper : BitVec 56)
  /-- PREEMPT (R90): Starts pre-emption of every group and engine operation of the context. -/
  | preempt (vf ctx : Nat) (upper : BitVec 56)
  /-- PREEMPT_DONE (R90): All groups saved and engine operations settled, the context reports pre-empted. -/
  | preemptDone (ctx : Nat)
  /-- RESUME (R90): Re-places saved blocks, rebuilds tile tables and resumes suspended operations. -/
  | resume (vf ctx : Nat) (upper : BitVec 56)
  /-- STOP (R90): Moves the context to stopping and halts its groups. -/
  | stop (vf ctx : Nat) (upper : BitVec 56)
  /-- CONTEXT_STOPPED (R97): Once halted and drained, discards held writes, writes the dirty report and status stopped. -/
  | contextStopped (ctx : Nat)
  /-- DESTROY (R90): Frees the CTXID and its tables, queues and locks. -/
  | destroy (vf ctx : Nat) (upper : BitVec 56)
  /-- QCREATE (R109): Creates a queue from a descriptor and returns a capability. -/
  | qcreate (vf ctx : Nat)
  /-- SEAL (R110): Seals a queue and traps its parked enqueuers. -/
  | seal (vf ctx : Nat)
  /-- QDESTROY (R110): Frees a queue, discarding items and trapping waiters. -/
  | qdestroy (vf ctx : Nat)
  /-- ENQ_COMMIT (R120): Host write of COMMIT submits an enqueue from an enqueue-window slot. -/
  | enqCommit (vf ctx slot : Nat) (value : DWord)
  /-- INVAL (R298): Starts revocation of translations over a range. -/
  | inval (vf ctx : Nat)
  /-- INVAL_DONE (R292): Every TLB has dropped the entries and every translated access is performed. -/
  | invalDone (ctx : Nat)
  /-- RESOLVE (R296): Grants or denies a tracked fault for all parked accesses. -/
  | resolve (vf ctx : Nat)
  /-- DIRTYSCAN (R300): Scans for dirty pages, clears D and writes a report. -/
  | dirtyscan (vf ctx : Nat)
  /-- HOST_AMEND (R330): Host command that amends, confirms or resets graded granules. -/
  | hostAmend (vf ctx : Nat)
  /-- DBGSTOP (R407): Requests that a block halt for inspection. -/
  | dbgstop (vf ctx : Nat)
  /-- BLOCK_HALTED (R409): Every fragment stands at a boundary, the dump is written and DONE reported. -/
  | blockHalted (kid block : Nat)
  /-- DBGREAD (R406): Returns one register value of a halted group. -/
  | dbgread (vf ctx : Nat)
  /-- DBGRESUME (R407): Resumes a halted block. -/
  | dbgresume (vf ctx : Nat)
  /-- DBGCTL (R406): Sets BRKSTOP and TRAPSTOP for the context. -/
  | dbgctl (vf ctx : Nat)
  /-- COMMIT (R94): Checks and applies the staged partition and slot tables in one step. -/
  | commit
  /-- PITCH_WRITE (R357): Writes and checks one pitch-table entry. -/
  | pitchWrite (i : Nat) (bytes : List Byte)
  /-- CAPBASE_WRITE (R419): Sets a capture slot buffer, refusing partition memory. -/
  | capbaseWrite (n : Nat) (value : DWord)
  /-- CAPCTL_WRITE (R419): Arms a capture slot or clears DONE to free it. -/
  | capctlWrite (n : Nat) (value : DWord)
  /-- LCTL_WRITE (R410): Configures the lantern, ignoring an out-of-range PERIOD. -/
  | lctlWrite (vf ctx : Nat) (value : DWord)
  /-- TCTL_WRITE (R413): Configures the trace, leaving EN 0 on out-of-range fields. -/
  | tctlWrite (vf ctx : Nat) (value : DWord)
  /-- REGISTER_WRITE (R3): Write to a register with no behaviour of its own. -/
  | registerWrite (win : Window) (offset size : Nat) (value : DWord)
  /-- ATTEST (R421): Returns a signed measurement report for a nonce. -/
  | attest (nonce : BitVec 256)
  /-- COLD (R422): Standby power or a COLD command starts a cold start. -/
  | cold
  /-- WARM (R422): Stops every context and runs a warm start. -/
  | warm
  /-- CLEARFAIL (R422): Clears a latched start failure. -/
  | clearfail (clearLog : Bool)
  /-- LOGREAD (R429): Returns the lifetime log. -/
  | logread
  /-- FIELD_UP (R424): A field's rail-good and PLL lock arrive and the next field starts. -/
  | fieldUp (field : Nat)
  /-- FIELD_START_TIMEOUT (R424): Rail-good or lock missing after 10 ms fails start step 2. -/
  | fieldStartTimeout
  /-- FIELD_LOSS (R19): A field's rail-good or PLL lock falls while running. -/
  | fieldLoss (field : Nat)
  /-- PORT_TRAINED (R355): Every lane of a port is trained and HELLO is sent. -/
  | portTrained (port : Nat)
  /-- CIRCUIT_UP (R355): The switch reports a circuit and the port goes up. -/
  | circuitUp (port : Nat)
  /-- PORT_DRAINED (R355): The last started flit is acknowledged and the port goes idle. -/
  | portDrained (port : Nat)
  /-- PORT_FAULT (R355): Loss of lock or excess error rate faults a port and raises the generation. -/
  | portFault (port : Nat)
  /-- PORT_RETRAINED (R355): Retraining succeeds and the port returns to idle. -/
  | portRetrained (port : Nat)
  /-- RECONF_DRAINED (R360): The re-pitch drain ends and REPITCH is sent to the switch. -/
  | reconfDrained (part : Nat)
  /-- SWITCH_DONE (R360): DONE brings up the pitch, sets TGEN and releases held sends. -/
  | switchDone (seq part gen : Nat)
  /-- SWITCH_NAK (R360): NAK ends the change with no circuit and TGEN advanced. -/
  | switchNak (seq part gen reason : Nat)
  /-- SWITCH_PLANOK (R366): PLANOK accepts a slot plan. -/
  | switchPlanok (seq part gen : Nat)
  /-- SWITCH_TIME (R363): A TIME frame from the switch is received. -/
  | switchTime (time : DWord)
  /-- CONTROL_RETRY_TIMEOUT (R360): No answer after 10 µs resends the frame or, after three retries, ends as silence. -/
  | controlRetryTimeout (part : Nat)
  /-- PLAN_EPOCH (R366): At EPOCH the plan starts, TGEN is set and SLOTS completes. -/
  | planEpoch (part : Nat)
  /-- SLOT_START (R365): A slot begins its guard and the old slot's ports drain. -/
  | slotStart (part : Nat)
  /-- SLOT_WINDOW_OPEN (R365): A slot window opens and queues for paired chips drain. -/
  | slotWindowOpen (part : Nat)
  /-- SLOT_WINDOW_CLOSE (R365): A window closes, cutting flits after their last whole beat. -/
  | slotWindowClose (part : Nat)
  /-- SEND_BEAT_ARRIVAL (R370): A send's beats are written at the destination home slice and counted into its landing. -/
  | sendBeatArrival (beats : Beats)
  /-- SEND_COMPLETE (R369): The last flit of a send has left, releasing its lock and counting LBAR. -/
  | sendComplete (id : Nat)
  /-- PHASE_FLIT_ARRIVAL (R248): A peer's L7 phase report arrives at the fabric hub. -/
  | phaseFlitArrival (part key count : Nat) (chip : FlitSource)
  /-- PHASE_RELEASE (R248): A completed phase releases its members, at window N+2 for system scope. -/
  | phaseRelease (kid level inst : Nat)
  /-- BLOCK_BARRIER_RELEASE (R244): A drained block barrier advances BPC and wakes its arrivers. -/
  | blockBarrierRelease (kid block : Nat)
  /-- COMBINE_SLOT_GRANT (R374): A waiting reduction collective obtains a freed combine slot. -/
  | combineSlotGrant (id : Nat)
  /-- COLL_CHUNK_DONE (R381): A 4 KiB output chunk is performed, enqueued and counted. -/
  | collChunkDone (id chunk : Nat)
  /-- COLL_TIMEOUT_FLUSH (R378): A missing contribution past TIMEOUT is folded as the identity and the result written at prov. -/
  | collTimeoutFlush (id : Nat)
  /-- LATE_CONTRIBUTION (R378): A straggler's data is folded in and written as an amendment of depth 1. -/
  | lateContribution (id rank : Nat) (grade : Nat) (bytes : List Byte)
  /-- PLACEMENT_DESCRIPTOR_ARRIVAL (R337): A peer's tensor descriptor arrives and may make the entry ready or failed. -/
  | placementDescriptorArrival (part chip : Nat) (bytes : List Byte)
  /-- CONVERSION_STEP (R341): A conversion step starts once every chip of the axis group has reached it. -/
  | conversionStep (part tid : Nat) (peers : List Shard)
  /-- CONVERSION_TILE_ARRIVAL (R344): A target tile arrives, releasing its lock and enqueuing its item. -/
  | conversionTileArrival (part tid tile : Nat)
  /-- CONVERSION_COMPLETE (R344): All tiles arrived, the present buffer changes and the next conversion may start. -/
  | conversionComplete (part tid : Nat)
  /-- PLACEMENT_COMMIT (R345): The committed placement changes at window N+2. -/
  | placementCommit (part tid : Nat)
  /-- PLD_COPY_DONE (R350): A PLD copy lands in its tile and releases its lock. -/
  | pldCopyDone (id : Nat)
  /-- COPY_RECORD_DONE (R265): A copy record's bytes are performed and counted into its barrier word. -/
  | copyRecordDone (id : Nat)
  /-- ENGINE_LOCK_ADMIT (R261): An engine operation waiting on a lock or table room registers its entries. -/
  | engineLockAdmit (id : Nat)
  /-- MMA_GATHER_DONE (R282): The matrix engine has gathered operands and releases the source entries. -/
  | mmaGatherDone (id : Nat)
  /-- MMA_COMPLETE (R283): Accumulator writes are performed, sticky bits set and completion counted. -/
  | mmaComplete (id : Nat)
  /-- LOAD_DATA_LANDS (R169): A variable-latency load, scalar or tile result lands and its counter falls. -/
  | loadDataLands (g : GroupId) (counter index : Nat) (lanes : Word)
  /-- STORE_PERFORMED (R169): A store is performed at its scope and SC falls. -/
  | storePerformed (g : GroupId) (index : Nat)
  /-- VC_RESULT_LANDS (R221): An FDIV or FSQRT result lands and VC falls. -/
  | vcResultLands (g : GroupId) (index : Nat) (lanes : Word)
  /-- PAGE_WALK_DONE (R294): A walk completes, filling the TLB or recording a fault and parking the access. -/
  | pageWalkDone (core ctx : Nat) (va : DWord) (kind : Nat)
  /-- FAULT_RECORD_WRITE (R102): A waiting fault record is written when the fault queue has room, raising FQVEC if it was empty. -/
  | faultRecordWrite (ctx : Nat)
  /-- FRAGMENT_WAKE (R152): A parked fragment wakes the cycle after its event and retries. -/
  | fragmentWake (who : FragId)
  /-- GRADE_POLL_REISSUE (R312): A load that found no grade-waiter entry re-issues every 1,024 cycles. -/
  | gradePollReissue (who : FragId)
  /-- AMENDMENT_REPORT (R318): The queue controller matches an amendment and re-fires hit nodes. -/
  | amendmentReport
  /-- VESTIBULE_RELEASE (R322): A released outward write leaves the vestibule in order. -/
  | vestibuleRelease
  /-- VESTIBULE_SPACE_FREED (R323): Vestibule room appears and waiting writes, copies and sends proceed. -/
  | vestibuleSpaceFreed
  /-- HOST_GRADED_WRITE_DROP (R330): A host write reaching a graded frame by another path is dropped and recorded. -/
  | hostGradedWriteDrop (pa : Nat)
  /-- ENGINE_ENQUEUE_RETRY (R121): An engine's held arrival items enter a queue once it has room. -/
  | engineEnqueueRetry (id : Nat)
  /-- RING_HEAD_POLL (R142): The part rereads a full ring's HEAD and lets a waiting writer proceed. -/
  | ringHeadPoll (ctx : Nat) (desc : DWord)
  /-- RING_TMAX_EXPIRY (R143): TMAX after the first uninterrupted entry raises the ring's vector. -/
  | ringTmaxExpiry (ctx : Nat) (desc : DWord)
  /-- GRAPH_SUBMIT (R135): The controller takes a graph item and checks and starts the graph. -/
  | graphSubmit (ctx : Nat)
  /-- NODE_FIRE (R138): A ready node fires: launches, hands off, or evaluates COND or SIGNAL. -/
  | nodeFire (ctx : Nat) (gbase : DWord) (node : Nat)
  /-- NODE_COMPLETE (R138): A node's run completes, decrementing successors or re-firing. -/
  | nodeComplete (ctx : Nat) (gbase : DWord) (node : Nat)
  /-- BLOCK_PLACE (R130): The launcher places a queued block set when a core and headroom fit. -/
  | blockPlace (kid : Nat)
  /-- LAUNCH_STARVATION_TIMEOUT (R131): A block set waiting 65,536 cycles blocks later kernels in the partition. -/
  | launchStarvationTimeout (kid : Nat)
  /-- GOVERNOR_EVALUATION (R133): Every 1,024 cycles the governor opens or withdraws turnovers. -/
  | governorEvaluation
  /-- KERNEL_COMPLETE (R132): A drained kernel performs its writes, signals completion and frees its KID. -/
  | kernelComplete (kid : Nat)
  /-- GROUP_RETIRE (R148): A group in tail gets a tracker entry or needs none, freeing its slot. -/
  | groupRetire (g : GroupId)
  /-- TRACKER_ENTRY_FREED (R165): A retired group's last outstanding item completes and its entry frees. -/
  | trackerEntryFreed (g : GroupId)
  /-- TILE_SCRUB_DONE (R256): A scrubbed tile's space returns to the pool. -/
  | tileScrubDone (id : Nat)
  /-- SCRATCHPAD_ECC_ERROR (R259): A chunk error is corrected, rebuilt, or stops the owning context. -/
  | scratchpadEccError (core : Nat) (dom handle kind : Nat)
  /-- REGANG_FUSE (R183): With no other fragment live, fusing fragments fuse and continue. -/
  | regangFuse (g : GroupId)
  /-- FRAGMENT_PROMOTE (R151): A fragment ready 4,096 cycles without issuing is promoted to class 4. -/
  | fragmentPromote (who : FragId)
  /-- STAKEMAX_FULL_SAVE (R162): STAKEMAX cycles without a stake force a full save with a 0x16 record. -/
  | stakemaxFullSave (g : GroupId)
  /-- WC_LINE_DRAIN (R302): A write-combining line drains 64 cycles after its first byte. -/
  | wcLineDrain (core line : Nat)
  /-- LANTERN_SAMPLE (R411): A quarter's sampling cycle picks a slot and tags it or writes a record. -/
  | lanternSample (ctx core quarter pick : Nat)
  /-- LANTERN_RECORD (R412): A tagged instruction's record is written when its effects land or it traps. -/
  | lanternRecord (who : FragId) (meas : Measured)
  /-- LANTERN_LATE (R412): A latency field reaching 65,535 writes the record flagged LATE. -/
  | lanternLate (who : FragId) (meas : Measured)
  /-- TRACE_RESUME (R433): With 1 KiB free after a drop, LOSS and SYNC are written. -/
  | traceResume (ctx : Nat)
  /-- POWER_SAMPLE (R418): A field records its power state each µs. -/
  | powerSample (field draw temp : Nat)
  /-- CAPTURE_DONE (R419): A capture's 256 later samples are written and DONE set. -/
  | captureDone (n : Nat)
  /-- POWER_LIMIT_THROTTLE (R427): DRAW above LIMIT for 10 µs enters power-limit throttle. -/
  | powerLimitThrottle (field : Nat)
  /-- THROTTLE_CLOCK_STEP (R427): Every 10 µs or 100 µs the throttled clock steps down or up by 100 MHz. -/
  | throttleClockStep (field : Nat)
  /-- THERMAL_THROTTLE (R427): Temperature reaching TTHROT enters thermal throttle. -/
  | thermalThrottle (field : Nat)
  /-- THERMAL_TRIP (R427): TTRIP removes the field's rail and records a trip. -/
  | thermalTrip (field : Nat)
  /-- LEAN_REPLAY (R428): A timing-error detector flags a late path and the instruction replays. -/
  | leanReplay (field : Nat)
  /-- LEAN_WINDOW_END (R428): A 64,000-cycle window's replay count raises or lowers MV. -/
  | leanWindowEnd (field : Nat)
  /-- HEADROOM_REMEASURE (R425): Each ms the field's baseline is remeasured into HEAD. -/
  | headroomRemeasure (field baseline : Nat)
  /-- LOG_FLUSH (R429): Every 60 s the lifetime log is written to nonvolatile store. -/
  | logFlush
  /-- START_STEP_COMPLETE (R423): A timed start step such as memory self-test, HBM training, laser calibration or time lock finishes, and the chip becomes ready after the last one. -/
  | startStepComplete (ok : Bool)
  /-- STANDBY_POWER_LOSS (R429): The tray's standby rail is lost, the chip goes off and up to 60 s of log counts are lost. -/
  | standbyPowerLoss
  /-- REMOTE_ACCESS_ARRIVAL (R303): A load, store or system-scope atomic from another chip of the partition arrives at a port and is performed at a local home slice or P0's atomic unit. -/
  | remoteAccessArrival (acc : RemoteAccess)
  /-- COLLECTIVE_PEER_FLIT (R380): A peer's collective flit arrives: the first exchange that fixes the algorithm and compares records, a contribution chunk to fold, or notice that a peer halted or stopped it. -/
  | collectivePeerFlit (id rank : Nat) (flit : PeerFlit)
  /-- SEND_FAULT_REPORT (R370): The destination's report of a failed send arrives, and the sender writes the fault record and discards the remaining bytes. -/
  | sendFaultReport (id cause : Nat) (addr : DWord)
  /-- HOST_MEMORY_WRITE (R120): A posted host write over PCI Express reaches ungraded device memory, for example a ring descriptor HEAD or data ahead of a COMMIT. -/
  | hostMemoryWrite (pa : Nat) (bytes : List Byte)
  /-- CONTROL_FRAME_CRC_FAIL (R362): A frame on the control wavelength fails its CRC and is dropped. -/
  | controlFrameCrcFail
  /-- HBM_RETRAIN (R95): An HBM controller retrains a stack outside the slot rotation and counts the retrain in the lifetime log. -/
  | hbmRetrain (stack : Nat)
  /-- PORT_ERROR_SAMPLE (R429): Once an hour each port's error rate is sampled into the lifetime histogram. -/
  | portErrorSample (port bucket : Nat)
  deriving DecidableEq, Repr

end Sys2Proof
end

