-- ==== Sys2Proof/WellFormed.lean ====
section
/-! DEFINITION. Well-formed instructions: the values of f, g, ord and cond that an entry defines and the register files
it names (R81, R85), one arm for each instruction. Checks that depend on the state (renaming, allotment, literal
bundles, a melded region) belong to the machine. For an event, the number of the unit it names lies in the chip (R10). -/

namespace Sys2Proof

/-- The static checks of R81 and R85. -/
def Instr.wellFormed : Instr → Bool
  | .iadd f _ _ _ => f.toNat ≤ 2
  | .isub f _ _ _ => f.toNat ≤ 2
  | .imul f _ _ _ => f.toNat ≤ 2
  | .imad f _ _ _ => f.toNat ≤ 1
  | .imin f _ _ _ => f.toNat ≤ 1
  | .imax f _ _ _ => f.toNat ≤ 1
  | .iabs f _ _ => f.toNat ≤ 1
  | .ineg f _ _ => f.toNat ≤ 1
  | .and _ _ _ => true
  | .or _ _ _ => true
  | .xor _ _ _ => true
  | .andn _ _ _ => true
  | .not _ _ => true
  | .shl _ _ _ => true
  | .shr f _ _ _ => f.toNat ≤ 1
  | .rot f _ _ _ => f.toNat ≤ 1
  | .popc _ _ => true
  | .clz _ _ => true
  | .brev _ _ => true
  | .bfx f _ _ _ => f.toNat ≤ 1
  | .bfi _ _ _ => true
  | .icmp f d _ _ => f.toNat ≤ 5 && d.toNat ≤ 15
  | .icmpu f d _ _ => f.toNat ≤ 5 && d.toNat ≤ 15
  | .sel _ _ _ _ => true
  | .mov _ _ => true
  | .movl _ => true
  | .iadd64 _ _ _ => true
  | .imulw f _ _ _ => f.toNat ≤ 1
  | .cvti _ _ _ => true
  | .idot4 f _ _ _ => f.toNat % 4 ≠ 3
  | .lidx f _ => f.toNat ≤ 2
  | .permb f _ a _ => f.toNat ≤ 1 && a.toNat ≤ 62 && a.toNat % 2 = 0
  | .balign f _ _ _ => f.toNat ≤ 3
  | .shfl _ _ _ => true
  | .shup _ _ _ _ => true
  | .shdn _ _ _ _ => true
  | .shflx _ _ _ => true
  | .bcst _ _ _ => true
  | .bsel _ _ _ => true
  | .fadd f _ _ _ => f.toNat ≤ 3
  | .fsub f _ _ _ => f.toNat ≤ 3
  | .fmul f _ _ _ => f.toNat ≤ 3
  | .ffma f _ _ _ => f.toNat ≤ 3
  | .fmin _ _ _ => true
  | .fmax _ _ _ => true
  | .fsgn f _ _ _ => f.toNat ≤ 2
  | .fcmp f d _ _ => f.toNat ≤ 6 && d.toNat ≤ 15
  | .fclass d _ _ => d.toNat ≤ 15
  | .frcp _ _ _ => true
  | .frsq _ _ _ => true
  | .fsqrt f _ _ => f.toNat ≤ 3
  | .fexp2 _ _ _ => true
  | .flog2 _ _ _ => true
  | .ftanh _ _ _ => true
  | .fdiv f _ _ _ => f.toNat ≤ 3
  | .hadd2 _ _ _ _ => true
  | .hmul2 _ _ _ _ => true
  | .hfma2 _ _ _ _ => true
  | .cvtf _ _ _ b => b.toNat / 64 = 0 && b.toNat / 8 % 8 ≤ 4 && b.toNat % 8 ≤ 4
  | .frnd f _ _ => f.toNat ≤ 3
  | .fscl f _ _ _ => f.toNat ≤ 3
  | .cvtfi f _ _ b => f.toNat ≤ 3 && b.toNat / 64 = 0 && b.toNat / 8 % 8 ≤ 4 && b.toNat % 8 ≤ 5 && b.toNat % 8 ≠ 1
  | .cvtif f _ _ b => f.toNat ≤ 3 && b.toNat / 64 = 0 && b.toNat / 8 % 8 ≤ 5 && b.toNat % 8 ≤ 4
  | .packn _ _ _ b => b.toNat ≤ 63
  | .unpkn _ _ _ b => b.toNat ≤ 63
  | .ld f _ _ _ _ => f.toNat ≤ 5
  | .st f _ _ _ _ => f.toNat = 0 || f.toNat = 2 || f.toNat = 4 || f.toNat = 5
  | .ldl f _ _ _ _ => f.toNat ≤ 5
  | .stl f _ _ _ _ => f.toNat = 0 || f.toNat = 2 || f.toNat = 4 || f.toNat = 5
  | .atomC f _ _ _ _ => f.toNat ≤ 6
  | .atomD f _ _ _ _ => f.toNat ≤ 6
  | .atomS f _ _ _ _ => f.toNat ≤ 6
  | .atoml _ _ _ _ _ => true
  | .xchg f _ _ _ _ => f.toNat % 4 ≠ 0
  | .cas f _ _ _ _ => f.toNat % 4 ≠ 0
  | .red f _ _ _ o => f.toNat ≤ 6 && (o.toNat = 0 || o.toNat = 2)
  | .ldf f _ _ _ o => f.toNat % 4 ≠ 0 && o.toNat ≤ 1
  | .pref f _ _ => f.toNat ≤ 1
  | .sadd f _ _ _ => f.toNat ≤ 2
  | .ssub f _ _ _ => f.toNat ≤ 2
  | .smul _ _ _ => true
  | .smulh f _ _ _ => f.toNat ≤ 1
  | .sand _ _ _ => true
  | .sor _ _ _ => true
  | .sxor _ _ _ => true
  | .sshl _ _ _ => true
  | .sshr f _ _ _ => f.toNat ≤ 1
  | .smin f _ _ _ => f.toNat ≤ 1
  | .smax f _ _ _ => f.toNat ≤ 1
  | .scmp f _ _ _ => f.toNat % 8 ≤ 5
  | .ssel _ _ _ => true
  | .smov _ _ => true
  | .smovi _ _ => true
  | .slui f _ _ => f.toNat ≤ 4
  | .smovl _ => true
  | .spopc _ _ => true
  | .sclz _ _ => true
  | .sbfx f _ _ _ => f.toNat ≤ 1
  | .sld f _ _ _ _ => f.toNat ≤ 6
  | .sst f _ _ _ _ => f.toNat = 0 || f.toNat = 2 || f.toNat = 4 || f.toNat = 6
  | .saddi _ _ => true
  | .mand d a b => d.toNat ≤ 15 && a.toNat ≤ 15 && b.toNat ≤ 15
  | .mor d a b => d.toNat ≤ 15 && a.toNat ≤ 15 && b.toNat ≤ 15
  | .mxor d a b => d.toNat ≤ 15 && a.toNat ≤ 15 && b.toNat ≤ 15
  | .mnot d a => d.toNat ≤ 15 && a.toNat ≤ 15
  | .mmov f d a => (f.toNat = 0 && d.toNat ≤ 15 && a.toNat ≤ 15) || (f.toNat = 1 && d.toNat ≤ 15) || (f.toNat = 2 && a.toNat ≤ 15)
  | .emrd f d => f.toNat = 0 || (f.toNat = 1 && d.toNat ≤ 15)
  | .emwr f a => f.toNat = 0 || (f.toNat ≤ 3 && a.toNat ≤ 15)
  | .ballot d _ => d.toNat ≤ 15
  | .mpopc f _ a => f.toNat ≤ 1 && a.toNat ≤ 15
  | .mfirst f _ a => f.toNat ≤ 1 && a.toNat ≤ 15
  | .rdlane _ a _ g => g.toNat ≤ 1 || (g.toNat = 2 && a.toNat % 2 = 0)
  | .wrlane d _ _ g => g.toNat = 0 || (g.toNat = 1 && d.toNat % 2 = 0)
  | .redux f _ _ => f.toNat ≤ 8
  | .vbcst f d _ => f.toNat = 0 || (f.toNat = 1 && d.toNat % 2 = 0)
  | .srd f _ a => a.toNat ≤ 0x22 && ((f.toNat = 0 && 2 ≤ a.toNat) || f.toNat = 1)
  | .swr d _ => d.toNat ≤ 0x22
  | .bra c r _ => c.toNat ≤ 7 && (c.toNat ≠ 0 || r.toNat = 0)
  | .jmpi _ => true
  | .call _ => true
  | .calli _ => true
  | .ret => true
  | .split c _ _ => c.toNat = 1 || c.toNat = 2
  | .regang => true
  | .meld d i => d.toNat ≤ 15 && 1 ≤ i.toInt && i.toInt ≤ 32
  | .mtab _ _ _ => true
  | .mtabClr => true
  | .stake _ => true
  | .tail => true
  | .exit => true
  | .yield _ => true
  | .wait f i => f.toNat ≤ 4 && 0 ≤ i.toInt && i.toInt ≤ 255
  | .syncl _ => true
  | .trap _ => true
  | .tret => true
  | .brk _ => true
  | .icinv _ _ g => g.toNat ≤ 2
  | .ifence => true
  | .fence _ => true
  | .nop => true
  | .loopb c r p => c.toNat ≤ 7 && (c.toNat ≠ 0 || r.toNat = 0) && p.toInt < 0
  | .tmark f _ => f.toNat ≤ 1
  | .bari _ _ => true
  | .bariBytes _ => true
  | .bara _ _ g => g.toNat ≤ 1
  | .barw _ _ => true
  | .bart d _ _ g => g.toNat = 1 || (g.toNat = 0 && d.toNat = 0)
  | .barx _ => true
  | .barb => true
  | .phase f _ a => f.toNat = 7 || (4 ≤ f.toNat && f.toNat ≤ 6 && a.toNat = 0)
  | .talloc _ _ b g => g.toNat = 1 || (g.toNat ≤ 2 && b.toNat = 0)
  | .tfree _ => true
  | .tinfo _ _ => true
  | .tinfoFree _ => true
  | .tzero _ => true
  | .trd f d _ => f.toNat ≤ 7 && f.toNat % 4 ≠ 3 && (f.toNat % 4 ≠ 0 || d.toNat % 2 = 0)
  | .trdSt _ _ => true
  | .twr f _ b => f.toNat ≤ 7 && f.toNat % 4 ≠ 3 && (f.toNat % 4 ≠ 0 || b.toNat % 2 = 0)
  | .mma _ a b => a.toNat % 4 = 0 && b.toNat % 2 = 0
  | .mmag f _ a b => f.toNat % 2 = 0 && a.toNat % 4 = 0 && b.toNat % 2 = 0
  | .cpyk _ _ => true
  | .qenq f d _ b g => f.toNat ≤ 3 && d.toNat % 2 ^ f.toNat = 0 && (g.toNat = 1 || (g.toNat = 0 && b.toNat = 0))
  | .qdeq f d _ b g => f.toNat ≤ 3 && d.toNat % 2 ^ f.toNat = 0 && (g.toNat = 1 || (g.toNat = 0 && b.toNat = 0))
  -- QSTEAL has g = 00 and names its status register in b: R114's trap of a nonzero b is not for it (log 109)
  | .qsteal f d _ _ => f.toNat ≤ 3 && d.toNat % 2 ^ f.toNat = 0
  | .qinfo _ _ => true
  | .qcap f _ _ => f.toNat ≤ 7
  | .launch _ _ _ => true
  | .renew _ _ _ => true
  | .signal d _ _ g => g.toNat = 1 || (g.toNat = 0 && d.toNat = 0)
  | .gfloor i => 1 ≤ i.toInt && i.toInt ≤ 3
  | .gcap i => 1 ≤ i.toInt && i.toInt ≤ 3
  | .gread _ _ => true
  | .gwait f _ _ => 1 ≤ f.toNat && f.toNat ≤ 3
  | .amend f _ _ => f.toNat ≤ 3
  | .gstat f _ => f.toNat ≤ 1
  | .pdecl _ _ => true
  | .pconv d _ _ g => g.toNat = 1 || (g.toNat = 0 && d.toNat = 0)
  | .pld _ a _ g => g.toNat = 0 || (g.toNat = 1 && a.toNat % 2 = 0)
  | .pstat f _ _ => f.toNat ≤ 1
  | .pfree _ => true
  | .xsend _ _ _ => true
  | .xsendLand _ _ => true
  | .reconf _ _ _ => true
  | .slots _ _ _ => true
  | .coll f _ a => f.toNat ≤ 1 && a.toNat % 4 = 0
  | .illegalInstruction => true
  | .faultyBundle => true
  | .create vf => 1 ≤ vf && vf ≤ 16
  | .bind _ _ _ => true
  | .run _ _ _ => true
  | .preempt _ _ _ => true
  | .preemptDone _ => true
  | .resume _ _ _ => true
  | .stop _ _ _ => true
  | .contextStopped _ => true
  | .destroy _ _ _ => true
  | .qcreate _ _ => true
  | .seal _ _ => true
  | .qdestroy _ _ => true
  | .enqCommit _ _ slot _ => slot < 32
  | .inval _ _ => true
  | .invalDone _ => true
  | .resolve _ _ => true
  | .dirtyscan _ _ => true
  | .hostAmend _ _ => true
  | .dbgstop _ _ => true
  | .blockHalted _ _ => true
  | .dbgread _ _ => true
  | .dbgresume _ _ => true
  | .dbgctl _ _ => true
  | .commit => true
  | .pitchWrite i _ => i < 256
  | .capbaseWrite n _ => n < 4
  | .capctlWrite n _ => n < 4
  | .lctlWrite _ _ _ => true
  | .tctlWrite _ _ _ => true
  | .registerWrite _ _ _ _ => true
  | .attest _ => true
  | .cold => true
  | .warm => true
  | .clearfail _ => true
  | .logread => true
  | .fieldUp field => field < 6
  | .fieldStartTimeout => true
  | .fieldLoss field => field < 6
  | .portTrained port => port < 16
  | .circuitUp port => port < 16
  | .portDrained port => port < 16
  | .portFault port => port < 16
  | .portRetrained port => port < 16
  | .reconfDrained _ => true
  | .switchDone _ _ _ => true
  | .switchNak _ _ _ _ => true
  | .switchPlanok _ _ _ => true
  | .switchTime _ => true
  | .controlRetryTimeout _ => true
  | .planEpoch _ => true
  | .slotStart _ => true
  | .slotWindowOpen _ => true
  | .slotWindowClose _ => true
  | .sendBeatArrival _ => true
  | .sendComplete _ => true
  | .phaseFlitArrival _ _ _ _ => true
  | .phaseRelease _ _ _ => true
  | .blockBarrierRelease _ _ => true
  | .combineSlotGrant _ => true
  | .collChunkDone _ _ => true
  | .collTimeoutFlush _ => true
  | .lateContribution _ _ _ _ => true
  | .placementDescriptorArrival _ _ _ => true
  | .conversionStep _ _ _ => true
  | .conversionTileArrival _ _ _ => true
  | .conversionComplete _ _ => true
  | .placementCommit _ _ => true
  | .pldCopyDone _ => true
  | .copyRecordDone _ => true
  | .engineLockAdmit _ => true
  | .mmaGatherDone _ => true
  | .mmaComplete _ => true
  | .loadDataLands _ _ _ _ => true
  | .storePerformed _ _ => true
  | .vcResultLands _ _ _ => true
  | .pageWalkDone core _ _ _ => core < 96
  | .faultRecordWrite _ => true
  | .fragmentWake _ => true
  | .gradePollReissue _ => true
  | .amendmentReport => true
  | .vestibuleRelease => true
  | .vestibuleSpaceFreed => true
  | .hostGradedWriteDrop _ => true
  | .engineEnqueueRetry _ => true
  | .ringHeadPoll _ _ => true
  | .ringTmaxExpiry _ _ => true
  | .graphSubmit _ => true
  | .nodeFire _ _ _ => true
  | .nodeComplete _ _ _ => true
  | .blockPlace _ => true
  | .launchStarvationTimeout _ => true
  | .governorEvaluation => true
  | .kernelComplete _ => true
  | .groupRetire _ => true
  | .trackerEntryFreed _ => true
  | .tileScrubDone _ => true
  | .scratchpadEccError core _ _ _ => core < 96
  | .regangFuse _ => true
  | .fragmentPromote _ => true
  | .stakemaxFullSave _ => true
  | .wcLineDrain core _ => core < 96
  | .lanternSample _ _ _ _ => true
  | .lanternRecord _ _ => true
  | .lanternLate _ _ => true
  | .traceResume _ => true
  | .powerSample field _ _ => field < 6
  | .captureDone n => n < 4
  | .powerLimitThrottle field => field < 6
  | .throttleClockStep field => field < 6
  | .thermalThrottle field => field < 6
  | .thermalTrip field => field < 6
  | .leanReplay field => field < 6
  | .leanWindowEnd field => field < 6
  | .headroomRemeasure field _ => field < 6
  | .logFlush => true
  | .startStepComplete _ => true
  | .standbyPowerLoss => true
  | .remoteAccessArrival _ => true
  | .collectivePeerFlit _ _ _ => true
  | .sendFaultReport _ _ _ => true
  | .hostMemoryWrite _ _ => true
  | .controlFrameCrcFail => true
  | .hbmRetrain stack => stack < 12
  | .portErrorSample port _ => port < 16

end Sys2Proof
end

