-- ==== Sys2Proof/Decode.lean ====
section
/-! DEFINITION. Decoding and encoding of instruction words (R75 to R85). The decoder is total: a word that is no
instruction is refused by name. The encoder is written from the same format rulers. -/

namespace Sys2Proof

/-- Why a word is no instruction (R84, R85). -/
inductive DecodeRefusal where
  /-- A reserved opcode of R84. -/
  | reservedOpcode (w : Word)
  /-- A field that the entry does not use is nonzero (R81, R85). -/
  | mustBeZero (w : Word)
  /-- A value of f, g, ord, cond or a register field that the entry does not define (R81, R85). -/
  | undefinedField (w : Word)
  /-- Fewer than four bytes. -/
  | tooShort
  deriving DecidableEq, Repr

/-! Fields of a word: set and opcode (R75), then LR (R76), LM (R77), UR (R78), UB (R79) and UI (R80). -/

def isUniform (w : Word) : Bool := w.getLsbD 31
def opOf (w : Word) : BitVec 7 := w.extractLsb' 24 7
def lrF (w : Word) : BitVec 3 := w.extractLsb' 21 3
def lrD (w : Word) : BitVec 7 := w.extractLsb' 14 7
def lrA (w : Word) : BitVec 7 := w.extractLsb' 7 7
def lrB (w : Word) : BitVec 7 := w.extractLsb' 0 7
def lmF (w : Word) : BitVec 3 := w.extractLsb' 21 3
def lmD (w : Word) : BitVec 7 := w.extractLsb' 14 7
def lmS (w : Word) : BitVec 6 := w.extractLsb' 8 6
def lmA (w : Word) : BitVec 6 := w.extractLsb' 2 6
def lmO (w : Word) : BitVec 2 := w.extractLsb' 0 2
def urF (w : Word) : BitVec 4 := w.extractLsb' 20 4
def urD (w : Word) : BitVec 6 := w.extractLsb' 14 6
def urA (w : Word) : BitVec 6 := w.extractLsb' 8 6
def urB (w : Word) : BitVec 6 := w.extractLsb' 2 6
def urG (w : Word) : BitVec 2 := w.extractLsb' 0 2
def ubC (w : Word) : BitVec 4 := w.extractLsb' 20 4
def ubR (w : Word) : BitVec 4 := w.extractLsb' 16 4
def ubP (w : Word) : BitVec 16 := w.extractLsb' 0 16
def uiF (w : Word) : BitVec 4 := w.extractLsb' 20 4
def uiD (w : Word) : BitVec 6 := w.extractLsb' 14 6
def uiI (w : Word) : BitVec 14 := w.extractLsb' 0 14

/-! Words from fields. -/

def mkLR (op : BitVec 7) (f : BitVec 3) (d : BitVec 7) (a : BitVec 7) (b : BitVec 7) : Word := 0#1 ++ op ++ f ++ d ++ a ++ b
def mkLM (op : BitVec 7) (f : BitVec 3) (d : BitVec 7) (s : BitVec 6) (a : BitVec 6) (o : BitVec 2) : Word := 0#1 ++ op ++ f ++ d ++ s ++ a ++ o
def mkUR (op : BitVec 7) (f : BitVec 4) (d : BitVec 6) (a : BitVec 6) (b : BitVec 6) (g : BitVec 2) : Word := 1#1 ++ op ++ f ++ d ++ a ++ b ++ g
def mkUB (op : BitVec 7) (c : BitVec 4) (r : BitVec 4) (p : BitVec 16) : Word := 1#1 ++ op ++ c ++ r ++ p
def mkUI (op : BitVec 7) (f : BitVec 4) (d : BitVec 6) (i : BitVec 14) : Word := 1#1 ++ op ++ f ++ d ++ i

/-- The LR opcodes (R82, R83): the arm that the opcode selects, with its must-be-zero fields. -/
def decodeLane (op : Nat) (w : Word) : Except DecodeRefusal Instr :=
  match op with
  | 0x00 => .ok (.iadd (lrF w) (lrD w) (lrA w) (lrB w))
  | 0x01 => .ok (.isub (lrF w) (lrD w) (lrA w) (lrB w))
  | 0x02 => .ok (.imul (lrF w) (lrD w) (lrA w) (lrB w))
  | 0x03 => .ok (.imad (lrF w) (lrD w) (lrA w) (lrB w))
  | 0x04 => .ok (.imin (lrF w) (lrD w) (lrA w) (lrB w))
  | 0x05 => .ok (.imax (lrF w) (lrD w) (lrA w) (lrB w))
  | 0x06 => if lrB w = 0 then .ok (.iabs (lrF w) (lrD w) (lrA w)) else .error (.mustBeZero w)
  | 0x07 => if lrB w = 0 then .ok (.ineg (lrF w) (lrD w) (lrA w)) else .error (.mustBeZero w)
  | 0x08 => if lrF w = 0 then .ok (.and (lrD w) (lrA w) (lrB w)) else .error (.mustBeZero w)
  | 0x09 => if lrF w = 0 then .ok (.or (lrD w) (lrA w) (lrB w)) else .error (.mustBeZero w)
  | 0x0A => if lrF w = 0 then .ok (.xor (lrD w) (lrA w) (lrB w)) else .error (.mustBeZero w)
  | 0x0B => if lrF w = 0 then .ok (.andn (lrD w) (lrA w) (lrB w)) else .error (.mustBeZero w)
  | 0x0C => if lrF w = 0 ∧ lrB w = 0 then .ok (.not (lrD w) (lrA w)) else .error (.mustBeZero w)
  | 0x0D => if lrF w = 0 then .ok (.shl (lrD w) (lrA w) (lrB w)) else .error (.mustBeZero w)
  | 0x0E => .ok (.shr (lrF w) (lrD w) (lrA w) (lrB w))
  | 0x0F => .ok (.rot (lrF w) (lrD w) (lrA w) (lrB w))
  | 0x10 => if lrF w = 0 ∧ lrB w = 0 then .ok (.popc (lrD w) (lrA w)) else .error (.mustBeZero w)
  | 0x11 => if lrF w = 0 ∧ lrB w = 0 then .ok (.clz (lrD w) (lrA w)) else .error (.mustBeZero w)
  | 0x12 => if lrF w = 0 ∧ lrB w = 0 then .ok (.brev (lrD w) (lrA w)) else .error (.mustBeZero w)
  | 0x13 => .ok (.bfx (lrF w) (lrD w) (lrA w) (lrB w))
  | 0x14 => if lrF w = 0 then .ok (.bfi (lrD w) (lrA w) (lrB w)) else .error (.mustBeZero w)
  | 0x15 => .ok (.icmp (lrF w) (lrD w) (lrA w) (lrB w))
  | 0x16 => .ok (.icmpu (lrF w) (lrD w) (lrA w) (lrB w))
  | 0x17 => .ok (.sel (lrF w) (lrD w) (lrA w) (lrB w))
  | 0x18 => if lrF w = 0 ∧ lrB w = 0 then .ok (.mov (lrD w) (lrA w)) else .error (.mustBeZero w)
  | 0x19 => if lrF w = 0 ∧ lrA w = 0 ∧ lrB w = 0 then .ok (.movl (lrD w)) else .error (.mustBeZero w)
  | 0x1A => if lrF w = 0 then .ok (.iadd64 (lrD w) (lrA w) (lrB w)) else .error (.mustBeZero w)
  | 0x1B => .ok (.imulw (lrF w) (lrD w) (lrA w) (lrB w))
  | 0x1C => if lrB w = 0 then .ok (.cvti (lrF w) (lrD w) (lrA w)) else .error (.mustBeZero w)
  | 0x1D => .ok (.idot4 (lrF w) (lrD w) (lrA w) (lrB w))
  | 0x1E => if lrA w = 0 ∧ lrB w = 0 then .ok (.lidx (lrF w) (lrD w)) else .error (.mustBeZero w)
  | 0x20 => .ok (.permb (lrF w) (lrD w) (lrA w) (lrB w))
  | 0x21 => .ok (.balign (lrF w) (lrD w) (lrA w) (lrB w))
  | 0x22 => if lrF w = 0 then .ok (.shfl (lrD w) (lrA w) (lrB w)) else .error (.mustBeZero w)
  | 0x23 => .ok (.shup (lrF w) (lrD w) (lrA w) (lrB w))
  | 0x24 => .ok (.shdn (lrF w) (lrD w) (lrA w) (lrB w))
  | 0x25 => if lrF w = 0 then .ok (.shflx (lrD w) (lrA w) (lrB w)) else .error (.mustBeZero w)
  | 0x26 => if lrF w = 0 then .ok (.bcst (lrD w) (lrA w) (lrB w)) else .error (.mustBeZero w)
  | 0x27 => if lrF w = 0 then .ok (.bsel (lrD w) (lrA w) (lrB w)) else .error (.mustBeZero w)
  | 0x30 => .ok (.fadd (lrF w) (lrD w) (lrA w) (lrB w))
  | 0x31 => .ok (.fsub (lrF w) (lrD w) (lrA w) (lrB w))
  | 0x32 => .ok (.fmul (lrF w) (lrD w) (lrA w) (lrB w))
  | 0x33 => .ok (.ffma (lrF w) (lrD w) (lrA w) (lrB w))
  | 0x34 => if lrF w = 0 then .ok (.fmin (lrD w) (lrA w) (lrB w)) else .error (.mustBeZero w)
  | 0x35 => if lrF w = 0 then .ok (.fmax (lrD w) (lrA w) (lrB w)) else .error (.mustBeZero w)
  | 0x36 => .ok (.fsgn (lrF w) (lrD w) (lrA w) (lrB w))
  | 0x37 => .ok (.fcmp (lrF w) (lrD w) (lrA w) (lrB w))
  | 0x38 => if lrF w = 0 then .ok (.fclass (lrD w) (lrA w) (lrB w)) else .error (.mustBeZero w)
  | 0x39 => if lrB w = 0 then .ok (.frcp (lrF w) (lrD w) (lrA w)) else .error (.mustBeZero w)
  | 0x3A => if lrB w = 0 then .ok (.frsq (lrF w) (lrD w) (lrA w)) else .error (.mustBeZero w)
  | 0x3B => if lrB w = 0 then .ok (.fsqrt (lrF w) (lrD w) (lrA w)) else .error (.mustBeZero w)
  | 0x3C => if lrB w = 0 then .ok (.fexp2 (lrF w) (lrD w) (lrA w)) else .error (.mustBeZero w)
  | 0x3D => if lrB w = 0 then .ok (.flog2 (lrF w) (lrD w) (lrA w)) else .error (.mustBeZero w)
  | 0x3E => if lrB w = 0 then .ok (.ftanh (lrF w) (lrD w) (lrA w)) else .error (.mustBeZero w)
  | 0x3F => .ok (.fdiv (lrF w) (lrD w) (lrA w) (lrB w))
  | 0x40 => .ok (.hadd2 (lrF w) (lrD w) (lrA w) (lrB w))
  | 0x41 => .ok (.hmul2 (lrF w) (lrD w) (lrA w) (lrB w))
  | 0x42 => .ok (.hfma2 (lrF w) (lrD w) (lrA w) (lrB w))
  | 0x43 => .ok (.cvtf (lrF w) (lrD w) (lrA w) (lrB w))
  | 0x44 => if lrB w = 0 then .ok (.frnd (lrF w) (lrD w) (lrA w)) else .error (.mustBeZero w)
  | 0x45 => .ok (.fscl (lrF w) (lrD w) (lrA w) (lrB w))
  | 0x46 => .ok (.cvtfi (lrF w) (lrD w) (lrA w) (lrB w))
  | 0x47 => .ok (.cvtif (lrF w) (lrD w) (lrA w) (lrB w))
  | 0x48 => .ok (.packn (lrF w) (lrD w) (lrA w) (lrB w))
  | 0x49 => .ok (.unpkn (lrF w) (lrD w) (lrA w) (lrB w))
  | _ => .error (.reservedOpcode w)

/-- The LM opcodes (R82, R83): the arm that the opcode selects, with its must-be-zero fields. -/
def decodeMemory (op : Nat) (w : Word) : Except DecodeRefusal Instr :=
  match op with
  | 0x50 => .ok (.ld (lmF w) (lmD w) (lmS w) (lmA w) (lmO w))
  | 0x51 => .ok (.st (lmF w) (lmD w) (lmS w) (lmA w) (lmO w))
  | 0x52 => .ok (.ldl (lmF w) (lmD w) (lmS w) (lmA w) (lmO w))
  | 0x53 => .ok (.stl (lmF w) (lmD w) (lmS w) (lmA w) (lmO w))
  | 0x54 => .ok (.atomC (lmF w) (lmD w) (lmS w) (lmA w) (lmO w))
  | 0x55 => .ok (.atomD (lmF w) (lmD w) (lmS w) (lmA w) (lmO w))
  | 0x56 => .ok (.atomS (lmF w) (lmD w) (lmS w) (lmA w) (lmO w))
  | 0x57 => .ok (.atoml (lmF w) (lmD w) (lmS w) (lmA w) (lmO w))
  | 0x58 => .ok (.xchg (lmF w) (lmD w) (lmS w) (lmA w) (lmO w))
  | 0x59 => .ok (.cas (lmF w) (lmD w) (lmS w) (lmA w) (lmO w))
  | 0x5A => .ok (.red (lmF w) (lmD w) (lmS w) (lmA w) (lmO w))
  | 0x5B => .ok (.ldf (lmF w) (lmD w) (lmS w) (lmA w) (lmO w))
  | 0x5D => if lmD w = 0 ∧ lmO w = 0 then .ok (.pref (lmF w) (lmS w) (lmA w)) else .error (.mustBeZero w)
  | _ => .error (.reservedOpcode w)

/-- The UR opcodes (R82, R83): the arm that the opcode selects, with its must-be-zero fields. -/
def decodeUniform (op : Nat) (w : Word) : Except DecodeRefusal Instr :=
  match op with
  | 0x00 => if urG w = 0 then .ok (.sadd (urF w) (urD w) (urA w) (urB w)) else .error (.mustBeZero w)
  | 0x01 => if urG w = 0 then .ok (.ssub (urF w) (urD w) (urA w) (urB w)) else .error (.mustBeZero w)
  | 0x02 => if urF w = 0 ∧ urG w = 0 then .ok (.smul (urD w) (urA w) (urB w)) else .error (.mustBeZero w)
  | 0x03 => if urG w = 0 then .ok (.smulh (urF w) (urD w) (urA w) (urB w)) else .error (.mustBeZero w)
  | 0x04 => if urF w = 0 ∧ urG w = 0 then .ok (.sand (urD w) (urA w) (urB w)) else .error (.mustBeZero w)
  | 0x05 => if urF w = 0 ∧ urG w = 0 then .ok (.sor (urD w) (urA w) (urB w)) else .error (.mustBeZero w)
  | 0x06 => if urF w = 0 ∧ urG w = 0 then .ok (.sxor (urD w) (urA w) (urB w)) else .error (.mustBeZero w)
  | 0x07 => if urF w = 0 ∧ urG w = 0 then .ok (.sshl (urD w) (urA w) (urB w)) else .error (.mustBeZero w)
  | 0x08 => if urG w = 0 then .ok (.sshr (urF w) (urD w) (urA w) (urB w)) else .error (.mustBeZero w)
  | 0x09 => if urG w = 0 then .ok (.smin (urF w) (urD w) (urA w) (urB w)) else .error (.mustBeZero w)
  | 0x0A => if urG w = 0 then .ok (.smax (urF w) (urD w) (urA w) (urB w)) else .error (.mustBeZero w)
  | 0x0B => if urG w = 0 then .ok (.scmp (urF w) (urD w) (urA w) (urB w)) else .error (.mustBeZero w)
  | 0x0C => if urF w = 0 ∧ urG w = 0 then .ok (.ssel (urD w) (urA w) (urB w)) else .error (.mustBeZero w)
  | 0x0D => if urF w = 0 ∧ urB w = 0 ∧ urG w = 0 then .ok (.smov (urD w) (urA w)) else .error (.mustBeZero w)
  | 0x10 => if urF w = 0 ∧ urA w = 0 ∧ urB w = 0 ∧ urG w = 0 then .ok (.smovl (urD w)) else .error (.mustBeZero w)
  | 0x11 => if urF w = 0 ∧ urB w = 0 ∧ urG w = 0 then .ok (.spopc (urD w) (urA w)) else .error (.mustBeZero w)
  | 0x12 => if urF w = 0 ∧ urB w = 0 ∧ urG w = 0 then .ok (.sclz (urD w) (urA w)) else .error (.mustBeZero w)
  | 0x13 => if urG w = 0 then .ok (.sbfx (urF w) (urD w) (urA w) (urB w)) else .error (.mustBeZero w)
  | 0x14 => .ok (.sld (urF w) (urD w) (urA w) (urB w) (urG w))
  | 0x15 => .ok (.sst (urF w) (urD w) (urA w) (urB w) (urG w))
  | 0x18 => if urF w = 0 ∧ urG w = 0 then .ok (.mand (urD w) (urA w) (urB w)) else .error (.mustBeZero w)
  | 0x19 => if urF w = 0 ∧ urG w = 0 then .ok (.mor (urD w) (urA w) (urB w)) else .error (.mustBeZero w)
  | 0x1A => if urF w = 0 ∧ urG w = 0 then .ok (.mxor (urD w) (urA w) (urB w)) else .error (.mustBeZero w)
  | 0x1B => if urF w = 0 ∧ urB w = 0 ∧ urG w = 0 then .ok (.mnot (urD w) (urA w)) else .error (.mustBeZero w)
  | 0x1C => if urB w = 0 ∧ urG w = 0 then .ok (.mmov (urF w) (urD w) (urA w)) else .error (.mustBeZero w)
  | 0x1D => if urA w = 0 ∧ urB w = 0 ∧ urG w = 0 then .ok (.emrd (urF w) (urD w)) else .error (.mustBeZero w)
  | 0x1E => if urD w = 0 ∧ urB w = 0 ∧ urG w = 0 then .ok (.emwr (urF w) (urA w)) else .error (.mustBeZero w)
  | 0x1F => if urF w = 0 ∧ urB w = 0 ∧ urG w = 0 then .ok (.ballot (urD w) (urA w)) else .error (.mustBeZero w)
  | 0x20 => if urB w = 0 ∧ urG w = 0 then .ok (.mpopc (urF w) (urD w) (urA w)) else .error (.mustBeZero w)
  | 0x21 => if urB w = 0 ∧ urG w = 0 then .ok (.mfirst (urF w) (urD w) (urA w)) else .error (.mustBeZero w)
  | 0x22 => if urF w = 0 then .ok (.rdlane (urD w) (urA w) (urB w) (urG w)) else .error (.mustBeZero w)
  | 0x23 => if urF w = 0 then .ok (.wrlane (urD w) (urA w) (urB w) (urG w)) else .error (.mustBeZero w)
  | 0x24 => if urB w = 0 ∧ urG w = 0 then .ok (.redux (urF w) (urD w) (urA w)) else .error (.mustBeZero w)
  | 0x25 => if urB w = 0 ∧ urG w = 0 then .ok (.vbcst (urF w) (urD w) (urA w)) else .error (.mustBeZero w)
  | 0x26 => if urB w = 0 ∧ urG w = 0 then .ok (.srd (urF w) (urD w) (urA w)) else .error (.mustBeZero w)
  | 0x27 => if urF w = 0 ∧ urB w = 0 ∧ urG w = 0 then .ok (.swr (urD w) (urA w)) else .error (.mustBeZero w)
  | 0x29 => if urF w = 0 ∧ urD w = 0 ∧ urB w = 0 ∧ urG w = 0 then .ok (.jmpi (urA w)) else .error (.mustBeZero w)
  | 0x2B => if urF w = 0 ∧ urD w = 0 ∧ urB w = 0 ∧ urG w = 0 then .ok (.calli (urA w)) else .error (.mustBeZero w)
  | 0x2C => if urF w = 0 ∧ urD w = 0 ∧ urA w = 0 ∧ urB w = 0 ∧ urG w = 0 then .ok .ret else .error (.mustBeZero w)
  | 0x2E => if urF w = 0 ∧ urD w = 0 ∧ urA w = 0 ∧ urB w = 0 ∧ urG w = 0 then .ok .regang else .error (.mustBeZero w)
  | 0x30 => if urF w = 0 ∧ urD w = 0 ∧ urA w = 0 ∧ urB w = 0 ∧ urG w = 2 then .ok .mtabClr else if urF w = 0 ∧ urB w = 0 ∧ (urG w).extractLsb' 1 1 = 0 then .ok (.mtab (urD w) (urA w) ((urG w).extractLsb' 0 1)) else .error (.mustBeZero w)
  | 0x32 => if urF w = 0 ∧ urD w = 0 ∧ urA w = 0 ∧ urB w = 0 ∧ urG w = 0 then .ok .tail else .error (.mustBeZero w)
  | 0x33 => if urF w = 0 ∧ urD w = 0 ∧ urA w = 0 ∧ urB w = 0 ∧ urG w = 0 then .ok .exit else .error (.mustBeZero w)
  | 0x36 => if urF w = 0 ∧ urD w = 0 ∧ urB w = 0 ∧ urG w = 0 then .ok (.syncl (urA w)) else .error (.mustBeZero w)
  | 0x38 => if urF w = 0 ∧ urD w = 0 ∧ urA w = 0 ∧ urB w = 0 ∧ urG w = 0 then .ok .tret else .error (.mustBeZero w)
  | 0x3A => if urF w = 0 ∧ urD w = 0 then .ok (.icinv (urA w) (urB w) (urG w)) else .error (.mustBeZero w)
  | 0x3B => if urF w = 0 ∧ urD w = 0 ∧ urA w = 0 ∧ urB w = 0 ∧ urG w = 0 then .ok .ifence else .error (.mustBeZero w)
  | 0x3C => if urF w = 0 ∧ urD w = 0 ∧ urA w = 0 ∧ urB w = 0 then .ok (.fence (urG w)) else .error (.mustBeZero w)
  | 0x3D => if urF w = 0 ∧ urD w = 0 ∧ urA w = 0 ∧ urB w = 0 ∧ urG w = 0 then .ok .nop else .error (.mustBeZero w)
  | 0x40 => if urF w = 0 ∧ urD w = 0 ∧ urB w = 0 ∧ urG w = 1 then .ok (.bariBytes (urA w)) else if urF w = 0 ∧ urD w = 0 ∧ urG w = 0 then .ok (.bari (urA w) (urB w)) else .error (.mustBeZero w)
  | 0x41 => if urF w = 0 ∧ urB w = 0 then .ok (.bara (urD w) (urA w) (urG w)) else .error (.mustBeZero w)
  | 0x42 => if urF w = 0 ∧ urD w = 0 ∧ urG w = 0 then .ok (.barw (urA w) (urB w)) else .error (.mustBeZero w)
  | 0x43 => if urF w = 0 then .ok (.bart (urD w) (urA w) (urB w) (urG w)) else .error (.mustBeZero w)
  | 0x44 => if urF w = 0 ∧ urD w = 0 ∧ urB w = 0 ∧ urG w = 0 then .ok (.barx (urA w)) else .error (.mustBeZero w)
  | 0x45 => if urF w = 0 ∧ urD w = 0 ∧ urA w = 0 ∧ urB w = 0 ∧ urG w = 0 then .ok .barb else .error (.mustBeZero w)
  | 0x46 => if urB w = 0 ∧ urG w = 0 then .ok (.phase (urF w) (urD w) (urA w)) else .error (.mustBeZero w)
  | 0x48 => if urF w = 0 then .ok (.talloc (urD w) (urA w) (urB w) (urG w)) else .error (.mustBeZero w)
  | 0x49 => if urF w = 0 ∧ urD w = 0 ∧ urB w = 0 ∧ urG w = 0 then .ok (.tfree (urA w)) else .error (.mustBeZero w)
  | 0x4A => if urF w = 1 ∧ urA w = 0 ∧ urB w = 0 ∧ urG w = 0 then .ok (.tinfoFree (urD w)) else if urF w = 0 ∧ urB w = 0 ∧ urG w = 0 then .ok (.tinfo (urD w) (urA w)) else .error (.mustBeZero w)
  | 0x4B => if urF w = 0 ∧ urD w = 0 ∧ urB w = 0 ∧ urG w = 0 then .ok (.tzero (urA w)) else .error (.mustBeZero w)
  | 0x4C => if urF w = 3 ∧ urB w = 0 ∧ urG w = 0 then .ok (.trdSt (urD w) (urA w)) else if urB w = 0 ∧ urG w = 0 then .ok (.trd (urF w) (urD w) (urA w)) else .error (.mustBeZero w)
  | 0x4D => if urD w = 0 ∧ urG w = 0 then .ok (.twr (urF w) (urA w) (urB w)) else .error (.mustBeZero w)
  | 0x4E => if urD w = 0 ∧ urG w = 0 then .ok (.mma (urF w) (urA w) (urB w)) else .error (.mustBeZero w)
  | 0x4F => if urG w = 0 then .ok (.mmag (urF w) (urD w) (urA w) (urB w)) else .error (.mustBeZero w)
  | 0x50 => if urF w = 0 ∧ urD w = 0 ∧ urG w = 0 then .ok (.cpyk (urA w) (urB w)) else .error (.mustBeZero w)
  | 0x58 => .ok (.qenq (urF w) (urD w) (urA w) (urB w) (urG w))
  | 0x59 => .ok (.qdeq (urF w) (urD w) (urA w) (urB w) (urG w))
  | 0x5A => if urG w = 0 then .ok (.qsteal (urF w) (urD w) (urA w) (urB w)) else .error (.mustBeZero w)
  | 0x5B => if urF w = 0 ∧ urB w = 0 ∧ urG w = 0 then .ok (.qinfo (urD w) (urA w)) else .error (.mustBeZero w)
  | 0x5C => if urB w = 0 ∧ urG w = 0 then .ok (.qcap (urF w) (urD w) (urA w)) else .error (.mustBeZero w)
  | 0x5D => if urF w = 0 ∧ urG w = 0 then .ok (.launch (urD w) (urA w) (urB w)) else .error (.mustBeZero w)
  | 0x5E => if urF w = 0 ∧ urG w = 0 then .ok (.renew (urD w) (urA w) (urB w)) else .error (.mustBeZero w)
  | 0x5F => if urF w = 0 then .ok (.signal (urD w) (urA w) (urB w) (urG w)) else .error (.mustBeZero w)
  | 0x62 => if urF w = 0 ∧ urB w = 0 ∧ urG w = 0 then .ok (.gread (urD w) (urA w)) else .error (.mustBeZero w)
  | 0x63 => if urD w = 0 ∧ urG w = 0 then .ok (.gwait (urF w) (urA w) (urB w)) else .error (.mustBeZero w)
  | 0x64 => if urD w = 0 ∧ urG w = 0 then .ok (.amend (urF w) (urA w) (urB w)) else .error (.mustBeZero w)
  | 0x65 => if urA w = 0 ∧ urB w = 0 ∧ urG w = 0 then .ok (.gstat (urF w) (urD w)) else .error (.mustBeZero w)
  | 0x68 => if urF w = 0 ∧ urB w = 0 ∧ urG w = 0 then .ok (.pdecl (urD w) (urA w)) else .error (.mustBeZero w)
  | 0x69 => if urF w = 0 then .ok (.pconv (urD w) (urA w) (urB w) (urG w)) else .error (.mustBeZero w)
  | 0x6A => if urF w = 0 then .ok (.pld (urD w) (urA w) (urB w) (urG w)) else .error (.mustBeZero w)
  | 0x6B => if urB w = 0 ∧ urG w = 0 then .ok (.pstat (urF w) (urD w) (urA w)) else .error (.mustBeZero w)
  | 0x6C => if urF w = 0 ∧ urD w = 0 ∧ urB w = 0 ∧ urG w = 0 then .ok (.pfree (urA w)) else .error (.mustBeZero w)
  | 0x70 => if urF w = 0 ∧ urB w = 0 ∧ urG w = 1 then .ok (.xsendLand (urD w) (urA w)) else if urF w = 0 ∧ urG w = 0 then .ok (.xsend (urD w) (urA w) (urB w)) else .error (.mustBeZero w)
  | 0x71 => if urF w = 0 ∧ urG w = 0 then .ok (.reconf (urD w) (urA w) (urB w)) else .error (.mustBeZero w)
  | 0x72 => if urF w = 0 ∧ urG w = 0 then .ok (.slots (urD w) (urA w) (urB w)) else .error (.mustBeZero w)
  | 0x73 => if urB w = 0 ∧ urG w = 0 then .ok (.coll (urF w) (urD w) (urA w)) else .error (.mustBeZero w)
  | _ => .error (.reservedOpcode w)

/-- The UB opcodes (R82, R83): the arm that the opcode selects, with its must-be-zero fields. -/
def decodeBranch (op : Nat) (w : Word) : Except DecodeRefusal Instr :=
  match op with
  | 0x28 => .ok (.bra (ubC w) (ubR w) (ubP w))
  | 0x2A => if ubC w = 0 ∧ ubR w = 0 then .ok (.call (ubP w)) else .error (.mustBeZero w)
  | 0x2D => .ok (.split (ubC w) (ubR w) (ubP w))
  | 0x34 => if ubC w = 0 ∧ ubR w = 0 then .ok (.yield (ubP w)) else .error (.mustBeZero w)
  | 0x3E => .ok (.loopb (ubC w) (ubR w) (ubP w))
  | _ => .error (.reservedOpcode w)

/-- The UI opcodes (R82, R83): the arm that the opcode selects, with its must-be-zero fields. -/
def decodeImmediate (op : Nat) (w : Word) : Except DecodeRefusal Instr :=
  match op with
  | 0x0E => if uiF w = 0 then .ok (.smovi (uiD w) (uiI w)) else .error (.mustBeZero w)
  | 0x0F => .ok (.slui (uiF w) (uiD w) (uiI w))
  | 0x16 => if uiF w = 0 then .ok (.saddi (uiD w) (uiI w)) else .error (.mustBeZero w)
  | 0x2F => if uiF w = 0 then .ok (.meld (uiD w) (uiI w)) else .error (.mustBeZero w)
  | 0x31 => if uiF w = 0 ∧ uiD w = 0 then .ok (.stake (uiI w)) else .error (.mustBeZero w)
  | 0x35 => if uiD w = 0 then .ok (.wait (uiF w) (uiI w)) else .error (.mustBeZero w)
  | 0x37 => if uiF w = 0 ∧ uiD w = 0 then .ok (.trap (uiI w)) else .error (.mustBeZero w)
  | 0x39 => if uiF w = 0 ∧ uiD w = 0 then .ok (.brk (uiI w)) else .error (.mustBeZero w)
  | 0x3F => if uiD w = 0 then .ok (.tmark (uiF w) (uiI w)) else .error (.mustBeZero w)
  | 0x60 => if uiF w = 0 ∧ uiD w = 0 then .ok (.gfloor (uiI w)) else .error (.mustBeZero w)
  | 0x61 => if uiF w = 0 ∧ uiD w = 0 then .ok (.gcap (uiI w)) else .error (.mustBeZero w)
  | _ => .error (.reservedOpcode w)

/-- Whether a uniform opcode has format UB, or UI (R83). -/
def isBranchOp (op : Nat) : Bool := op = 0x28 || op = 0x2A || op = 0x2D || op = 0x34 || op = 0x3E
def isImmediateOp (op : Nat) : Bool :=
  op = 0x0E || op = 0x0F || op = 0x16 || op = 0x2F || op = 0x31 || op = 0x35 || op = 0x37 || op = 0x39 || op = 0x3F
    || op = 0x60 || op = 0x61

/-- The word's instruction before the checks of R85 on defined values. -/
def decodeRaw (w : Word) : Except DecodeRefusal Instr :=
  let op := (opOf w).toNat
  if isUniform w then
    if isBranchOp op then decodeBranch op w
    else if isImmediateOp op then decodeImmediate op w
    else decodeUniform op w
  else if 0x50 ≤ op ∧ op ≤ 0x5D then decodeMemory op w
  else decodeLane op w

/-- The instruction a word holds, or why it holds none (R84, R85). -/
def decodeWord (w : Word) : Except DecodeRefusal Instr :=
  match decodeRaw w with
  | .ok i => if i.wellFormed then .ok i else .error (.undefinedField w)
  | .error e => .error e

/-- A word from its bytes, least significant first (R2). -/
def wordOf (b0 b1 b2 b3 : Byte) : Word := b3 ++ b2 ++ b1 ++ b0

/-- Decodes the first four bytes and gives the rest. -/
def decodeBytes : List Byte → Except DecodeRefusal (Instr × List Byte)
  | b0 :: b1 :: b2 :: b3 :: rest =>
    match decodeWord (wordOf b0 b1 b2 b3) with
    | .ok i => .ok (i, rest)
    | .error e => .error e
  | _ => .error .tooShort

/-- The host's question: the instruction the decoder reads from a table row's word, laid out as the hardware stores it. -/
def decodeTableWord (nbits w : Nat) : Option Instr :=
  let x : Word := BitVec.ofNat 32 (w % 2 ^ nbits)
  match decodeBytes [x.extractLsb' 0 8, x.extractLsb' 8 8, x.extractLsb' 16 8, x.extractLsb' 24 8] with
  | .ok (i, _) => some i
  | .error _ => none

/-- The word of an encoded instruction (R76 to R80); `none` for a step or event, which has no encoding. -/
def encode : Instr → Option Word
  | .iadd f d a b => some (mkLR 0x00 f d a b)
  | .isub f d a b => some (mkLR 0x01 f d a b)
  | .imul f d a b => some (mkLR 0x02 f d a b)
  | .imad f d a b => some (mkLR 0x03 f d a b)
  | .imin f d a b => some (mkLR 0x04 f d a b)
  | .imax f d a b => some (mkLR 0x05 f d a b)
  | .iabs f d a => some (mkLR 0x06 f d a 0)
  | .ineg f d a => some (mkLR 0x07 f d a 0)
  | .and d a b => some (mkLR 0x08 0 d a b)
  | .or d a b => some (mkLR 0x09 0 d a b)
  | .xor d a b => some (mkLR 0x0A 0 d a b)
  | .andn d a b => some (mkLR 0x0B 0 d a b)
  | .not d a => some (mkLR 0x0C 0 d a 0)
  | .shl d a b => some (mkLR 0x0D 0 d a b)
  | .shr f d a b => some (mkLR 0x0E f d a b)
  | .rot f d a b => some (mkLR 0x0F f d a b)
  | .popc d a => some (mkLR 0x10 0 d a 0)
  | .clz d a => some (mkLR 0x11 0 d a 0)
  | .brev d a => some (mkLR 0x12 0 d a 0)
  | .bfx f d a b => some (mkLR 0x13 f d a b)
  | .bfi d a b => some (mkLR 0x14 0 d a b)
  | .icmp f d a b => some (mkLR 0x15 f d a b)
  | .icmpu f d a b => some (mkLR 0x16 f d a b)
  | .sel f d a b => some (mkLR 0x17 f d a b)
  | .mov d a => some (mkLR 0x18 0 d a 0)
  | .movl d => some (mkLR 0x19 0 d 0 0)
  | .iadd64 d a b => some (mkLR 0x1A 0 d a b)
  | .imulw f d a b => some (mkLR 0x1B f d a b)
  | .cvti f d a => some (mkLR 0x1C f d a 0)
  | .idot4 f d a b => some (mkLR 0x1D f d a b)
  | .lidx f d => some (mkLR 0x1E f d 0 0)
  | .permb f d a b => some (mkLR 0x20 f d a b)
  | .balign f d a b => some (mkLR 0x21 f d a b)
  | .shfl d a b => some (mkLR 0x22 0 d a b)
  | .shup f d a b => some (mkLR 0x23 f d a b)
  | .shdn f d a b => some (mkLR 0x24 f d a b)
  | .shflx d a b => some (mkLR 0x25 0 d a b)
  | .bcst d a b => some (mkLR 0x26 0 d a b)
  | .bsel d a b => some (mkLR 0x27 0 d a b)
  | .fadd f d a b => some (mkLR 0x30 f d a b)
  | .fsub f d a b => some (mkLR 0x31 f d a b)
  | .fmul f d a b => some (mkLR 0x32 f d a b)
  | .ffma f d a b => some (mkLR 0x33 f d a b)
  | .fmin d a b => some (mkLR 0x34 0 d a b)
  | .fmax d a b => some (mkLR 0x35 0 d a b)
  | .fsgn f d a b => some (mkLR 0x36 f d a b)
  | .fcmp f d a b => some (mkLR 0x37 f d a b)
  | .fclass d a b => some (mkLR 0x38 0 d a b)
  | .frcp f d a => some (mkLR 0x39 f d a 0)
  | .frsq f d a => some (mkLR 0x3A f d a 0)
  | .fsqrt f d a => some (mkLR 0x3B f d a 0)
  | .fexp2 f d a => some (mkLR 0x3C f d a 0)
  | .flog2 f d a => some (mkLR 0x3D f d a 0)
  | .ftanh f d a => some (mkLR 0x3E f d a 0)
  | .fdiv f d a b => some (mkLR 0x3F f d a b)
  | .hadd2 f d a b => some (mkLR 0x40 f d a b)
  | .hmul2 f d a b => some (mkLR 0x41 f d a b)
  | .hfma2 f d a b => some (mkLR 0x42 f d a b)
  | .cvtf f d a b => some (mkLR 0x43 f d a b)
  | .frnd f d a => some (mkLR 0x44 f d a 0)
  | .fscl f d a b => some (mkLR 0x45 f d a b)
  | .cvtfi f d a b => some (mkLR 0x46 f d a b)
  | .cvtif f d a b => some (mkLR 0x47 f d a b)
  | .packn f d a b => some (mkLR 0x48 f d a b)
  | .unpkn f d a b => some (mkLR 0x49 f d a b)
  | .ld f d s a o => some (mkLM 0x50 f d s a o)
  | .st f d s a o => some (mkLM 0x51 f d s a o)
  | .ldl f d s a o => some (mkLM 0x52 f d s a o)
  | .stl f d s a o => some (mkLM 0x53 f d s a o)
  | .atomC f d s a o => some (mkLM 0x54 f d s a o)
  | .atomD f d s a o => some (mkLM 0x55 f d s a o)
  | .atomS f d s a o => some (mkLM 0x56 f d s a o)
  | .atoml f d s a o => some (mkLM 0x57 f d s a o)
  | .xchg f d s a o => some (mkLM 0x58 f d s a o)
  | .cas f d s a o => some (mkLM 0x59 f d s a o)
  | .red f d s a o => some (mkLM 0x5A f d s a o)
  | .ldf f d s a o => some (mkLM 0x5B f d s a o)
  | .pref f s a => some (mkLM 0x5D f 0 s a 0)
  | .sadd f d a b => some (mkUR 0x00 f d a b 0)
  | .ssub f d a b => some (mkUR 0x01 f d a b 0)
  | .smul d a b => some (mkUR 0x02 0 d a b 0)
  | .smulh f d a b => some (mkUR 0x03 f d a b 0)
  | .sand d a b => some (mkUR 0x04 0 d a b 0)
  | .sor d a b => some (mkUR 0x05 0 d a b 0)
  | .sxor d a b => some (mkUR 0x06 0 d a b 0)
  | .sshl d a b => some (mkUR 0x07 0 d a b 0)
  | .sshr f d a b => some (mkUR 0x08 f d a b 0)
  | .smin f d a b => some (mkUR 0x09 f d a b 0)
  | .smax f d a b => some (mkUR 0x0A f d a b 0)
  | .scmp f d a b => some (mkUR 0x0B f d a b 0)
  | .ssel d a b => some (mkUR 0x0C 0 d a b 0)
  | .smov d a => some (mkUR 0x0D 0 d a 0 0)
  | .smovi d i => some (mkUI 0x0E 0 d i)
  | .slui f d i => some (mkUI 0x0F f d i)
  | .smovl d => some (mkUR 0x10 0 d 0 0 0)
  | .spopc d a => some (mkUR 0x11 0 d a 0 0)
  | .sclz d a => some (mkUR 0x12 0 d a 0 0)
  | .sbfx f d a b => some (mkUR 0x13 f d a b 0)
  | .sld f d a b g => some (mkUR 0x14 f d a b g)
  | .sst f d a b g => some (mkUR 0x15 f d a b g)
  | .saddi d i => some (mkUI 0x16 0 d i)
  | .mand d a b => some (mkUR 0x18 0 d a b 0)
  | .mor d a b => some (mkUR 0x19 0 d a b 0)
  | .mxor d a b => some (mkUR 0x1A 0 d a b 0)
  | .mnot d a => some (mkUR 0x1B 0 d a 0 0)
  | .mmov f d a => some (mkUR 0x1C f d a 0 0)
  | .emrd f d => some (mkUR 0x1D f d 0 0 0)
  | .emwr f a => some (mkUR 0x1E f 0 a 0 0)
  | .ballot d a => some (mkUR 0x1F 0 d a 0 0)
  | .mpopc f d a => some (mkUR 0x20 f d a 0 0)
  | .mfirst f d a => some (mkUR 0x21 f d a 0 0)
  | .rdlane d a b g => some (mkUR 0x22 0 d a b g)
  | .wrlane d a b g => some (mkUR 0x23 0 d a b g)
  | .redux f d a => some (mkUR 0x24 f d a 0 0)
  | .vbcst f d a => some (mkUR 0x25 f d a 0 0)
  | .srd f d a => some (mkUR 0x26 f d a 0 0)
  | .swr d a => some (mkUR 0x27 0 d a 0 0)
  | .bra c r p => some (mkUB 0x28 c r p)
  | .jmpi a => some (mkUR 0x29 0 0 a 0 0)
  | .call p => some (mkUB 0x2A 0 0 p)
  | .calli a => some (mkUR 0x2B 0 0 a 0 0)
  | .ret => some (mkUR 0x2C 0 0 0 0 0)
  | .split c r p => some (mkUB 0x2D c r p)
  | .regang => some (mkUR 0x2E 0 0 0 0 0)
  | .meld d i => some (mkUI 0x2F 0 d i)
  | .mtab d a g => some (mkUR 0x30 0 d a 0 (0#1 ++ g))
  | .mtabClr => some (mkUR 0x30 0 0 0 0 2)
  | .stake i => some (mkUI 0x31 0 0 i)
  | .tail => some (mkUR 0x32 0 0 0 0 0)
  | .exit => some (mkUR 0x33 0 0 0 0 0)
  | .yield p => some (mkUB 0x34 0 0 p)
  | .wait f i => some (mkUI 0x35 f 0 i)
  | .syncl a => some (mkUR 0x36 0 0 a 0 0)
  | .trap i => some (mkUI 0x37 0 0 i)
  | .tret => some (mkUR 0x38 0 0 0 0 0)
  | .brk i => some (mkUI 0x39 0 0 i)
  | .icinv a b g => some (mkUR 0x3A 0 0 a b g)
  | .ifence => some (mkUR 0x3B 0 0 0 0 0)
  | .fence g => some (mkUR 0x3C 0 0 0 0 g)
  | .nop => some (mkUR 0x3D 0 0 0 0 0)
  | .loopb c r p => some (mkUB 0x3E c r p)
  | .tmark f i => some (mkUI 0x3F f 0 i)
  | .bari a b => some (mkUR 0x40 0 0 a b 0)
  | .bariBytes a => some (mkUR 0x40 0 0 a 0 1)
  | .bara d a g => some (mkUR 0x41 0 d a 0 g)
  | .barw a b => some (mkUR 0x42 0 0 a b 0)
  | .bart d a b g => some (mkUR 0x43 0 d a b g)
  | .barx a => some (mkUR 0x44 0 0 a 0 0)
  | .barb => some (mkUR 0x45 0 0 0 0 0)
  | .phase f d a => some (mkUR 0x46 f d a 0 0)
  | .talloc d a b g => some (mkUR 0x48 0 d a b g)
  | .tfree a => some (mkUR 0x49 0 0 a 0 0)
  | .tinfo d a => some (mkUR 0x4A 0 d a 0 0)
  | .tinfoFree d => some (mkUR 0x4A 1 d 0 0 0)
  | .tzero a => some (mkUR 0x4B 0 0 a 0 0)
  | .trd f d a => some (mkUR 0x4C f d a 0 0)
  | .trdSt d a => some (mkUR 0x4C 3 d a 0 0)
  | .twr f a b => some (mkUR 0x4D f 0 a b 0)
  | .mma f a b => some (mkUR 0x4E f 0 a b 0)
  | .mmag f d a b => some (mkUR 0x4F f d a b 0)
  | .cpyk a b => some (mkUR 0x50 0 0 a b 0)
  | .qenq f d a b g => some (mkUR 0x58 f d a b g)
  | .qdeq f d a b g => some (mkUR 0x59 f d a b g)
  | .qsteal f d a b => some (mkUR 0x5A f d a b 0)
  | .qinfo d a => some (mkUR 0x5B 0 d a 0 0)
  | .qcap f d a => some (mkUR 0x5C f d a 0 0)
  | .launch d a b => some (mkUR 0x5D 0 d a b 0)
  | .renew d a b => some (mkUR 0x5E 0 d a b 0)
  | .signal d a b g => some (mkUR 0x5F 0 d a b g)
  | .gfloor i => some (mkUI 0x60 0 0 i)
  | .gcap i => some (mkUI 0x61 0 0 i)
  | .gread d a => some (mkUR 0x62 0 d a 0 0)
  | .gwait f a b => some (mkUR 0x63 f 0 a b 0)
  | .amend f a b => some (mkUR 0x64 f 0 a b 0)
  | .gstat f d => some (mkUR 0x65 f d 0 0 0)
  | .pdecl d a => some (mkUR 0x68 0 d a 0 0)
  | .pconv d a b g => some (mkUR 0x69 0 d a b g)
  | .pld d a b g => some (mkUR 0x6A 0 d a b g)
  | .pstat f d a => some (mkUR 0x6B f d a 0 0)
  | .pfree a => some (mkUR 0x6C 0 0 a 0 0)
  | .xsend d a b => some (mkUR 0x70 0 d a b 0)
  | .xsendLand d a => some (mkUR 0x70 0 d a 0 1)
  | .reconf d a b => some (mkUR 0x71 0 d a b 0)
  | .slots d a b => some (mkUR 0x72 0 d a b 0)
  | .coll f d a => some (mkUR 0x73 f d a 0 0)
  | .illegalInstruction => none
  | .faultyBundle => none
  | .create _ => none
  | .bind _ _ _ => none
  | .run _ _ _ => none
  | .preempt _ _ _ => none
  | .preemptDone _ => none
  | .resume _ _ _ => none
  | .stop _ _ _ => none
  | .contextStopped _ => none
  | .destroy _ _ _ => none
  | .qcreate _ _ => none
  | .seal _ _ => none
  | .qdestroy _ _ => none
  | .enqCommit _ _ _ _ => none
  | .inval _ _ => none
  | .invalDone _ => none
  | .resolve _ _ => none
  | .dirtyscan _ _ => none
  | .hostAmend _ _ => none
  | .dbgstop _ _ => none
  | .blockHalted _ _ => none
  | .dbgread _ _ => none
  | .dbgresume _ _ => none
  | .dbgctl _ _ => none
  | .commit => none
  | .pitchWrite _ _ => none
  | .capbaseWrite _ _ => none
  | .capctlWrite _ _ => none
  | .lctlWrite _ _ _ => none
  | .tctlWrite _ _ _ => none
  | .registerWrite _ _ _ _ => none
  | .attest _ => none
  | .cold => none
  | .warm => none
  | .clearfail _ => none
  | .logread => none
  | .fieldUp _ => none
  | .fieldStartTimeout => none
  | .fieldLoss _ => none
  | .portTrained _ => none
  | .circuitUp _ => none
  | .portDrained _ => none
  | .portFault _ => none
  | .portRetrained _ => none
  | .reconfDrained _ => none
  | .switchDone _ _ _ => none
  | .switchNak _ _ _ _ => none
  | .switchPlanok _ _ _ => none
  | .switchTime _ => none
  | .controlRetryTimeout _ => none
  | .planEpoch _ => none
  | .slotStart _ => none
  | .slotWindowOpen _ => none
  | .slotWindowClose _ => none
  | .sendBeatArrival _ => none
  | .sendComplete _ => none
  | .phaseFlitArrival _ _ _ _ => none
  | .phaseRelease _ _ _ => none
  | .blockBarrierRelease _ _ => none
  | .combineSlotGrant _ => none
  | .collChunkDone _ _ => none
  | .collTimeoutFlush _ => none
  | .lateContribution _ _ _ _ => none
  | .placementDescriptorArrival _ _ _ => none
  | .conversionStep _ _ _ => none
  | .conversionTileArrival _ _ _ => none
  | .conversionComplete _ _ => none
  | .placementCommit _ _ => none
  | .pldCopyDone _ => none
  | .copyRecordDone _ => none
  | .engineLockAdmit _ => none
  | .mmaGatherDone _ => none
  | .mmaComplete _ => none
  | .loadDataLands _ _ _ _ => none
  | .storePerformed _ _ => none
  | .vcResultLands _ _ _ => none
  | .pageWalkDone _ _ _ _ => none
  | .faultRecordWrite _ => none
  | .fragmentWake _ => none
  | .gradePollReissue _ => none
  | .amendmentReport => none
  | .vestibuleRelease => none
  | .vestibuleSpaceFreed => none
  | .hostGradedWriteDrop _ => none
  | .engineEnqueueRetry _ => none
  | .ringHeadPoll _ _ => none
  | .ringTmaxExpiry _ _ => none
  | .graphSubmit _ => none
  | .nodeFire _ _ _ => none
  | .nodeComplete _ _ _ => none
  | .blockPlace _ => none
  | .launchStarvationTimeout _ => none
  | .governorEvaluation => none
  | .kernelComplete _ => none
  | .groupRetire _ => none
  | .trackerEntryFreed _ => none
  | .tileScrubDone _ => none
  | .scratchpadEccError _ _ _ _ => none
  | .regangFuse _ => none
  | .fragmentPromote _ => none
  | .stakemaxFullSave _ => none
  | .wcLineDrain _ _ => none
  | .lanternSample _ _ _ _ => none
  | .lanternRecord _ _ => none
  | .lanternLate _ _ => none
  | .traceResume _ => none
  | .powerSample _ _ _ => none
  | .captureDone _ => none
  | .powerLimitThrottle _ => none
  | .throttleClockStep _ => none
  | .thermalThrottle _ => none
  | .thermalTrip _ => none
  | .leanReplay _ => none
  | .leanWindowEnd _ => none
  | .headroomRemeasure _ _ => none
  | .logFlush => none
  | .startStepComplete _ => none
  | .standbyPowerLoss => none
  | .remoteAccessArrival _ => none
  | .collectivePeerFlit _ _ _ => none
  | .sendFaultReport _ _ _ => none
  | .hostMemoryWrite _ _ => none
  | .controlFrameCrcFail => none
  | .hbmRetrain _ => none
  | .portErrorSample _ _ => none

end Sys2Proof
end

