-- ==== Sys2Proof/Config.lean ====
section
/-! DEFINITION. What the manual leaves to the part or leaves open: values no proof can see (log 3). Each is an opaque
constant, applied to the operands it depends on or to the counter `freeCtr` of the state. -/

namespace Sys2Proof.Config

/-- A result bit pattern the manual bounds or leaves open, by use and by a fresh count (log 3). -/
opaque freeWord : Nat → Nat → Word

/-- A choice among alternatives that the manual allows, by use and by a fresh count (log 3). -/
opaque freeNat : Nat → Nat → Nat

/-- The cheap path's candidate for an instruction of the function family (R48): function number, input, and
operands alone decide it (log 4). -/
opaque cheap : Nat → Word → Word

/-- The result of a function instruction whose correct rounding the model's intervals do not decide (log 5). -/
opaque undecided : Nat → Nat → Word → Word

/-- KQ (R112): the key that the queue controller draws from the chip's random source at a start, by the start's key number. -/
opaque queueKey : Nat → BitVec 256

/-- The SHAKE256 digest of the vendor's check key that the controller's ROM holds (R420). -/
opaque romKeyDigest : List Byte

/-- An ML-DSA-65 signature passes its check: the key, the digest that is signed, and the signature (R420, log 79). -/
opaque signatureOk : List Byte → List Byte → List Byte → Bool

/-- The SHAKE256 measurement of the running image and the saved training parameters (R421), by the image's bytes, the number of the
start that saved the parameters, and whether the saved set still passes its check. -/
opaque measurement : List Byte → Nat → Bool → BitVec 512

/-- The measurement of an image that is being verified (R421). -/
opaque imageMeasurement : List Byte → BitVec 512

/-- The identity signature over a measurement, a nonce and the count of starts, as a number (R421). -/
opaque attestSignature : BitVec 512 → BitVec 256 → Nat → Nat

end Sys2Proof.Config
end

