-- ==== Sys2Proof/Machine/Arith.lean ====
section
/-! DEFINITION. Integer value functions: wrapping, clamping, bit counts, bit fields (R27, R195 to R202, R210). -/

namespace Sys2Proof.Machine

/-- The low `w` bits of an exact result (wrap, R195). -/
def wrapTo (w : Nat) (x : Int) : BitVec w := BitVec.ofInt w x

/-- Clamp to the signed range of `w` bits (.sat, R195). -/
def clampS (w : Nat) (x : Int) : Int :=
  if x < -(2 ^ (w - 1) : Int) then -(2 ^ (w - 1) : Int) else if x > 2 ^ (w - 1) - 1 then 2 ^ (w - 1) - 1 else x

/-- Clamp to the unsigned range of `w` bits (.usat, R195). -/
def clampU (w : Nat) (x : Int) : Int := if x < 0 then 0 else if x > 2 ^ w - 1 then 2 ^ w - 1 else x

def satS {w : Nat} (x : Int) : BitVec w := BitVec.ofInt w (clampS w x)
def satU {w : Nat} (x : Int) : BitVec w := BitVec.ofInt w (clampU w x)

/-- Sum under wrap (0), .sat (1) or .usat (2): R195, R210. -/
def addMode {w : Nat} (f : Nat) (a b : BitVec w) : BitVec w :=
  match f with
  | 1 => satS (a.toInt + b.toInt)
  | 2 => satU ((a.toNat : Int) + b.toNat)
  | _ => a + b

/-- Difference under wrap, .sat or .usat. -/
def subMode {w : Nat} (f : Nat) (a b : BitVec w) : BitVec w :=
  match f with
  | 1 => satS (a.toInt - b.toInt)
  | 2 => satU ((a.toNat : Int) - b.toNat)
  | _ => a - b

/-- Product: low half (0), signed high half (1), unsigned high half (2). -/
def mulMode {w : Nat} (f : Nat) (a b : BitVec w) : BitVec w :=
  match f with
  | 1 => BitVec.ofInt w ((a.toInt * b.toInt) / 2 ^ w)
  | 2 => BitVec.ofNat w ((a.toNat * b.toNat) / 2 ^ w)
  | _ => a * b

/-- a × b + d, wrapped (0) or clamped (1). -/
def madMode (f : Nat) (a b d : Word) : Word :=
  let x := a.toInt * b.toInt + d.toInt
  if f = 1 then satS x else BitVec.ofInt 32 x

/-- The smaller operand, signed (0) or unsigned (1). -/
def minMode {w : Nat} (f : Nat) (a b : BitVec w) : BitVec w :=
  if f = 1 then (if a.toNat ≤ b.toNat then a else b) else (if a.toInt ≤ b.toInt then a else b)

def maxMode {w : Nat} (f : Nat) (a b : BitVec w) : BitVec w :=
  if f = 1 then (if a.toNat ≤ b.toNat then b else a) else (if a.toInt ≤ b.toInt then b else a)

/-- |a| with 0x8000_0000 kept under wrap and clamped under .sat (R195). -/
def absMode (f : Nat) (a : Word) : Word :=
  let x : Int := a.toInt.natAbs
  if f = 1 then satS x else BitVec.ofInt 32 x

def negMode (f : Nat) (a : Word) : Word := if f = 1 then satS (-a.toInt) else -a

/-- Left shift by the whole count; a count of the width or more gives 0 (R196, R210). -/
def shlFull {w : Nat} (a b : BitVec w) : BitVec w := if b.toNat < w then a <<< b.toNat else 0

/-- Right shift, logical (0) or arithmetic (1), by the whole count. -/
def shrFull {w : Nat} (f : Nat) (a b : BitVec w) : BitVec w :=
  if f = 1 then (if b.toNat < w then a.sshiftRight b.toNat else if a.msb then BitVec.allOnes w else 0)
  else (if b.toNat < w then a >>> b.toNat else 0)

/-- Rotate left (0) or right (1) by the count mod 32. -/
def rotMode (f : Nat) (a b : Word) : Word :=
  if f = 1 then a.rotateRight (b.toNat % 32) else a.rotateLeft (b.toNat % 32)

/-- Number of 1 bits. -/
def popcount {w : Nat} (a : BitVec w) : Nat := (List.range w).foldl (fun n i => n + (a.getLsbD i).toNat) 0

/-- Number of leading 0 bits; `w` for 0. -/
def clz {w : Nat} (a : BitVec w) : Nat := if a.toNat = 0 then w else w - 1 - a.toNat.log2

/-- Index of the lowest 1 bit; `w` for 0. -/
def lowestOne {w : Nat} (a : BitVec w) : Nat :=
  ((List.range w).find? fun i => a.getLsbD i).getD w

def reverseBits (a : Word) : Word := maskOf fun i => a.getLsbD (31 - i)

/-- Bit-field extract at position `p`, effective length `e` (R197): zero-extended (0) or sign-extended (1). -/
def extractField {w : Nat} (f : Nat) (a : BitVec w) (p e : Nat) : BitVec w :=
  if e = 0 then 0
  else
    let x := (a.toNat / 2 ^ p) % 2 ^ e
    if f = 1 ∧ x ≥ 2 ^ (e - 1) then BitVec.ofInt w ((x : Int) - 2 ^ e) else BitVec.ofNat w x

/-- BFX (R197): p = b[4:0], n = b[13:8]. -/
def bfx (f : Nat) (a b : Word) : Word :=
  let p := b.toNat % 32
  let n := (b.toNat / 256) % 64
  extractField f a p (min n (32 - p))

/-- BFI (R197): d[p+e-1:p] := a[e-1:0]. -/
def bfi (a b d : Word) : Word :=
  let p := b.toNat % 32
  let n := (b.toNat / 256) % 64
  let e := min n (32 - p)
  maskOf fun i => if p ≤ i ∧ i < p + e then a.getLsbD (i - p) else d.getLsbD i

/-- SBFX (R210): p = b[5:0], n = b[14:8]. -/
def sbfx (f : Nat) (a b : DWord) : DWord :=
  let p := b.toNat % 64
  let n := (b.toNat / 256) % 128
  extractField f a p (min n (64 - p))

/-- CVTI (R201). -/
def cvti (f : Nat) (a : Word) : Word :=
  match f with
  | 0 => (a.setWidth 8).signExtend 32
  | 1 => (a.setWidth 8).setWidth 32
  | 2 => (a.setWidth 16).signExtend 32
  | 3 => (a.setWidth 16).setWidth 32
  | 4 => (BitVec.ofInt 8 (clampS 8 a.toInt)).setWidth 32
  | 5 => (BitVec.ofInt 8 (clampU 8 a.toInt)).setWidth 32
  | 6 => (BitVec.ofInt 16 (clampS 16 a.toInt)).setWidth 32
  | _ => (BitVec.ofInt 4 (clampS 4 a.toInt)).setWidth 32

/-- Byte `k` of a word, and of any wider value. -/
def byteOf {w : Nat} (a : BitVec w) (k : Nat) : Byte := a.extractLsb' (8 * k) 8

/-- A word from four bytes, byte 0 lowest (R28). -/
def wordOfBytes (f : Nat → Byte) : Word := f 3 ++ f 2 ++ f 1 ++ f 0

/-- IDOT4 (R202). -/
def idot4 (f : Nat) (a b d : Word) : Word :=
  let sa := f % 4 ≠ 1
  let sb := f % 4 = 0
  let va := fun k => if sa then (byteOf a k).toInt else ((byteOf a k).toNat : Int)
  let vb := fun k => if sb then (byteOf b k).toInt else ((byteOf b k).toNat : Int)
  let x := d.toInt + va 0 * vb 0 + va 1 * vb 1 + va 2 * vb 2 + va 3 * vb 3
  if f / 4 = 1 then satS x else BitVec.ofInt 32 x

/-- PERMB (R204): four nibble lookups in a 16-byte table. -/
def permb (f : Nat) (tab : Nat → Byte) (b : Word) : Word :=
  wordOfBytes fun j =>
    let x := (byteOf b j).toNat
    tab (if f = 1 then x / 16 else x % 16)

/-- BALIGN (R205). -/
def balign (k : Nat) (a b : Word) : Word := (a ++ b).extractLsb' (8 * k) 32

/-- BSEL (R208). -/
def bitSelect (a b d : Word) : Word := (d &&& a) ||| (~~~d &&& b)

/-- The 64-bit product of IMULW (R200). -/
def mulWide (f : Nat) (a b : Word) : DWord :=
  if f = 1 then BitVec.ofNat 64 (a.toNat * b.toNat) else BitVec.ofInt 64 (a.toInt * b.toInt)

end Sys2Proof.Machine
end

