-- ==== Sys2Proof/Machine/Float.lean ====
section
/-! DEFINITION. Floating-point values: formats, exact values, rounding, NaN rules (R25 to R41, R44, R45). -/

namespace Sys2Proof.Machine

/-- The rounding modes of R36. -/
inductive Rnd where
  | rne | rtz | rup | rdn
  deriving DecidableEq, Repr

/-- The mode of a two-bit field. -/
def Rnd.of (f : Nat) : Rnd :=
  match f % 4 with
  | 0 => .rne
  | 1 => .rtz
  | 2 => .rup
  | _ => .rdn

/-- A binary format: exponent width and fraction width (R25). -/
structure Fmt where
  eb : Nat
  fb : Nat
  deriving DecidableEq, Repr

def fmt64 : Fmt := ⟨11, 52⟩
def fmt32 : Fmt := ⟨8, 23⟩
def fmt16 : Fmt := ⟨5, 10⟩
def fmtBf : Fmt := ⟨8, 7⟩

/-- An unpacked value: a NaN with its payload and quiet bit, an infinity, or `m × 2^e`. -/
inductive Fp where
  | nan (neg quiet : Bool) (payload : Nat)
  | inf (neg : Bool)
  | fin (neg : Bool) (m : Nat) (e : Int)
  deriving DecidableEq, Repr

namespace Fmt

def bias (f : Fmt) : Int := 2 ^ (f.eb - 1) - 1
/-- Exponent of the last place of the smallest numbers. -/
def qmin (f : Fmt) : Int := 1 - f.bias - f.fb
def emax (f : Fmt) : Nat := 2 ^ f.eb - 1
def signBit (f : Fmt) : Nat := 2 ^ (f.eb + f.fb)
def infBits (f : Fmt) : Nat := f.emax * 2 ^ f.fb
def maxFinite (f : Fmt) : Nat := f.infBits - 1

/-- The value an encoding has (R25). -/
def unpack (f : Fmt) (x : Nat) : Fp :=
  let neg : Bool := x / f.signBit % 2 = 1
  let ex := x / 2 ^ f.fb % 2 ^ f.eb
  let fr := x % 2 ^ f.fb
  if ex = f.emax then
    if fr = 0 then .inf neg else .nan neg (decide (fr ≥ 2 ^ (f.fb - 1))) (fr % 2 ^ (f.fb - 1))
  else if ex = 0 then .fin neg fr f.qmin
  else .fin neg (fr + 2 ^ f.fb) (f.qmin + ex - 1)

def withSign (f : Fmt) (neg : Bool) (x : Nat) : Nat := if neg then x + f.signBit else x

/-- A quiet NaN with the payload's low bits (R40). -/
def nanBits (f : Fmt) (neg : Bool) (payload : Nat) : Nat :=
  f.withSign neg (f.infBits + 2 ^ (f.fb - 1) + payload % 2 ^ (f.fb - 1))

/-- The result of an overflow (R36). -/
def overflow (f : Fmt) (mode : Rnd) (neg : Bool) : Nat :=
  match mode with
  | .rne => f.infBits
  | .rtz => f.maxFinite
  | .rup => if neg then f.maxFinite else f.infBits
  | .rdn => if neg then f.infBits else f.maxFinite

end Fmt

/-- Whether a magnitude with last kept bit `odd` and discarded part `rem` of `unit` rounds up (R36). -/
def roundsUp (mode : Rnd) (neg odd : Bool) (rem unit : Nat) (sticky : Bool) : Bool :=
  match mode with
  | .rne => decide (2 * rem > unit) || (decide (2 * rem = unit) && (sticky || odd))
  | .rtz => false
  | .rup => !neg && (decide (rem > 0) || sticky)
  | .rdn => neg && (decide (rem > 0) || sticky)

/-- Rounds the magnitude (m + ε) × 2^e, where 0 < ε < 1 when `sticky` and ε = 0 otherwise, into a format. A sticky
value must carry at least two bits more than the format keeps, or lie below its last place. -/
def roundMag (f : Fmt) (mode : Rnd) (neg : Bool) (m : Nat) (e : Int) (sticky : Bool) : Nat :=
  if m = 0 ∧ sticky = false then 0
  else
    let m1 := if sticky then 8 * m else m
    let e1 := if sticky then e - 3 else e
    let len : Int := if m1 = 0 then 0 else m1.log2 + 1
    let q := max (e1 + len - (f.fb + 1)) f.qmin
    let sh := q - e1
    let unit := 2 ^ sh.toNat
    let sig0 := if sh ≤ 0 then m1 * 2 ^ (-sh).toNat else m1 / unit
    let rem := if sh ≤ 0 then 0 else m1 % unit
    let unit' := if sh ≤ 0 then 2 else unit
    let sig := if roundsUp mode neg (sig0 % 2 = 1) rem unit' sticky then sig0 + 1 else sig0
    let bits := if sig < 2 ^ f.fb then sig else ((q - f.qmin).toNat + 1) * 2 ^ f.fb + (sig - 2 ^ f.fb)
    if bits ≥ f.infBits then f.overflow mode neg else bits

/-- The encoding of a rounded signed magnitude. -/
def roundPack (f : Fmt) (mode : Rnd) (neg : Bool) (m : Nat) (e : Int) (sticky : Bool) : Nat :=
  f.withSign neg (roundMag f mode neg m e sticky)

/-- The sign of an exact zero sum of operands with opposite signs (R36). -/
def zeroSumNeg (mode : Rnd) : Bool := mode = .rdn

/-- The exact sum of two signed dyadics as (negative, magnitude, exponent). -/
def addDyadic (n1 : Bool) (m1 : Nat) (e1 : Int) (n2 : Bool) (m2 : Nat) (e2 : Int) : Int × Int :=
  let e := min e1 e2
  let a : Int := (m1 * 2 ^ (e1 - e).toNat : Nat)
  let b : Int := (m2 * 2 ^ (e2 - e).toNat : Nat)
  ((if n1 then -a else a) + (if n2 then -b else b), e)

/-- The exact sum of two finite values, rounded once; the sign of an exact zero follows R36. -/
def addFin (f : Fmt) (mode : Rnd) (n1 : Bool) (m1 : Nat) (e1 : Int) (n2 : Bool) (m2 : Nat) (e2 : Int) : Nat :=
  let (x, e) := addDyadic n1 m1 e1 n2 m2 e2
  if x = 0 then
    f.withSign (if n1 = n2 then n1 else zeroSumNeg mode) 0
  else roundPack f mode (x < 0) x.natAbs e false

/-- Quiets the first NaN of a list of inputs (R39); `none` when there is none. -/
def firstNan (f : Fmt) : List Nat → Option Nat
  | [] => none
  | x :: xs =>
    match f.unpack x with
    | .nan neg _ p => some (f.nanBits neg p)
    | _ => firstNan f xs

/-- FADD (R218), in any format. -/
def fadd (f : Fmt) (mode : Rnd) (a b : Nat) : Nat :=
  match firstNan f [a, b] with
  | some n => n
  | none =>
    match f.unpack a, f.unpack b with
    | .inf n1, .inf n2 => if n1 = n2 then f.withSign n1 f.infBits else f.nanBits false 3
    | .inf n1, _ => f.withSign n1 f.infBits
    | _, .inf n2 => f.withSign n2 f.infBits
    | .fin n1 m1 e1, .fin n2 m2 e2 => addFin f mode n1 m1 e1 n2 m2 e2
    | _, _ => f.nanBits false 0

/-- Sign inversion of an encoding. -/
def fneg (f : Fmt) (x : Nat) : Nat := if x / f.signBit % 2 = 1 then x - f.signBit else x + f.signBit

/-- FSUB: a NaN in b keeps its own sign (R39). -/
def fsub (f : Fmt) (mode : Rnd) (a b : Nat) : Nat :=
  match firstNan f [a, b] with
  | some n => n
  | none => fadd f mode a (fneg f b)

/-- FMUL (R218). -/
def fmul (f : Fmt) (mode : Rnd) (a b : Nat) : Nat :=
  match firstNan f [a, b] with
  | some n => n
  | none =>
    match f.unpack a, f.unpack b with
    | .inf n1, .inf n2 => f.withSign (n1 != n2) f.infBits
    | .inf n1, .fin n2 m2 _ => if m2 = 0 then f.nanBits false 4 else f.withSign (n1 != n2) f.infBits
    | .fin n1 m1 _, .inf n2 => if m1 = 0 then f.nanBits false 4 else f.withSign (n1 != n2) f.infBits
    | .fin n1 m1 e1, .fin n2 m2 e2 => roundPack f mode (n1 != n2) (m1 * m2) (e1 + e2) false
    | _, _ => f.nanBits false 0

/-- FFMA (R218): a × b + d with one rounding. -/
def ffma (f : Fmt) (mode : Rnd) (a b d : Nat) : Nat :=
  match firstNan f [a, b, d] with
  | some n => n
  | none =>
    let addInf (np : Bool) : Nat :=
      match f.unpack d with
      | .inf nd => if nd = np then f.withSign np f.infBits else f.nanBits false 3
      | _ => f.withSign np f.infBits
    match f.unpack a, f.unpack b with
    | .inf n1, .inf n2 => addInf (n1 != n2)
    | .inf n1, .fin n2 m2 _ => if m2 = 0 then f.nanBits false 4 else addInf (n1 != n2)
    | .fin n1 m1 _, .inf n2 => if m1 = 0 then f.nanBits false 4 else addInf (n1 != n2)
    | .fin n1 m1 e1, .fin n2 m2 e2 =>
      match f.unpack d with
      | .inf nd => f.withSign nd f.infBits
      | .fin nd md ed => addFin f mode (n1 != n2) (m1 * m2) (e1 + e2) nd md ed
      | _ => f.nanBits false 0
    | _, _ => f.nanBits false 0

/-- The exact quotient of two nonzero finite magnitudes, rounded once. -/
def divMag (f : Fmt) (mode : Rnd) (neg : Bool) (m1 : Nat) (e1 : Int) (m2 : Nat) (e2 : Int) : Nat :=
  let k := 2 * f.fb + 16
  roundPack f mode neg (m1 * 2 ^ k / m2) (e1 - e2 - k) (decide (m1 * 2 ^ k % m2 ≠ 0))

/-- FDIV (R221). -/
def fdiv (f : Fmt) (mode : Rnd) (a b : Nat) : Nat :=
  match firstNan f [a, b] with
  | some n => n
  | none =>
    match f.unpack a, f.unpack b with
    | .inf _, .inf _ => f.nanBits false 6
    | .inf n1, .fin n2 _ _ => f.withSign (n1 != n2) f.infBits
    | .fin n1 _ _, .inf n2 => f.withSign (n1 != n2) 0
    | .fin n1 m1 e1, .fin n2 m2 e2 =>
      if m2 = 0 then (if m1 = 0 then f.nanBits false 5 else f.withSign (n1 != n2) f.infBits)
      else if m1 = 0 then f.withSign (n1 != n2) 0
      else divMag f mode (n1 != n2) m1 e1 m2 e2
    | _, _ => f.nanBits false 0

/-- Integer square root by bits, from bit `i` down. -/
def isqrtAux : Nat → Nat → Nat → Nat
  | 0, n, r => if (r + 1) * (r + 1) ≤ n then r + 1 else r
  | i + 1, n, r => isqrtAux i n (if (r + 2 ^ (i + 1)) * (r + 2 ^ (i + 1)) ≤ n then r + 2 ^ (i + 1) else r)

/-- The integer part of the square root of `n`. -/
def isqrt (n : Nat) : Nat := isqrtAux (n.log2 / 2 + 1) n 0

/-- FSQRT (R221, R222). -/
def fsqrt (f : Fmt) (mode : Rnd) (a : Nat) : Nat :=
  match f.unpack a with
  | .nan neg _ p => f.nanBits neg p
  | .inf neg => if neg then f.nanBits false 7 else f.infBits
  | .fin neg m e =>
    if m = 0 then f.withSign neg 0
    else if neg then f.nanBits false 7
    else
      let (m1, e1) := if e % 2 = 0 then (m, e) else (2 * m, e - 1)
      let n := m1 * 2 ^ (2 * (f.fb + 8))
      let r := isqrt n
      roundPack f mode false r (e1 / 2 - (f.fb + 8)) (decide (r * r ≠ n))

/-- Compares two encodings as numbers, −0 = +0: 0 less, 1 equal, 2 greater, 3 unordered (R220). -/
def fpCompare (f : Fmt) (a b : Nat) : Nat :=
  let key (x : Fp) : Option (Int × Int) :=
    match x with
    | .nan _ _ _ => none
    | .inf neg => some (if neg then -1 else 1, 1)
    | .fin _ _ _ => some (0, 0)
  match key (f.unpack a), key (f.unpack b) with
  | some (ka, _), some (kb, _) =>
    if ka ≠ kb then (if ka < kb then 0 else 2)
    else
      match f.unpack a, f.unpack b with
      | .fin n1 m1 e1, .fin n2 m2 e2 =>
        let (x, _) := addDyadic n1 m1 e1 (!n2) m2 e2
        if x < 0 then 0 else if x = 0 then 1 else 2
      | _, _ => 1
  | _, _ => 3

/-- FCMP relation (R220): .eq .ne .lt .le .gt .ge .un. -/
def fcmp (rel : Nat) (a b : Word) : Bool :=
  let c := fpCompare fmt32 a.toNat b.toNat
  match rel with
  | 0 => c = 1
  | 1 => c ≠ 1
  | 2 => c = 0
  | 3 => c = 0 ∨ c = 1
  | 4 => c = 2
  | 5 => c = 2 ∨ c = 1
  | _ => c = 3

/-- FMIN (`hi = false`) and FMAX (R219) in a format: −0 lies below +0. -/
def fminmaxIn (f : Fmt) (hi : Bool) (a b : Nat) : Nat :=
  match firstNan f [a, b] with
  | some n => n
  | none =>
    let neg (x : Nat) : Bool := x / f.signBit % 2 = 1
    let less : Bool :=
      match fpCompare f a b with
      | 0 => true
      | 1 => neg a && !neg b
      | _ => false
    if less then (if hi then b else a) else (if hi then a else b)

def fminmax (hi : Bool) (a b : Word) : Word := BitVec.ofNat 32 (fminmaxIn fmt32 hi a.toNat b.toNat)

/-- FSGN (R219): 0 .cp, 1 .neg, 2 .xor. -/
def fsgn (f : Nat) (a b : Word) : Word :=
  match fmt32.unpack a.toNat with
  | .nan neg _ p => BitVec.ofNat 32 (fmt32.nanBits neg p)
  | _ =>
    let s : Bool :=
      match f with
      | 0 => b.msb
      | 1 => !b.msb
      | _ => a.msb != b.msb
    BitVec.ofBool s ++ a.setWidth 31

/-- The class number of FCLASS (R220). -/
def fclass (a : Word) : Nat :=
  match fmt32.unpack a.toNat with
  | .nan _ q _ => if q then 9 else 8
  | .inf neg => if neg then 0 else 7
  | .fin neg m _ =>
    if m = 0 then (if neg then 3 else 4)
    else if m < 2 ^ 23 then (if neg then 2 else 5)
    else (if neg then 1 else 6)

/-- A conversion between float formats (R40, R44). -/
def convertFloat (src dst : Fmt) (mode : Rnd) (sat : Bool) (x : Nat) : Nat :=
  match src.unpack x with
  | .nan neg _ p => dst.nanBits neg p
  | .inf neg => dst.withSign neg dst.infBits
  | .fin neg m e =>
    let r := roundMag dst mode neg m e false
    dst.withSign neg (if sat && decide (r ≥ dst.infBits) then dst.maxFinite else r)

/-- The exact magnitude num / den rounded to an integer under a mode. -/
def roundRatio (mode : Rnd) (neg : Bool) (num den : Nat) : Nat :=
  let q := num / den
  if roundsUp mode neg (q % 2 = 1) (num % den) den false then q + 1 else q

/-- A finite value rounded to an integer. -/
def roundInt (mode : Rnd) (neg : Bool) (m : Nat) (e : Int) : Int :=
  let r := roundRatio mode neg (m * 2 ^ e.toNat) (2 ^ (-e).toNat)
  if neg then -(r : Int) else r

/-- A float value converted to an integer between `lo` and `hi` (R45). -/
def floatToInt (src : Fmt) (mode : Rnd) (lo hi : Int) (x : Nat) : Int :=
  match src.unpack x with
  | .nan _ _ _ => 0
  | .inf neg => if neg then lo else hi
  | .fin neg m e => max lo (min hi (roundInt mode neg m e))

/-- An integer converted to a float format (R45). -/
def intToFloat (dst : Fmt) (mode : Rnd) (x : Int) : Nat :=
  roundPack dst mode (x < 0) x.natAbs 0 false

/-- FRND (R228). -/
def frnd (mode : Rnd) (a : Word) : Word :=
  match fmt32.unpack a.toNat with
  | .nan neg _ p => BitVec.ofNat 32 (fmt32.nanBits neg p)
  | .inf _ => a
  | .fin neg m e =>
    if m = 0 ∨ e ≥ 0 then a
    else BitVec.ofNat 32 (roundPack fmt32 mode neg (roundInt mode neg m e).natAbs 0 false)

/-- FSCL (R228): a × 2^n with a single rounding. An `n` of great magnitude is cut to one that overflows or
underflows in the same way. -/
def fscl (mode : Rnd) (a n : Word) : Word :=
  match fmt32.unpack a.toNat with
  | .nan neg _ p => BitVec.ofNat 32 (fmt32.nanBits neg p)
  | .inf _ => a
  | .fin neg m e =>
    if m = 0 then a
    else BitVec.ofNat 32 (roundPack fmt32 mode neg m (e + max (-1000) (min 1000 n.toInt)) false)

/-- One element of packed 16-bit arithmetic (R223): add 0, multiply 1, fused 2. -/
def halfOp (op : Nat) (bf : Bool) (mode : Rnd) (a b d : Nat) : Nat :=
  let f := if bf then fmtBf else fmt16
  match op with
  | 0 => fadd f mode a b
  | 1 => fmul f mode a b
  | _ => ffma f mode a b d

/-- HADD2, HMUL2, HFMA2 on a whole word (R223). -/
def packedOp (op : Nat) (bf : Bool) (mode : Rnd) (a b d : Word) : Word :=
  let el (k : Nat) : BitVec 16 := BitVec.ofNat 16 (halfOp op bf mode
    (a.extractLsb' (16 * k) 16).toNat (b.extractLsb' (16 * k) 16).toNat (d.extractLsb' (16 * k) 16).toNat)
  el 1 ++ el 0

/-- The float element a code names (R224): its format, its position, its encoding in the word. -/
def floatCode (c : Nat) : Fmt × Nat :=
  match c with
  | 0 => (fmt32, 0)
  | 1 => (fmt16, 0)
  | 2 => (fmt16, 1)
  | 3 => (fmtBf, 0)
  | _ => (fmtBf, 1)

def floatElement (c : Nat) (a : Word) : Nat :=
  if c = 0 then a.toNat else (a.extractLsb' (16 * (floatCode c).2) 16).toNat

/-- Writes a float element into a word, keeping the other half (R225). -/
def putFloatElement (c : Nat) (x : Nat) (d : Word) : Word :=
  if c = 0 then BitVec.ofNat 32 x
  else if (floatCode c).2 = 0 then d.extractLsb' 16 16 ++ BitVec.ofNat 16 x
  else BitVec.ofNat 16 x ++ d.setWidth 16

/-- CVTF (R225). -/
def cvtf (sat : Bool) (mode : Rnd) (src dst : Nat) (a d : Word) : Word :=
  putFloatElement dst (convertFloat (floatCode src).1 (floatCode dst).1 mode sat (floatElement src a)) d

/-- The range of an integer code (R224). -/
def intRange (c : Nat) : Int × Int :=
  match c with
  | 0 => (-2147483648, 2147483647)
  | 1 => (0, 4294967295)
  | 2 => (-32768, 32767)
  | 3 => (-128, 127)
  | 4 => (0, 255)
  | _ => (-8, 7)

/-- CVTFI (R226). -/
def cvtfi (mode : Rnd) (src dst : Nat) (a : Word) : Word :=
  let (lo, hi) := intRange dst
  BitVec.ofInt 32 (floatToInt (floatCode src).1 mode lo hi (floatElement src a))

/-- The integer element a code names. -/
def intElement (c : Nat) (a : Word) : Int :=
  match c with
  | 0 => a.toInt
  | 1 => a.toNat
  | 2 => (a.setWidth 16).toInt
  | 3 => (a.setWidth 8).toInt
  | 4 => (a.setWidth 8).toNat
  | _ => (a.setWidth 4).toInt

/-- CVTIF (R227). -/
def cvtif (mode : Rnd) (src dst : Nat) (a d : Word) : Word :=
  putFloatElement dst (intToFloat (floatCode dst).1 mode (intElement src a)) d

end Sys2Proof.Machine
end

