-- ==== Sys2Proof/Machine/Narrow.lean ====
section
/-! DEFINITION. Narrow formats with block scales: DS8 and DS4, SE8 and BF16 scales, PACKN and UNPKN values
(R28 to R35, R46, R229 to R232). -/

namespace Sys2Proof.Machine

/-- An element format of a format word (R34). -/
inductive ElemFmt where
  | fp32 | bf16 | fp16 | int8 | uint8 | int4 | ds8 | ds4
  deriving DecidableEq, Repr

def ElemFmt.of : Nat → Option ElemFmt
  | 0 => some .fp32
  | 1 => some .bf16
  | 2 => some .fp16
  | 3 => some .int8
  | 4 => some .uint8
  | 5 => some .int4
  | 6 => some .ds8
  | 7 => some .ds4
  | _ => none

def ElemFmt.bits : ElemFmt → Nat
  | .fp32 => 32
  | .bf16 => 16
  | .fp16 => 16
  | .int8 => 8
  | .uint8 => 8
  | .int4 => 4
  | .ds8 => 8
  | .ds4 => 4

/-- The scale kinds of a format word (R34). -/
inductive ScaleKind where
  | none | se8 | bf16
  deriving DecidableEq, Repr

/-- The fields of a format word (R34). -/
structure FormatWord where
  sh : Nat
  soff : Nat
  ef : ElemFmt
  blockLen : Nat
  sk : ScaleKind
  deriving DecidableEq, Repr

/-- Reads a format word; `none` when EF or SK is reserved or a must-be-zero field is nonzero (R35). -/
def formatWord (w : DWord) : Option FormatWord :=
  let x := w.toNat
  if x % 256 ≠ 0 ∨ (x / 2 ^ 16) % 256 ≠ 0 then none
  else
    match ElemFmt.of ((x / 2 ^ 12) % 16), (x / 2 ^ 8) % 4 with
    | some ef, 0 => some ⟨x / 2 ^ 48, (x / 2 ^ 24) % 2 ^ 24, ef, 16 * 2 ^ ((x / 2 ^ 10) % 4), .none⟩
    | some ef, 1 => some ⟨x / 2 ^ 48, (x / 2 ^ 24) % 2 ^ 24, ef, 16 * 2 ^ ((x / 2 ^ 10) % 4), .se8⟩
    | some ef, 2 => some ⟨x / 2 ^ 48, (x / 2 ^ 24) % 2 ^ 24, ef, 16 * 2 ^ ((x / 2 ^ 10) % 4), .bf16⟩
    | _, _ => none

/-- One term of a DS8 byte in units of 2^-6. -/
def dsTerm (x : Nat) : Int :=
  if x % 8 = 7 then 0 else if x / 8 % 2 = 1 then -(2 ^ (6 - x % 8) : Int) else 2 ^ (6 - x % 8)

/-- The value of a DS8 byte in units of 2^-6 (R29). -/
def ds8Units (x : Nat) : Int := dsTerm (x / 16) + dsTerm (x % 16)

/-- The value of a DS4 element in units of 2^-6 (R30). -/
def ds4Units (x : Nat) : Int := dsTerm x

/-- The canonical DS8 byte of a value given in units of 2^-6 (R31). -/
def ds8Canonical (u : Int) : Nat :=
  let s := if u < 0 then 1 else 0
  let n := u.natAbs
  if n = 0 then 0x77
  else
    match (List.range 7).find? fun k => 2 ^ (6 - k) = n with
    | some k => s * 128 + k * 16 + 7
    | none =>
      if n = 128 then s * 128 + s * 8
      else
        let pairs := (List.range 7).flatMap fun ka => (List.range 7).map fun kb => (ka, kb)
        match pairs.find? fun p => p.1 < p.2 ∧ 2 ^ (6 - p.1) + 2 ^ (6 - p.2) = n with
        | some (ka, kb) => s * 128 + ka * 16 + s * 8 + kb
        | none =>
          match pairs.find? fun p => p.1 + 3 ≤ p.2 ∧ 2 ^ (6 - p.1) - 2 ^ (6 - p.2) = n with
          | some (ka, kb) => s * 128 + ka * 16 + (1 - s) * 8 + kb
          | none => 0x77

/-- The canonical DS4 element (R30). -/
def ds4Canonical (u : Int) : Nat :=
  match (List.range 7).find? fun k => 2 ^ (6 - k) = u.natAbs with
  | some k => (if u < 0 then 8 else 0) + k
  | none => 7

/-- The magnitudes of the DS8 value set in units of 2^-6. -/
def ds8Magnitudes : List Nat := (List.range 129).filter fun n => (List.range 256).any fun x => ds8Units x = n
/-- The magnitudes of the DS4 value set. -/
def ds4Magnitudes : List Nat := 0 :: (List.range 7).reverse.map fun k => 2 ^ (6 - k)

/-- The member of an increasing list of magnitudes nearest to num / den, the smaller on a tie (R32). -/
def nearestMagnitude (num den : Nat) : Nat → List Nat → Nat
  | best, [] => best
  | best, c :: cs =>
    let d (k : Nat) : Nat := ((num : Int) - k * den).natAbs
    nearestMagnitude num den (if d c < d best then c else best) cs

/-- Quantises ±num / den, given in units of 1, to a DS format (R32). -/
def dsQuantise (ds8 : Bool) (neg : Bool) (num den : Nat) : Nat :=
  let n := nearestMagnitude (num * 64) den 0 (if ds8 then ds8Magnitudes else ds4Magnitudes)
  let u : Int := if neg then -(n : Int) else n
  if ds8 then ds8Canonical u else ds4Canonical u

/-- An element's value as a float value (R25 to R30). -/
def elemValue (ef : ElemFmt) (x : Nat) : Fp :=
  let ofInt (i : Int) (e : Int) : Fp := .fin (i < 0) i.natAbs e
  match ef with
  | .fp32 => fmt32.unpack x
  | .bf16 => fmtBf.unpack x
  | .fp16 => fmt16.unpack x
  | .int8 => ofInt (BitVec.ofNat 8 x).toInt 0
  | .uint8 => ofInt x 0
  | .int4 => ofInt (BitVec.ofNat 4 x).toInt 0
  | .ds8 => ofInt (ds8Units x) (-6)
  | .ds4 => ofInt (ds4Units x) (-6)

/-- A scale's value; SE8 has no zero and no infinity (R33). -/
def scaleValue (sk : ScaleKind) (x : Nat) : Fp :=
  match sk with
  | .none => .fin false 1 0
  | .se8 => if x % 256 = 255 then .nan false true 2 else .fin false 1 ((x % 256 : Nat) - 127)
  | .bf16 => fmtBf.unpack (x % 65536)

/-- The largest magnitude Q of a narrow format (R229). -/
def elemQ : ElemFmt → Nat
  | .int8 => 127
  | .uint8 => 255
  | .int4 => 7
  | .ds8 => 2
  | _ => 1

/-- The narrow formats PACKN accepts. -/
def packable : ElemFmt → Bool
  | .int8 => true
  | .uint8 => true
  | .int4 => true
  | .ds8 => true
  | .ds4 => true
  | _ => false

def elemRange : ElemFmt → Int × Int
  | .int8 => (-128, 127)
  | .uint8 => (0, 255)
  | _ => (-8, 7)

/-- The canonical zero of a format. -/
def elemZero : ElemFmt → Nat
  | .ds8 => 0x77
  | .ds4 => 0x7
  | _ => 0

/-- Packs one element x / scale (R231). -/
def packElement (ef : ElemFmt) (sk : ScaleKind) (mode : Rnd) (scale : Nat) (x : Word) : Nat :=
  let toElem (neg : Bool) (num den : Nat) : Nat :=
    match ef with
    | .ds8 => dsQuantise true neg num den
    | .ds4 => dsQuantise false neg num den
    | _ =>
      let r := roundRatio mode neg num den
      let (lo, hi) := elemRange ef
      let v : Int := max lo (min hi (if neg then -(r : Int) else r))
      (BitVec.ofInt ef.bits v).toNat
  match scaleValue sk scale, fmt32.unpack x.toNat with
  | .nan _ _ _, _ => elemZero ef
  | _, .nan _ _ _ => elemZero ef
  | .inf _, .inf _ => elemZero ef
  | .inf _, .fin _ _ _ => elemZero ef
  | .fin ns _ _, .inf nx => toElem (ns != nx) 100000 1
  | .fin ns ms es, .fin nx mx ex =>
    if ms = 0 then (if mx = 0 then elemZero ef else toElem (ns != nx) 100000 1)
    else
      let d := ex - es
      toElem (ns != nx) (mx * 2 ^ d.toNat) (ms * 2 ^ (-d).toNat)

/-- The smallest e with m ≤ Q × 2^e for the magnitude m × 2^me, searched upward from -300. -/
def smallestExp (q m : Nat) (me : Int) : Nat → Int → Int
  | 0, e => e
  | n + 1, e =>
    let d := me - e
    if m * 2 ^ d.toNat ≤ q * 2 ^ (-d).toNat then e else smallestExp q m me n (e + 1)

/-- The scale PACKN .sc chooses for the values X of a lane block, in lane order (R230). -/
def chooseScale (ef : ElemFmt) (sk : ScaleKind) (xs : List Word) : Word :=
  let special := xs.any fun x => match fmt32.unpack x.toNat with
    | .fin _ _ _ => false
    | _ => true
  if special then
    match sk with
    | .bf16 =>
      match firstNan fmtBf (xs.filterMap fun x => match fmt32.unpack x.toNat with
        | .nan neg _ p => some (fmtBf.nanBits neg p)
        | _ => none) with
      | some n => BitVec.ofNat 32 n
      | none => 0x7FC2
    | _ => 0xFF
  else
    -- magnitudes of finite binary32 values order as their low 31 bits
    let best := xs.foldl (fun (acc : Nat) x => max acc (x.setWidth 31).toNat) 0
    if best = 0 then (match sk with
      | .bf16 => 0x3F80
      | _ => 0x7F)
    else
      match fmt32.unpack best with
      | .fin _ m e =>
        (match sk with
        | .bf16 =>
          let r := divMag fmtBf .rup false m e (elemQ ef) 0
          BitVec.ofNat 32 (if r ≥ fmtBf.infBits then 0x7F7F else r)
        | _ =>
          let x := smallestExp (elemQ ef) m e 500 (-300)
          BitVec.ofInt 32 (max (-127) (min 127 x) + 127))
      | _ => 0

/-- Unpacks one element × scale (R232). -/
def unpackElement (ef : ElemFmt) (sk : ScaleKind) (mode : Rnd) (scale x : Nat) : Word :=
  match elemValue ef x, scaleValue sk scale with
  | .nan _ _ _, _ => 0x7FC00001
  | _, .nan neg _ p => (match sk with
    | .bf16 => BitVec.ofNat 32 (fmt32.nanBits neg p)
    | _ => 0x7FC00002)
  | .inf n1, .inf n2 => BitVec.ofNat 32 (fmt32.withSign (n1 != n2) fmt32.infBits)
  | .inf n1, .fin n2 m2 _ =>
    if m2 = 0 then 0x7FC00004 else BitVec.ofNat 32 (fmt32.withSign (n1 != n2) fmt32.infBits)
  | .fin n1 m1 _, .inf n2 =>
    if m1 = 0 then 0x7FC00004 else BitVec.ofNat 32 (fmt32.withSign (n1 != n2) fmt32.infBits)
  | .fin n1 m1 e1, .fin n2 m2 e2 => BitVec.ofNat 32 (roundPack fmt32 mode (n1 != n2) (m1 * m2) (e1 + e2) false)

end Sys2Proof.Machine
end

