-- ==== Sys2Proof/Machine/Types.lean ====
section
/-! DEFINITION. The parts of the machine's state: groups and fragments, blocks, kernels, graphs, contexts, queues, tiles,
locks, engine operations, memory structures, links, tensors, observation and power (INVENTORY.md, State). -/

namespace Sys2Proof.Machine

/-- Bytes by address in canonical form: addresses strictly rising, no entry equal to 0, the value of an unlisted
address (log 1). -/
abbrev Memory := List Host.Cell

/-! ## Groups (R148 to R169, R180, R186) -/

/-- A register name for hazards and the scoreboard (R70): em counts as a name of a fragment (R178). -/
inductive RName where
  | v (n : Nat)
  | s (n : Nat)
  | m (n : Nat)
  | em (frag : Nat)
  deriving DecidableEq, Repr

/-- A fixed-latency write that is not yet readable (R68, R70): the value its name held before it. -/
structure Pend where
  name : RName
  /-- The lanes it writes, of a lane register. -/
  lanes : Word
  oldV : Lanes
  oldW : DWord
  ready : Nat
  /-- A variable-latency write of the scalar has issued since, and wins when it lands (R179). -/
  yields : Bool
  deriving DecidableEq, Repr

/-- A scoreboard entry of a fixed-latency write (R70): cycles left, as the program states them, per slice. Its lanes are those of
the slice, and those written of a name that a melded region has given (R188). -/
structure Board where
  name : RName
  slice : Nat
  lanes : Word
  left : Nat
  deriving DecidableEq, Repr

/-- A variable-latency write that no WAIT has covered (R70, R169). -/
structure Uncovered where
  name : RName
  slices : BitVec 8
  lanes : Word
  counter : Nat
  index : Nat
  deriving DecidableEq, Repr

/-- A value that lands in a register (R169): one lane of a vector register, or a scalar. -/
inductive Landing where
  | lane (name lane : Nat) (value : Word)
  | scalar (name : Nat) (value : DWord)
  deriving DecidableEq, Repr

/-- Where an access is performed: local device memory, another chip's memory, host memory (R291 LOC, R303), or the banks
that hold a tile, by its identity and a byte offset (R269). -/
inductive Loc where
  | device (pa : Nat)
  | remote (node pa : Nat)
  | host (pa : Nat)
  | tile (id off : Nat)
  deriving DecidableEq, Repr

/-- A store or reduction that waits to be performed at its home (R302, R384). -/
inductive StoreOp where
  | bytes (loc : Loc) (data : List Byte)
  | reduce (loc : Loc) (op : Nat) (operand : Word)
  deriving DecidableEq, Repr

/-- What a graded load read (R313, R317): the lowest grade, per listed input the grade and version of a granule, and that
granule's number. -/
structure GradeRead where
  lowest : Nat
  inputs : List (Nat × Nat × Nat × Nat)
  deriving DecidableEq, Repr

/-- An operation outstanding on a counter (R169): 0 VC, 1 LC, 2 SC, 3 UC, 4 QC. -/
structure OutOp where
  counter : Nat
  index : Nat
  seq : Nat
  lands : List Landing
  stores : List StoreOp
  read : Option GradeRead
  /-- The lines of the core's write-combining buffer that hold its bytes (R302). -/
  combining : List Loc
  /-- A release: every earlier access of the group is performed before it (R307). -/
  release : Bool
  /-- An engine or controller completes it, not a landing event. -/
  external : Bool
  done : Bool
  deriving DecidableEq, Repr

/-- The range a lock covers (R260). -/
inductive LockRange where
  | tile (dom num : Nat)
  | global (ctx : Nat)
  deriving DecidableEq, Repr

/-- What a parked or held fragment waits for (R152, R115, R181, R294, R361). -/
inductive ParkKind where
  /-- A barrier word's generation (R237): the reference, the generation, whether it counts bytes, and whether a BARA.w
  has already arrived (R243). -/
  | word (ref : DWord) (gen : Nat) (bytes arrived : Bool)
  /-- A change of GEN has passed the generation that it waited for (R237): the fragment goes on, or issues its BARW again. -/
  | passed (ref : DWord) (gen : Nat) (bytes arrived : Bool)
  | blockBarrier
  | phase (level : Nat)
  | coll
  /-- A grade reached over a byte range (R312, R328); `fromGwait` for GWAIT. -/
  | grade (lo len floor : Nat) (fromGwait polling : Bool)
  /-- A queue with the parked operation: its item registers and their number, its slot's stall count, and its index on QC. -/
  | queue (qnum : Nat) (enq : Bool) (d n stall op : Nat)
  /-- A destination entry in park-reads mode (R261), by lock owner, with the bytes that the read needs. -/
  | tile (owner : Nat) (range : LockRange) (lo n : Nat)
  /-- A tracked fault by page and kind (R295). -/
  | fault (page kind : Nat) (addr : DWord) (lane : Nat)
  | vestibule (bytes : Nat)
  | ring (desc : DWord)
  | regang
  /-- A SYNCL at a PC, with the lanes of em that have arrived. -/
  | syncl (pc : DWord) (em : Word)
  /-- A WAIT not yet satisfied (R169), with the operations counted before it. -/
  | counter (c n upto : Nat)
  /-- An engine operation, by its number, that waits at issue for lock-table room or an overlapping entry (R261, R281). -/
  | engine (id : Nat)
  /-- A COLL that has started as an operation whose entries wait for room (R261, R380). -/
  | collStart (id : Nat)
  /-- A PFREE that waits for the copies of a tensor (R352). -/
  | copies (part tid : Nat)
  /-- A send or collective held while a topology change is in progress (R361). -/
  | change
  /-- FENCE, ICINV or a release waiting for the group's accesses (R310). -/
  | drain
  /-- A barrier phase that completed when pre-emption had stopped the group: the fragment goes on when it is restored (R250). -/
  | released
  deriving DecidableEq, Repr

/-- A wake that came while the block was halted (R408): what it does at DBGRESUME. -/
inductive Latch where
  /-- The instruction is complete; a QDEQ has received these bytes. -/
  | goOn (item : List Byte)
  | trap (cause : Nat) (faddr finfo : DWord)
  deriving DecidableEq, Repr

/-- How far the accesses of a slot go (R412): the farthest level that their addresses lead to, whether the L1 or the cluster's atomic
unit may answer all of them before it, and the boundaries that request and response cross together (R16). -/
structure Reach where
  level : Nat
  near : Bool
  crossed : Nat
  deriving DecidableEq, Repr

/-- The reach of a slot that accesses nothing. -/
def Reach.nowhere : Reach := ⟨0, false, 0⟩

/-- The lantern's tag on a slot (R411, R417). -/
structure Tag where
  cycle : Nat
  forced : Bool
  /-- Set when the slot has issued: its PC, word, em, address and trap cause. -/
  issued : Bool
  pc : DWord
  word : Word
  em : Word
  addr : DWord
  cause : Nat
  melded : Bool
  /-- What its slot has left to land: operations by counter and index, engine operations by number, and the cycle from which its
  fixed-latency writes are readable. -/
  ops : List (Nat × Nat)
  engines : List Nat
  lands : Nat
  /-- How far its accesses go; `none` where the engine that performs them alone knows. -/
  reach : Option Reach
  deriving DecidableEq, Repr

/-- An entry of the split table (R180) with its scheduling state (R150, R151) and instruction supply (R157). -/
structure Fragment where
  index : Nat
  slices : BitVec 8
  em : Word
  pc : DWord
  /-- The return stack, innermost address first; its length is DEPTH. -/
  rstack : List DWord
  meldLeft : Nat
  meldPath : Word
  park : Option ParkKind
  class4 : Bool
  readyAt : Nat
  readySince : Nat
  /-- Bundles fetched but not left: address and bits. -/
  fetched : List (Nat × BitVec 128)
  /-- The loop buffer that the fragment is issuing a pass from, by its number (R157, R173). -/
  inLoop : Option Nat
  /-- The fragment has issued an IFENCE: it takes no slot from a loop buffer (R172). -/
  fenced : Bool
  /-- FLOOR at the first issue of an instruction that was parked and issues again (R325). -/
  keptFloor : Option Nat
  /-- A wake that acts at DBGRESUME (R408). -/
  latch : Option Latch
  /-- An arrival by BARA.w that has been withdrawn (R243): the word and the generation that the fragment waits for by BARW. -/
  arrived : Option (DWord × Nat)
  /-- The cycle in which its last wake has taken effect (R152, R175). -/
  wokeAt : Nat
  /-- Tagged slots of the lantern that have no record yet; the last may still be to issue. -/
  tags : List Tag
  deriving DecidableEq, Repr

/-- FRAME (R99): what handler entry saves and TRET restores. -/
structure Frame where
  frags : List Fragment
  trapped : Nat
  deriving DecidableEq, Repr

/-- The stake of a group (R158, R160). The start stake has no live set. -/
structure Stake where
  valid : Bool
  start : Bool
  record : DWord
  pc : DWord
  em : Word
  livev : DWord
  pins : DWord
  recipe : DWord
  /-- The slices of the group's fragment at the STAKE. -/
  slices : BitVec 8
  deriving DecidableEq, Repr

/-- An instance of SYNCL at one PC (R189): the supplied mask, the lanes that have arrived, and whether it has failed,
with the first lane found at fault. `absent` are the lanes of fragments that issued it without the lane in their em; with no lane
arrived no mask has been supplied. -/
structure SynclInst where
  pc : DWord
  mask : Word
  arrived : Word
  absent : Word
  failed : Option Nat
  deriving DecidableEq, Repr

/-- The life of a group (R148). `parked` is `running` with every fragment parked; `retired` groups leave the list. -/
inductive GroupState where
  | allocated | running | tail | saved
  /-- Retired, with a tracker entry that still has something outstanding (R165). -/
  | tracked
  deriving DecidableEq, Repr

structure Group where
  at_ : GroupId
  ctx : Nat
  kid : Nat
  block : Nat
  gid : Nat
  role : Nat
  regs : Nat
  prio : Nat
  state : GroupState
  /-- Allocated lane registers by name (R155). -/
  vregs : List (Nat × Lanes)
  sregs : Vector DWord 64
  mregs : Vector Word 16
  frags : List Fragment
  t0 : Vector (BitVec 6) 64
  t1 : Vector (BitVec 6) 64
  floor : Nat
  outgrade : Nat
  chk : Bool
  fnthr : Word
  mskip : Byte
  mstat : BitVec 4
  fcause : Byte
  faddr : DWord
  fpc : DWord
  finfo : DWord
  stakepc : DWord
  h : Bool
  frame : Option Frame
  stake : Stake
  ops : List OutOp
  /-- Operations counted so far on each of the five counters. -/
  issued : List Nat
  uncovered : List Uncovered
  pend : List Pend
  board : List Board
  /-- Names with a deferred last-read record (R155). -/
  deferred : List Nat
  syncl : List SynclInst
  /-- Cycle at which pre-emption reached the group (R161). -/
  preemptAt : Option Nat
  /-- Stopped for a full save (R162). -/
  stopped : Bool
  /-- A turnover that the group took at a YIELD (R134): the new role. -/
  turnover : Option Nat
  /-- PC of the TAIL, or of the last EXIT (R411). -/
  endPc : DWord
  /-- Tagged slots without a record whose fragment has ended, trapped or returned, by its index. -/
  loose : List (Nat × Tag)
  deriving DecidableEq, Repr

/-! ## Blocks, kernels, graphs (R122 to R147, R244 to R250, R407) -/

/-- A role entry (R124). -/
structure Role where
  regs : Nat
  prio : Nat
  queue : Nat
  init : Nat
  entry : Nat
  deriving DecidableEq, Repr

/-- A launch record (R122). -/
structure LaunchRec where
  code : DWord
  gridX : Nat
  gridY : Nat
  gridZ : Nat
  groups : Nat
  roles : List Role
  levels : List Nat
  clblk : Nat
  chk : Bool
  floor : Nat
  cap : Nat
  bamps : Nat
  sqcap : List DWord
  arg : DWord
  /-- Graded inputs: base and length (R125). -/
  inputs : List (Nat × Nat)
  tensors : List Nat
  ghi : Nat
  glo : Nat
  deriving DecidableEq, Repr

inductive KernelState where
  | placing | resident | draining
  deriving DecidableEq, Repr

structure Kernel where
  kid : Nat
  ctx : Nat
  record : DWord
  launch : LaunchRec
  state : KernelState
  placed : Nat
  /-- Completion word of a LAUNCH, 0 for none (R145). -/
  completion : DWord
  /-- The graph (by GBASE) and node of a KERNEL node's run. -/
  node : Option (DWord × Nat)
  depth : Nat
  /-- SEEN: lowest grade and highest version per input (R317). -/
  seen : List (Nat × Nat)
  waitedSince : Nat
  starved : Bool
  order : Nat
  deriving DecidableEq, Repr

/-- An arrival at a block barrier, PHASE or COLL (R244, R247, R379): the group's index in the block, and for COLL the quad. -/
structure Arrival where
  gid : Nat
  who : FragId
  level : Nat
  quad : List DWord
  dest : Nat
  opIndex : Nat
  deriving DecidableEq, Repr

/-- The debug state of a block (R407). -/
inductive DebugState where
  | run
  | halting (why code : Nat)
  | halted (why code : Nat)
  deriving DecidableEq, Repr

structure Block where
  kid : Nat
  ctx : Nat
  linear : Nat
  core : Nat
  /-- The tile domain: the number of the first block of its set (R251, R128). -/
  dom : Nat
  bpc : BitVec 16
  /-- Group indexes that are members of the open phase. -/
  members : List Nat
  barb : List Arrival
  phase : List Arrival
  coll : List Arrival
  /-- The open turnover: from a role to a role. -/
  turnover : Option (Nat × Nat)
  debug : DebugState
  dumpAt : DWord
  /-- The cycle in which it began to halt. -/
  haltAt : Nat
  /-- A DBGSTOP that has not reported DONE (R406, R408). -/
  stopAsked : Bool
  saved : Bool
  deriving DecidableEq, Repr

/-- A node of the phase tree (R248) that gathers or waits for its release: the level and domain instance, and for L7 this
chip's phase number, the key and K. -/
structure PhaseNode where
  kid : Nat
  level : Nat
  inst : Nat
  part : Nat
  phase : Nat
  key : Nat
  count : Nat
  /-- Blocks that are members. -/
  members : List Nat
  /-- Every member has arrived or retired, and the window of the last arrival. -/
  gathered : Bool
  window : Nat
  deriving DecidableEq, Repr

/-- A phase report of a chip, this one or another (R247), with the window in which it came here, and for this chip's own the chips
for which its flit has left through a circuit (R248). -/
structure PhaseReport where
  part : Nat
  key : Nat
  phase : Nat
  chip : Nat
  window : Nat
  left : List Nat
  deriving DecidableEq, Repr

inductive GraphState where
  | live
  /-- No node fires again; the Boolean says that it ends `halted` and not `complete` (R139). -/
  | ending (halted : Bool)
  | complete
  deriving DecidableEq, Repr

/-- What the controller keeps of a node (R136, R138): its record as read at submission, its state, and its present or last
run. -/
structure NodeInfo where
  node : Nat
  record : List Byte
  /-- STATE, PEND and DEPTH as the controller holds them; the record in memory shows them (R136). -/
  st : Nat
  pend : Nat
  depth : Nat
  /-- The kernel of the present run, and the graded inputs of the present or last one. -/
  kid : Option Nat
  inputs : List (Nat × Nat)
  /-- The next completion counts as a first one (R430). -/
  first : Bool
  /-- The pending re-fire's depth and the amended granule's address. -/
  refire : Option (Nat × Nat)
  /-- The run's own work is over; a COND whose test held; a run that stopped with a fault. -/
  finished : Bool
  held : Bool
  failed : Bool
  /-- First runs of predecessors that have completed while a COND that re-arms itself was still running (R140, R430). -/
  owed : Nat
  /-- SEEN of the last completed run. -/
  seen : List (Nat × Nat)
  deriving DecidableEq, Repr

structure Graph where
  ctx : Nat
  gbase : DWord
  nnodes : Nat
  graphid : Nat
  state : GraphState
  nodes : List NodeInfo
  deriving DecidableEq, Repr

/-! ## Contexts and queues (R87 to R121) -/

/-- The context record as read at BIND (R92). -/
structure CtxRec where
  ptroot : Nat
  tvec : DWord
  fqbase : Nat
  fqsize : Nat
  fqvec : Nat
  amdepth : Nat
  stakemax : Nat
  stataddr : Nat
  dirtyaddr : Nat
  partid : Nat
  deriving DecidableEq, Repr

/-- A fault record (R102). -/
structure FaultRec where
  addr : DWord
  pc : DWord
  cause : Nat
  kind : Nat
  group : Nat
  core : Nat
  flags : Nat
  block : DWord
  deriving DecidableEq, Repr

/-- An operation of the controllers that waits for a fault to be resolved (R440): a context's graph item, a node, or a
kernel's completion word. -/
inductive CtlWait where
  | submit
  | node (gbase : DWord) (n : Nat)
  | kernel (kid : Nat)
  /-- Beats of a send that wait in the receiving port's buffer (R370). -/
  | beats (b : Beats)
  deriving DecidableEq, Repr

/-- An access that waits on an entry of the fault tracker (R295): of a fragment, of an engine operation or of a controller, the last
two with its address. -/
inductive Waiter where
  | frag (who : FragId)
  | engine (id : Nat) (va : DWord)
  | ctl (w : CtlWait) (va : DWord)
  deriving DecidableEq, Repr

/-- A RESOLVE that is not done (R298): the fault's page and kind, and the accesses that have still to replay or trap, in the order
in which they parked. -/
structure Replay where
  page : Nat
  kind : Nat
  left : List Waiter
  deriving DecidableEq, Repr

/-- A slot of the host enqueue window (R120). -/
structure EnqSlot where
  cap : DWord
  status : Nat
  item : List Byte
  deriving DecidableEq, Repr

/-- A landing of a context (R371): its bound reference with the tile domain and core, and the bytes that wait for a binding. -/
structure LandSlot where
  index : Nat
  bound : Option (DWord × Nat × Nat)
  bytes : Nat
  deriving DecidableEq, Repr

/-- An event of the traced block in the present cycle (R414, R415): what it writes when the cycle's packets are put in order. -/
structure TraceEvent where
  cycle : Nat
  /-- The fragment whose event it is. -/
  who : FragId
  /-- A FUSE: it follows every other packet of its quarter (R415). -/
  late : Bool
  /-- The packet's type and payload, if the event writes one. -/
  packet : Option (Nat × List Byte)
  /-- A SYNC comes right after it: the transfer has changed a target's bits [63:32]. -/
  sync : Bool
  /-- The fragments that the event changes, by GID: their PC and em as a SYNC lists them, or gone. -/
  changes : List (Nat × Option (List Byte))
  deriving DecidableEq, Repr

/-- The trace of a context: registers of R413 and the state of R414 and R415. -/
structure TraceState where
  kid : Nat
  blk : Nat
  synci : Nat
  log2b : Nat
  en : Bool
  base : DWord
  head : Nat
  tail : Nat
  started : Bool
  /-- The cycle of the last packet, and the core of the block whose field counts it. -/
  lastCycle : Nat
  lastCore : Nat
  packets : Nat
  dropped : Nat
  dropping : Bool
  /-- The events of the present cycle, and the fragments of the block at its start by GID (R432). -/
  queue : List TraceEvent
  listing : Option (List (Nat × List Byte))
  deriving DecidableEq, Repr

structure Context where
  id : Nat
  vf : Nat
  part : Nat
  /-- State code of R87. -/
  state : Nat
  result : Nat
  cmdseq : BitVec 16
  discard : Nat
  ctxrec : DWord
  record : Option CtxRec
  graphq : DWord
  /-- A graph item taken from the queue whose node table cannot be read yet (R440). -/
  graphItem : Option (List Byte)
  fqhead : BitVec 32
  fqtail : BitVec 32
  fqseq : BitVec 16
  fqwait : List FaultRec
  qdesc : List Byte
  qcmdcap : DWord
  qres : Nat
  qcapout : DWord
  mop : List DWord
  mres : Nat
  /-- The INVAL in progress: base and length; and the RESOLVE in progress. -/
  inval : Option (Nat × Nat)
  replay : Option Replay
  dop : List DWord
  dres : Nat
  dval : DWord
  brkstop : Bool
  trapstop : Bool
  lbase : DWord
  llog2n : Nat
  lperiod : Nat
  /-- The last sampling period of each quarter that has had its sample (R411): core, quarter and period. -/
  lsampled : List ((Nat × Nat) × Nat)
  len : Bool
  lhead : DWord
  ltail : DWord
  ldrop : Nat
  trace : TraceState
  enq : List (Nat × EnqSlot)
  landings : List LandSlot
  deriving DecidableEq, Repr

inductive QState where
  | free | opened | sealed
  deriving DecidableEq, Repr

/-- A hardware queue (R108): the ring lies in device memory at `base`. -/
structure Queue where
  num : Nat
  epoch : BitVec 16
  state : QState
  ctx : Nat
  base : Nat
  log2cap : Nat
  size : Nat
  sfloor : Nat
  head : Nat
  tail : Nat
  enqWait : List FragId
  deqWait : List FragId
  deriving DecidableEq, Repr

/-! ## Tiles, locks and engines (R251 to R288) -/

inductive TileLevel where
  | s | c | a
  deriving DecidableEq, Repr

inductive TileState where
  | live | saved | scrubbing
  deriving DecidableEq, Repr

/-- A tile (R255, R256): its bytes with the canonical form of memory. -/
structure Tile where
  id : Nat
  ctx : Nat
  dom : Nat
  kid : Nat
  num : Nat
  gen : Nat
  level : TileLevel
  core : Nat
  holder : Nat
  peer : Nat
  shape : Word
  rows : Nat
  rb : Nat
  base : Nat
  phase : Nat
  bytes : Memory
  tstat : BitVec 4
  state : TileState
  deriving DecidableEq, Repr

structure Lock where
  core : Nat
  index : Nat
  owner : Nat
  range : LockRange
  dest : Bool
  parkReads : Bool
  lo : Nat
  hi : Nat
  deriving DecidableEq, Repr

/-- A range that an engine operation locks: the core that holds the entry, the range, its side and mode. -/
structure Hull where
  core : Nat
  range : LockRange
  dest : Bool
  parkReads : Bool
  lo : Nat
  hi : Nat
  deriving DecidableEq, Repr

/-- A copy record (R262). -/
structure CopyRec where
  kind : Nat
  op : Nat
  ef : Nat
  rows : Nat
  len : Nat
  src : DWord
  dst : DWord
  gstride : Nat
  bar : Nat
  deriving DecidableEq, Repr

/-- An operand element as the matrix engine gathers it (R274, R278): its value, its scale, and whether the scale's exponent
lies below MSKIP. -/
structure MmaElem where
  el : Fp
  sc : Fp
  low : Bool
  deriving DecidableEq, Repr

/-- One operand of a matrix instruction (R271 to R274): its tile, byte offset and direction, format word and scale tile. -/
structure MmaOperand where
  tile : Nat
  rb : Nat
  off : Nat
  turned : Bool
  fw : FormatWord
  scale : Nat
  deriving DecidableEq, Repr

/-- What a matrix instruction has read at issue (R271 to R278): its operands, K, N, the selected rows with the outer index
of A that each takes, and the skip threshold (0 without .skip). -/
structure MmaPlan where
  a : MmaOperand
  b : MmaOperand
  k : Nat
  n : Nat
  rows : List (Nat × Nat)
  mskip : Nat
  deriving DecidableEq, Repr

/-- A collective record (R375). -/
structure CollRec where
  kind : Nat
  op : Nat
  wire : Nat
  ef : Nat
  axes : Nat
  len : Nat
  timeout : Nat
  dst : DWord
  cap : DWord
  deriving DecidableEq, Repr

/-- A chip's contribution to a collective: its rank, a chunk index, a grade and the bytes in the wire format. -/
structure Contribution where
  rank : Nat
  chunk : Nat
  grade : Nat
  bytes : List Byte
  deriving DecidableEq, Repr

/-- A result in the wire format that lacks some ranks (R378): its chunk, the ranks, and the lowest grade of the others. -/
structure Partial where
  chunk : Nat
  missing : List Nat
  grade : Nat
  bytes : List Byte
  deriving DecidableEq, Repr

/-- A collective that has started (R374 to R381). -/
structure CollOp where
  rec_ : CollRec
  record : DWord
  /-- The source tile reference and the byte-count reference. -/
  src : DWord
  bar : DWord
  sequence : Nat
  rank : Nat
  n : Nat
  grade : Nat
  contribs : List Contribution
  /-- The algorithm (R374): the ring, a combine slot held, and whether it is fixed (R374). -/
  ring : Bool
  slot : Bool
  fixed : Bool
  /-- COLL.fb, and the cycle of F0 in which it asked for a slot (R374, R382). -/
  fallback : Bool
  asked : Nat
  /-- Chips whose first exchange has come, by rank and CHIPID. -/
  peers : List (Nat × Nat)
  started : Nat
  outDone : List Nat
  /-- Chunks flushed with ranks missing, and partial results that other chips have forwarded (R378). -/
  flushed : Bool
  results : List Partial
  /-- Contributions that came after the flush, or after a partial result of their chunk (R378). -/
  late : List Contribution
  deriving DecidableEq, Repr

/-- What an engine operation is (R261). -/
inductive EngineKind where
  /-- The records; how many are performed, and how many beats of the next one (R386); the floor and output grade at issue; and
  what each record has read. -/
  | copy (recs : List CopyRec) (next beats : Nat) (floor outgrade : Nat) (reads : List (Option GradeRead))
  /-- The accumulator tile, .z, the plan, the byte-count reference, and the gathered vectors by row of A and column of B. -/
  | mma (acc : Nat) (zero : Bool) (plan : MmaPlan) (bar : DWord) (av bv : List (Nat × List MmaElem)) (gathered done : Bool)
  /-- A send (R367 to R370); `held` when it is still to enter the vestibule, and the time at which it was accepted. -/
  | send (src dst : DWord) (global : Bool) (len left : Nat) (dest dctx : Nat) (graded : Bool) (grade depth : Nat) (waves : Nat)
      (land : Nat) (lbar : DWord) (held : Bool) (since : Nat)
  | pld (tid tile : Nat) (place : Word) (ref : DWord) (cap : DWord) (ownItem : Bool) (sequence buffer : Nat)
  /-- A started collective (R374 to R381). -/
  | coll (c : CollOp)
  | conv (tid : Nat) (sequence : Nat)
  /-- A complete operation whose items still wait for room in their queue (R121). -/
  | items
  deriving DecidableEq, Repr

/-- An engine operation in progress, with its issuer and the items that wait for room in a queue (R121). -/
structure Engine where
  id : Nat
  core : Nat
  ctx : Nat
  part : Nat
  kid : Nat
  dom : Nat
  group : Option GroupId
  kind : EngineKind
  /-- The ranges it registers (R261), and whether it has registered them. -/
  hulls : List Hull
  admitted : Bool
  suspended : Bool
  items : List (DWord × DWord)
  /-- The graph node of a COPY or COLL node. -/
  node : Option (DWord × Nat)
  deriving DecidableEq, Repr

/-- A straggler record of the fabric hub (R378). -/
structure Straggler where
  id : Nat
  ctx : Nat
  part : Nat
  kid : Nat
  op : CollOp
  results : List Partial
  deriving DecidableEq, Repr

/-! ## Memory structures (R293 to R324) -/

/-- A leaf a TLB caches (R291, R293): 96 cores, then 6 fields. -/
structure TlbEntry where
  unit : Nat
  ctx : Nat
  vbase : Nat
  size : Nat
  node : Nat
  loc : Nat
  mt : Nat
  frame : Nat
  graded : Bool
  dirty : Bool
  x : Bool
  w : Bool
  r : Bool
  pteAt : Nat
  deriving DecidableEq, Repr

/-- A granule's tag (R311). -/
structure GTag where
  depth : Nat
  ver : Nat
  grade : Nat
  deriving DecidableEq, Repr

/-- A line of a core's L1 data cache: the line's cells when it was filled (R302). -/
structure L1Line where
  core : Nat
  loc : Loc
  cells : Memory
  /-- The granule tag that the line carries (R21). -/
  tag : GTag
  deriving DecidableEq, Repr

/-- What a combining line of a remote or host page carries to the vestibule: its partition, run and output grade, and the line's
virtual address (R302, R321). -/
structure WcOut where
  part : Nat
  kid : Nat
  outgrade : Nat
  va : DWord
  deriving DecidableEq, Repr

/-- A write-combining line of a core (R302): bytes by offset. -/
structure WcLine where
  core : Nat
  ctx : Nat
  loc : Loc
  since : Nat
  bytes : List (Nat × Byte)
  group : GroupId
  out : Option WcOut
  deriving DecidableEq, Repr

/-- The bytes a cluster unit's atomics changed (R303). -/
structure ClusterByte where
  cluster : Nat
  pa : Nat
  value : Byte
  deriving DecidableEq, Repr

/-- A writer mark (R314): the granule, and the run: chip (0 for this one) and KID. -/
structure Mark where
  slice : Nat
  granule : Nat
  chip : Nat
  kid : Nat
  deriving DecidableEq, Repr

/-- An entry of the fault tracker (R295), with the accesses parked on it in the order in which they parked. -/
structure Tracked where
  ctx : Nat
  page : Nat
  kind : Nat
  waiters : List Waiter
  deriving DecidableEq, Repr

/-- An outward write in the vestibule (R321 to R324). -/
inductive Outward where
  | bytes (loc : Loc) (data : List Byte)
  | ring (desc : DWord) (payload : DWord) (ids : Nat)
  /-- A send that is not graded: destination chip and context, address and bytes. -/
  | send (dest dctx : Nat) (dst : DWord) (data : List Byte)
  deriving DecidableEq, Repr

structure VestEntry where
  seq : Nat
  ctx : Nat
  part : Nat
  kid : Nat
  node : Option (DWord × Nat)
  va : DWord
  released : Bool
  what : Outward
  deriving DecidableEq, Repr

/-- Interrupt coalescing of a host ring (R143). -/
structure RingState where
  ctx : Nat
  desc : DWord
  since : Nat
  firstAt : Option Nat
  deriving DecidableEq, Repr

/-- A report of an amendment to the queue controller (R318). -/
structure AmendReport where
  ctx : Nat
  granule : Nat
  va : Nat
  depth : Nat
  /-- Reads of the granule performed before the amendment whose data had not landed (R319): run and input. -/
  early : List (Nat × Nat)
  deriving DecidableEq, Repr

/-- A loop buffer of a quarter (R157): bundles captured, by address. -/
structure LoopBuf where
  id : Nat
  core : Nat
  quarter : Nat
  ctx : Nat
  base : Nat
  count : Nat
  bundles : List (Nat × BitVec 128)
  stale : Bool
  used : Nat
  deriving DecidableEq, Repr

/-! ## Tensors and links (R333 to R382) -/

structure TensorDesc where
  tid : Nat
  ef : Nat
  nax : Nat
  place : Word
  d0 : Nat
  d1 : Nat
  tr : Nat
  tc : Nat
  base0 : DWord
  base1 : DWord
  ssize : Nat
  deriving DecidableEq, Repr

inductive TensorState where
  | declaring | ready | converting | failed
  deriving DecidableEq, Repr

/-- A pending conversion (R340): sequence number, source and target, capability, the demanding kernel and domain, its engine
operation (0 before it is first), and how far it has come: axes still to step, the data and placement after the steps so
far, the tiles that have arrived. -/
structure Conversion where
  sequence : Nat
  source : Word
  target : Word
  cap : Option DWord
  kid : Nat
  dom : Nat
  engine : Nat
  axes : List Nat
  work : List Byte
  place : Word
  stepsDone : Bool
  arrived : List Nat
  deriving DecidableEq, Repr

/-- A chip's descriptor of a tensor, as it has reached this chip (R337), without BASE0 and BASE1. -/
structure PeerDesc where
  part : Nat
  chip : Nat
  tid : Nat
  key : List Byte
  deriving DecidableEq, Repr

structure Tensor where
  part : Nat
  ctx : Nat
  desc : TensorDesc
  /-- The descriptor as other chips compare it. -/
  key : List Byte
  state : TensorState
  committed : Word
  /-- Placements of conversions that are complete here, with the window of that; the last chip's window is not known yet. -/
  commitAt : List (Nat × Word)
  /-- Placements to be committed, with the window in which the last chip completed the conversion (R345). -/
  commits : List (Nat × Word)
  tail : Word
  buf : Nat
  nextSeq : BitVec 16
  lastSeq : BitVec 16
  pending : List Conversion
  deriving DecidableEq, Repr

inductive PortState where
  | dark | training | idle | up | draining | fault
  deriving DecidableEq, Repr

/-- A pitch-table entry (R357). -/
structure Pitch where
  index : Nat
  part : Nat
  ports : Nat
  route : Nat
  peers : List Nat
  deriving DecidableEq, Repr

/-- A slot plan (R364). -/
structure Plan where
  nslot : Nat
  slotns : Nat
  guardns : Nat
  epoch : Nat
  pitches : List Nat
  deriving DecidableEq, Repr

/-- What a partition's fabric runs (R360, R365). -/
inductive LinkMode where
  | none
  | pitch (index : Nat)
  /-- A running plan, its rotation and slot, and where in the slot it is: 0 guard, 1 window, 2 the slot has ended. -/
  | plan (p : Plan) (rotation slot stage : Nat)
  deriving DecidableEq, Repr

inductive ChangeKind where
  | reconf (pitch : Nat)
  | slots (p : Plan)
  | stopPlan
  deriving DecidableEq, Repr

/-- A topology change that is accepted and not finished (R360, R366): the generation it will produce, its issuer's operation
and destination scalar, how far it has come (0 waiting or draining, 1 frame sent, 2 awaiting EPOCH), the frame, and when and
how often it was sent. -/
structure Change where
  gen : BitVec 16
  kind : ChangeKind
  group : GroupId
  opIndex : Nat
  dest : Nat
  phase : Nat
  frame : List Byte
  since : Nat
  tries : Nat
  deriving DecidableEq, Repr

/-- Beats that have left through a port (R369, R370), of an operation of a context. -/
structure SentBeats where
  id : Nat
  ctx : Nat
  dest : Nat
  beats : Beats
  deriving DecidableEq, Repr

/-- Flits of a send that have left through a port and that its peer has not acknowledged (R389). -/
structure Unacked where
  id : Nat
  part : Nat
  dest : Nat
  port : Nat
  flits : Nat
  deriving DecidableEq, Repr

/-- A report that has left for the chip of a send that this chip could not take (R370): the chip, its number of the send, the cause
and the address. -/
structure SendReport where
  chip : Nat
  send : Nat
  cause : Nat
  addr : DWord
  deriving DecidableEq, Repr

/-- A partition's link state on this chip (R358). -/
structure Link where
  part : Nat
  tgen : BitVec 16
  tail : BitVec 16
  mode : LinkMode
  changes : List Change
  /-- Started collectives per AXES value (R380). -/
  collSeq : List (Nat × Nat)
  deriving DecidableEq, Repr

/-- A partition entry (R94). -/
structure PartEntry where
  partid : Nat
  vf : Nat
  wlus : Nat
  clusters : Nat
  ports : Nat
  cmin : Nat
  nx : Nat
  ny : Nat
  nz : Nat
  vmin : Nat
  ilog : Nat
  banks : List Nat
  deriving DecidableEq, Repr

/-! ## Power, start and log (R418 to R429) -/

/-- A sample of the power state (R418). -/
structure Sample where
  time : Nat
  vf : Nat
  head : Nat
  replay : Nat
  temp : Nat
  deriving DecidableEq, Repr

structure Field where
  up : Bool
  /-- CYCLE, and the part of a cycle in units of 1/1800 µs (log 6). -/
  cycle : Nat
  sub : Nat
  mv : Nat
  /-- The clocks that the two throttles set; the lower one governs. -/
  plimMhz : Nat
  thermMhz : Nat
  therm : Bool
  plim : Bool
  lean : Bool
  limit : Nat
  draw : Nat
  head : Nat
  /-- The ms of PTPNS whose measurement of HEAD is the last one taken (R425). -/
  headAt : Nat
  overUs : Nat
  underUs : Nat
  hotUs : Nat
  coolUs : Nat
  temp : Nat
  replays : Nat
  replaysUs : Nat
  /-- PTPNS from which MV may be lowered again (R428). -/
  lowerAt : Nat
  /-- The cycle in which the present window of lean mode began (R428). -/
  window : Nat
  samples : List Sample
  deriving DecidableEq, Repr

/-- A capture slot (R418, R419). -/
structure Capture where
  base : DWord
  arm : Bool
  done : Bool
  busy : Bool
  field : Nat
  kind : Nat
  taken : Nat
  repeats : Nat
  /-- The time of the trigger: PTPNS and the part of a nanosecond. -/
  trig : Nat
  trigSub : Nat
  deriving DecidableEq, Repr

inductive StartState where
  | off | cold | warm | ready | latched
  deriving DecidableEq, Repr

/-- The entries of the lifetime log (R429). -/
inductive LogName where
  | eccCorrected | eccUncorrectable | leanReplays | powerThrottle | thermalThrottle | capturesMissed | thermalTrip
  | portError | portFault | hbmRetrain | fieldLoss | startCold | startWarm | startFailed
  deriving DecidableEq, Repr

/-- One counter of the lifetime log (R429): its entry, its unit (field, port, stack, memory class or start step), its bucket,
and the count. -/
structure LogCount where
  what : LogName
  unit : Nat
  bucket : Nat
  count : Nat
  deriving DecidableEq, Repr

/-- The lifetime log (R429): its counters, PTPNS of the last trip of a field, and the last start-failure record: the step,
the field concerned if any, and PTPNS. -/
structure LifeLog where
  counts : List LogCount
  trips : List (Nat × Nat)
  startFailure : Option (Nat × Option Nat × Nat)
  deriving DecidableEq, Repr

/-- What the management interface has answered last (R421, R429). -/
inductive MgmtReply where
  | none
  /-- The measurement of the image that is being verified. -/
  | measurement (m : BitVec 512)
  /-- A report with STATE = failed. -/
  | failed
  /-- The measurement, the nonce, the count of starts, and the signature over them. -/
  | report (m : BitVec 512) (nonce : BitVec 256) (starts signature : Nat)
  | log (l : LifeLog)
  deriving DecidableEq, Repr

/-- The signed configuration image (R420): its contents, the SHAKE256 digest of them, the ML-DSA-65 signature over it and the vendor's
check key. -/
structure Image where
  firmware : List Byte
  repairs : List Byte
  digest : List Byte
  signature : List Byte
  key : List Byte
  limits : List Nat
  leanEnable : List Bool
  floorMv : List Nat
  tthrot : Nat
  ttrip : Nat
  deriving DecidableEq, Repr

/-! ## Who moves (the model's own) -/

/-- The fragment that issues, with its slot's control byte and literal. -/
structure Issuer where
  who : FragId
  lit : Option Word
  stall : Nat
  la : Bool
  lb : Bool
  ld : Bool
  word : Word
  deriving DecidableEq, Repr

/-- A turn of the agenda: an event happens, a fragment issues its next slot, or a fragment's fetch buffer takes the next
bundle (R157). -/
inductive Turn where
  | event (i : Instr)
  | issue (who : FragId)
  | prefetch (who : FragId)
  /-- A winner of this cycle issues; it does not once it is not ready in it any more (R151). -/
  | slot (who : FragId)
  /-- After the cycle's slots: pre-emption and stop requests reach their groups and blocks (R175, R408). -/
  | requests
  /-- The last chip of the partition has completed the first conversion of a tensor that waits for that, in the window `last` (R345). -/
  | placementOver (part tid last : Nat)
  /-- A run of another chip completes: its marks here are cleared before (R314). -/
  | remoteRunOver (chip kid : Nat)
  /-- Time passes by `n` periods of the nominal clock: what issued has issued in its cycle (R151). -/
  | pass (n : Nat)
  /-- Up to `n` beats of a copy or a send move (R386). -/
  | beats (id n : Nat)
  /-- An agent outside the chip writes host memory or another chip's memory. -/
  | outside (loc : Loc) (bytes : List Byte)
  /-- The peer's port acknowledges flits of a send: every beat of them has been performed there (R389). -/
  | acked (id flits : Nat)
  /-- The saved training parameters come to fail their SHAKE256 check (R423). -/
  | paramsSpoilt
  deriving DecidableEq, Repr

end Sys2Proof.Machine
end

