-- ==== Sys2Proof/Machine/State.lean ====
section
/-! DEFINITION. The whole state of one chip, its faults and refusals, and the state after reset (INVENTORY.md, State). -/

namespace Sys2Proof.Machine

/-- Why the machine stops. -/
inductive Fault where
  /-- Raised by the meaning of an encoded instruction when the state names no fragment that issues it: such a state is no
  state of a fragment's issue (the model's own; safe: nothing is claimed of it). -/
  | noIssuer
  deriving DecidableEq, Repr

/-- Why an instruction has no meaning. -/
inductive Refusal where
  /-- Raised by an arm of `exec` whose instruction has no meaning in the model yet (safe). -/
  | notModelled (mnemonic : String)
  deriving DecidableEq, Repr

/-- One chip. The manual's state is in every field but the last four, which are the model's own. -/
structure State where
  -- management, start and power (R420 to R429)
  start : StartState
  failCount : Nat
  startStep : Nat
  starts : Nat
  /-- The number of the start whose training parameters are saved; 0 for none (R423). -/
  paramSet : Nat
  /-- The saved set passes its SHAKE256 check (R423). -/
  paramOk : Bool
  fieldsUp : List Nat
  /-- PTPNS at which the rail of the field that starts now was asked for (R424). -/
  railAt : Nat
  image : Image
  fields : List Field
  ptpns : Nat
  /-- The part of a nanosecond in units of 1/9 ns (log 6). -/
  ptpSub : Nat
  captures : List Capture
  missed : Nat
  /-- The lifetime log, and what the nonvolatile store holds of it. -/
  log : LifeLog
  logFlushed : LifeLog
  /-- PTPNS of the last flush. -/
  flushedAt : Nat
  /-- For each port the hours whose sample of the error rate has been taken (R429). -/
  portSampled : List Nat
  mgmtReply : MgmtReply
  keyNumber : Nat
  -- partitions, ports and links (R93, R94, R353 to R372)
  parts : List PartEntry
  /-- The committed entries as their bytes. -/
  partBytes : List (List Byte)
  stagedParts : List (List Byte)
  slots : List (List Nat)
  stagedSlots : List (List Nat)
  ptres : Nat
  vfres : List (Nat × Nat)
  pitches : List Pitch
  ports : List PortState
  links : List Link
  frames : List (List Byte)
  frameSeq : Nat
  /-- What sends have put on the ports' circuits. -/
  sent : List SentBeats
  /-- Flits that have left and are not acknowledged, and the acknowledgements of this chip, by chip and send (R389). -/
  unacked : List Unacked
  acks : List (Nat × Nat)
  /-- Sends of other chips, by chip and number, whose remaining beats are discarded here, and the reports of them (R370). -/
  broken : List (Nat × Nat)
  /-- The receiving ports' buffers: beats that have arrived behind some that wait for a fault, in their order (R370). -/
  buffered : List Beats
  sendReports : List SendReport
  /-- Answers that have left for other chips: the chip and the value (R303). -/
  replies : List (Nat × Nat)
  /-- The chip's position in the pod and on the mesh (R103). -/
  chipid : Nat
  mesh : List Nat
  -- contexts, queues, kernels, graphs
  contexts : List Context
  queues : List Queue
  kernels : List Kernel
  graphs : List Graph
  blocks : List Block
  groups : List Group
  phases : List PhaseNode
  phaseReports : List PhaseReport
  nextOrder : Nat
  /-- The period of 1,024 cycles of F2 in which the stage governor has evaluated last (R133). -/
  governed : Nat
  -- tiles, locks, engines
  tiles : List Tile
  gens : List (Nat × Nat × Nat)
  locks : List Lock
  engines : List Engine
  nextEngine : Nat
  stragglers : List Straggler
  loopBufs : List LoopBuf
  /-- The quarter that each shared unit of a core has served last (R13): the core, the unit and the quarter. -/
  served : List ((Nat × Nat) × Nat)
  -- memory (R289 to R324)
  mem : Memory
  hostMem : Memory
  remoteMem : Memory
  tags : List (Nat × GTag)
  marks : List Mark
  tlb : List TlbEntry
  l1 : List L1Line
  wcb : List WcLine
  cluster : List ClusterByte
  tracker : List Tracked
  vest : List VestEntry
  nextVest : Nat
  rings : List RingState
  reports : List AmendReport
  msix : List (Nat × Nat)
  tensors : List Tensor
  descriptors : List PeerDesc
  /-- Operations issued so far: orders the stores of a core (R17). -/
  seq : Nat
  -- the model's own
  agenda : List Turn
  cur : Option Issuer
  freeCtr : Nat
  deriving DecidableEq, Repr

/-- A field before it has been brought up (R424, R426): nominal voltage and clock, no throttle, LIMIT of the image. -/
def Field.reset : Field :=
  { up := false, cycle := 0, sub := 0, mv := 750, plimMhz := 1800, thermMhz := 1800, therm := false, plim := false,
    lean := false, limit := 9600, draw := 0, head := 9600, headAt := 0, overUs := 0, underUs := 0, hotUs := 0, coolUs := 0,
    temp := 0, replays := 0, replaysUs := 0, lowerAt := 0, window := 0, samples := [] }

def Capture.reset : Capture :=
  { base := 0, arm := false, done := false, busy := false, field := 0, kind := 0, taken := 0, repeats := 0, trig := 0,
    trigSub := 0 }

/-- A partition entry that is unused: PARTID 0xFFFF (R94). -/
def unusedEntry : List Byte := [0xFF, 0xFF] ++ List.replicate 62 0

/-- A slot table with every entry unassigned (R95). -/
def unusedSlots : List Nat := List.replicate 128 0xFFFF

def LifeLog.empty : LifeLog := ⟨[], [], none⟩

/-- The configuration image of log 2: every LIMIT at its maximum, lean mode off, thermal thresholds in quarter
degrees at their defaults (R420, R427). -/
def Image.reset : Image :=
  { firmware := [], repairs := [], digest := [], signature := [], key := [], limits := List.replicate 6 9600, leanEnable := List.replicate 6 false,
    floorMv := List.replicate 6 750, tthrot := 420, ttrip := 480 }

/-- The chip right after reset: START is `off`, no field is up, nothing is loaded (R422). The registers the manual gives
no reset value hold the values of log 2. -/
def State.reset : State :=
  { start := .off, failCount := 0, startStep := 0, starts := 0, paramSet := 0, paramOk := true,
    fieldsUp := [], railAt := 0, image := Image.reset, fields := List.replicate 6 Field.reset, ptpns := 0, ptpSub := 0,
    captures := List.replicate 4 Capture.reset, missed := 0, log := LifeLog.empty, logFlushed := LifeLog.empty, flushedAt := 0, portSampled := List.replicate 16 0,
    mgmtReply := .none,
    keyNumber := 0, parts := [], partBytes := List.replicate 16 unusedEntry, stagedParts := List.replicate 16 unusedEntry,
    slots := List.replicate 12 unusedSlots, stagedSlots := List.replicate 12 unusedSlots, ptres := 0, vfres := [],
    pitches := [], ports := List.replicate 16 .dark, links := [], frames := [], frameSeq := 0, sent := [], unacked := [], acks := [], broken := [], buffered := [], sendReports := [], replies := [], chipid := 0,
    mesh := [0, 0, 0], contexts := [], queues := [], kernels := [], graphs := [], blocks := [], groups := [],
    phases := [], phaseReports := [], nextOrder := 0, governed := 0, tiles := [], gens := [], locks := [], engines := [],
    nextEngine := 1, stragglers := [], loopBufs := [], served := [], mem := [], hostMem := [], remoteMem := [], tags := [],
    marks := [], tlb := [], l1 := [], wcb := [], cluster := [], tracker := [], vest := [], nextVest := 0,
    rings := [], reports := [], msix := [], tensors := [], descriptors := [], seq := 0, agenda := [], cur := none, freeCtr := 0 }

end Sys2Proof.Machine
end

