-- ==== Sys2Proof/Machine/Bytes.lean ====
section
/-! DEFINITION. Memory as canonical cells, and little-endian values (R2, log 1). -/

namespace Sys2Proof.Machine

/-- What a byte of memory reads as; an unlisted byte reads 0 (log 1). -/
def readByte : Memory → Nat → Byte
  | [], _ => 0
  | (k, v) :: t, a => if k = a then v else if a < k then 0 else readByte t a

/-- Writes one byte and keeps the canonical form. -/
def writeByte : Memory → Nat → Byte → Memory
  | [], a, v => if v = 0 then [] else [(a, v)]
  | (k, w) :: t, a, v =>
    if a < k then (if v = 0 then (k, w) :: t else (a, v) :: (k, w) :: t)
    else if a = k then (if v = 0 then t else (k, v) :: t)
    else (k, w) :: writeByte t a v

/-- The canonical form: every entry nonzero and every address below those after it. -/
def Memory.wf : Memory → Bool
  | [] => true
  | (k, v) :: t => v != 0 && t.all (fun c => k < c.1) && Memory.wf t

/-- `n` bytes from address `a`. -/
def readBytes (m : Memory) (a : Nat) : Nat → List Byte
  | 0 => []
  | n + 1 => readByte m a :: readBytes m (a + 1) n

/-- Writes consecutive bytes, in increasing address. -/
def writeBytes (m : Memory) (a : Nat) : List Byte → Memory
  | [] => m
  | b :: bs => writeBytes (writeByte m a b) (a + 1) bs

/-- The value of little-endian bytes (R2). -/
def leNat : List Byte → Nat
  | [] => 0
  | b :: bs => b.toNat + 256 * leNat bs

/-- `n` little-endian bytes of a value. -/
def leBytes (x : Nat) : Nat → List Byte
  | 0 => []
  | n + 1 => BitVec.ofNat 8 x :: leBytes (x / 256) n

def readNat (m : Memory) (a n : Nat) : Nat := leNat (readBytes m a n)
def writeNat (m : Memory) (a n x : Nat) : Memory := writeBytes m a (leBytes x n)

/-- Field of a list of bytes: `n` bytes from `off`, little-endian. -/
def fieldAt (bs : List Byte) (off n : Nat) : Nat := leNat ((bs.drop off).take n)

/-- The cells of a region, as a memory of its own. -/
def cellsOf (m : Memory) (lo n : Nat) : Memory := m.filter fun c => lo ≤ c.1 && c.1 < lo + n

/-- Replaces the bytes `off`, `off + 1`, … of a value of `total` bytes. -/
def patchBytes (old : List Byte) (off : Nat) (new : List Byte) : List Byte :=
  old.take off ++ new ++ old.drop (off + new.length)

/-- The addressed element of a list; a default past its end. -/
def nth {α : Type} (l : List α) (i : Nat) (d : α) : α := l.getD i d

/-- Replaces or appends the first element that `p` selects. -/
def upsert {α : Type} (l : List α) (p : α → Bool) (x : α) : List α :=
  if l.any p then l.map fun y => if p y then x else y else l ++ [x]

end Sys2Proof.Machine
end

