-- ==== Sys2Proof/Machine/Base.lean ====
section
/-! DEFINITION. Finding and changing the parts of the state: groups and fragments, blocks, kernels, contexts, fields;
the passing of cycles (R4, R10, R103). -/

namespace Sys2Proof.Machine

/-- The field that holds a core (R10). -/
def coreField (core : Nat) : Nat := core / 16
/-- The cluster that holds a core (R10). -/
def coreCluster (core : Nat) : Nat := core / 4

/-- The arithmetic clock of a field (R427): the lower of the two throttles' governs. -/
def Field.mhz (f : Field) : Nat := min f.plimMhz f.thermMhz

namespace State

def field (s : State) (f : Nat) : Field := nth s.fields f Field.reset
def setField (s : State) (f : Nat) (x : Field) : State := { s with fields := s.fields.set f x }
/-- The cycle count of a core's field (R103). -/
def cycleOf (s : State) (core : Nat) : Nat := (s.field (coreField core)).cycle

def group? (s : State) (g : GroupId) : Option Group := s.groups.find? fun x => x.at_ = g
def setGroup (s : State) (g : Group) : State :=
  { s with groups := s.groups.map fun x => if x.at_ = g.at_ then g else x }
def updGroup (s : State) (g : GroupId) (f : Group → Group) : State :=
  { s with groups := s.groups.map fun x => if x.at_ = g then f x else x }

def block? (s : State) (kid linear : Nat) : Option Block := s.blocks.find? fun b => b.kid = kid && b.linear = linear
def updBlock (s : State) (kid linear : Nat) (f : Block → Block) : State :=
  { s with blocks := s.blocks.map fun b => if b.kid = kid && b.linear = linear then f b else b }
def groupBlock? (s : State) (g : Group) : Option Block := s.block? g.kid g.block

/-- The tile domain of a group: that of its block (R251). -/
def domOf (s : State) (g : Group) : Nat := (s.groupBlock? g).elim 0 (·.dom)
/-- The live tile that a handle names in a domain (R251). -/
def tileOf (s : State) (dom handle : Nat) : Option Tile :=
  s.tiles.find? fun t => t.dom = dom && t.num = handle % 4096 && t.gen = handle / 4096 % 16 && t.num ≠ 0 && t.state == .live
/-- The tile that a valid handle names, live or saved with its block (R256). -/
def keptTile (s : State) (dom handle : Nat) : Option Tile :=
  s.tiles.find? fun t => t.dom = dom && t.num = handle % 4096 && t.gen = handle / 4096 % 16 && t.num ≠ 0 && t.state != .scrubbing

def kernel? (s : State) (kid : Nat) : Option Kernel := s.kernels.find? fun k => k.kid = kid
def updKernel (s : State) (kid : Nat) (f : Kernel → Kernel) : State :=
  { s with kernels := s.kernels.map fun k => if k.kid = kid then f k else k }

def ctx? (s : State) (id : Nat) : Option Context := s.contexts.find? fun c => c.id = id
def updCtx (s : State) (id : Nat) (f : Context → Context) : State :=
  { s with contexts := s.contexts.map fun c => if c.id = id then f c else c }
def ctxRec (s : State) (id : Nat) : Option CtxRec := (s.ctx? id).bind (·.record)

def queue? (s : State) (n : Nat) : Option Queue := s.queues.find? fun q => q.num = n
def updQueue (s : State) (n : Nat) (f : Queue → Queue) : State :=
  { s with queues := s.queues.map fun q => if q.num = n then f q else q }

def engine? (s : State) (id : Nat) : Option Engine := s.engines.find? fun e => e.id = id
def updEngine (s : State) (id : Nat) (f : Engine → Engine) : State :=
  { s with engines := s.engines.map fun e => if e.id = id then f e else e }
def dropEngine (s : State) (id : Nat) : State := { s with engines := s.engines.filter fun e => e.id != id }

def graph? (s : State) (ctx : Nat) (gbase : DWord) : Option Graph :=
  s.graphs.find? fun g => g.ctx = ctx && g.gbase = gbase
def updGraph (s : State) (ctx : Nat) (gbase : DWord) (f : Graph → Graph) : State :=
  { s with graphs := s.graphs.map fun g => if g.ctx = ctx && g.gbase = gbase then f g else g }

def tensor? (s : State) (part tid : Nat) : Option Tensor := s.tensors.find? fun t => t.part = part && t.desc.tid = tid
def updTensor (s : State) (part tid : Nat) (f : Tensor → Tensor) : State :=
  { s with tensors := s.tensors.map fun t => if t.part = part && t.desc.tid = tid then f t else t }

def part? (s : State) (partid : Nat) : Option PartEntry := s.parts.find? fun p => p.partid = partid
/-- The partition a virtual function presents; 0xFFFF when none does (R89). -/
def vfPart (s : State) (vf : Nat) : Nat :=
  match s.parts.find? fun p => p.vf = vf with
  | some p => p.partid
  | none => 0xFFFF
/-- A pitch-table entry that is not empty (R357). -/
def pitch? (s : State) (i : Nat) : Option Pitch := s.pitches.find? fun p => p.index = i && p.part ≠ 0xFFFF

def Link.new (part : Nat) : Link := ⟨part, 0, 0, .none, [], []⟩
def link (s : State) (part : Nat) : Link :=
  (s.links.find? fun l => l.part = part).getD (Link.new part)
def setLink (s : State) (l : Link) : State := { s with links := upsert s.links (fun x => x.part = l.part) l }

/-- A fresh value of the free counter. -/
def fresh (s : State) : State := { s with freeCtr := s.freeCtr + 1 }

/-- A field's clock advances by the time of `n` nominal cycles (log 6). -/
def tickField (n : Nat) (f : Field) : Field :=
  if f.up then { f with cycle := f.cycle + (f.sub + n * f.mhz) / 1800, sub := (f.sub + n * f.mhz) % 1800 } else f

/-- 60 s in ns: the time between two flushes of the log (R429). -/
def flushPeriod : Nat := 60000000000

/-- Time passes by `n` periods of the nominal clock: CYCLE of every field that is up, and PTPNS, 5/9 ns each (R103). The log is flushed
when 60 s have passed since its last flush (R429). -/
def tick (s : State) (n : Nat) : State :=
  let now := s.ptpns + (s.ptpSub + 5 * n) / 9
  { s with fields := s.fields.map (tickField n), ptpns := now, ptpSub := (s.ptpSub + 5 * n) % 9
           logFlushed := if s.flushedAt + flushPeriod ≤ now then s.log else s.logFlushed
           flushedAt := if s.flushedAt + flushPeriod ≤ now then now else s.flushedAt }

/-- Adds to a counter of the lifetime log (R429): it saturates at 2^32 − 1. -/
def count (s : State) (what : LogName) (unit bucket n : Nat) : State :=
  let here (c : LogCount) : Bool := c.what = what && c.unit = unit && c.bucket = bucket
  let old := (s.log.counts.find? here).elim 0 (·.count)
  { s with log := { s.log with counts := upsert s.log.counts here ⟨what, unit, bucket, min (old + n) 0xFFFFFFFF⟩ } }

end State

/-- The length of a partition's visibility window in ns (R372). -/
def windowLen (p : Option PartEntry) : Nat :=
  match p with
  | some e => 1000 * (if e.wlus = 0 then 2 else e.wlus)
  | none => 2000

namespace State

def window (s : State) (part : Nat) : Nat := s.ptpns / windowLen (s.part? part)

end State

/-- What left a port of a partition in window N on its way to this chip is performed before window N + 2 begins, on this chip's PTPNS
(R372, R389, log 121). -/
def inWindow (s : State) (part window : Nat) : Bool := decide (s.window part < window + 2)

namespace Group

def frag? (g : Group) (i : Nat) : Option Fragment := g.frags.find? fun f => f.index = i
def updFrag (g : Group) (i : Nat) (f : Fragment → Fragment) : Group :=
  { g with frags := g.frags.map fun x => if x.index = i then f x else x }
/-- The group is converged (R155): one fragment, no melded region. -/
def converged (g : Group) : Bool :=
  match g.frags with
  | [f] => f.meldLeft = 0
  | _ => false
/-- Lanes of the slices that have not exited (R180). -/
def liveLanes (g : Group) : Word := g.frags.foldl (fun acc f => acc ||| lanesOf f.slices) 0
def liveSlices (g : Group) : BitVec 8 := g.frags.foldl (fun acc f => acc ||| f.slices) 0

end Group

/-- The identifier of a fragment of the group. -/
def fragOf (g : Group) (f : Fragment) : FragId := ⟨g.at_.core, g.at_.quarter, g.at_.slot, f.index⟩

/-- The handle of a tile or barrier reference (R234, R252). -/
def refHandle (r : DWord) : Nat := r.toNat % 65536

/-- How many quarters come before a quarter at a unit of a core: it serves round-robin, from the one after the quarter it served last
(R13); one that has served none starts with quarter 0 (log 116). -/
def quarterTurn (s : State) (core unit quarter : Nat) : Nat :=
  let last : Nat := (s.served.find? fun x => x.1 = (core, unit)).elim 3 (·.2)
  (quarter + 3 - last) % 4

/-- A unit of a core serves a quarter. -/
def serveUnit (s : State) (core unit quarter : Nat) : State :=
  { s with served := upsert s.served (fun x => x.1 = (core, unit)) ((core, unit), quarter) }

/-- The fragment that issues a slot, with the group's state at issue. -/
structure Iss where
  who : FragId
  g : Group
  f : Fragment
  /-- Cycle of issue in the core's field. -/
  now : Nat
  lit : Option Word
  stall : Nat
  la : Bool
  lb : Bool
  ld : Bool
  word : Word
  deriving DecidableEq, Repr

/-- The issuing fragment the state names. -/
def State.issuer? (s : State) : Option Iss :=
  match s.cur with
  | none => none
  | some i =>
    match s.group? i.who.group with
    | none => none
    | some g =>
      match g.frag? i.who.index with
      | none => none
      | some f => some ⟨i.who, g, f, s.cycleOf i.who.core, i.lit, i.stall, i.la, i.lb, i.ld, i.word⟩

/-- Nominal cycles until a core's field has counted up to `target`; 0 when its clock does not run. -/
def cyclesTo (s : State) (core target : Nat) : Nat :=
  let f := s.field (coreField core)
  if f.up = false ∨ f.mhz = 0 ∨ target ≤ f.cycle then 0
  else ((target - f.cycle) * 1800 - f.sub + f.mhz - 1) / f.mhz

end Sys2Proof.Machine
end

