-- ==== Sys2Proof/Machine/Translate.lean ====
section
/-! DEFINITION. Physical memory and translation: which partition owns an address and which slice is its home (R439), the
page tables (R289 to R291), the TLBs (R293), reads and writes of physical bytes (R303). -/

namespace Sys2Proof.Machine

/-! ## Ownership and homes (R14, R439) -/

/-- Bytes of one bank set. -/
def bankSetSize : Nat := 0xC0000000
/-- First physical address past local HBM. -/
def hbmEnd : Nat := 0x9000000000

/-- Whether an entry owns bank set `b` of stack `st` (R94 BANKS). -/
def PartEntry.ownsPair (p : PartEntry) (pair : Nat) : Bool := (nth p.banks (pair / 16) 0).testBit (pair % 16)

/-- The partition that owns a physical address (R439). -/
def ownerOf (s : State) (pa : Nat) : Option PartEntry :=
  if pa < hbmEnd then s.parts.find? fun p => p.ownsPair (pa / bankSetSize) else none

/-- Whether every byte of a range belongs to a partition: its ends lie in owned bank sets, as no structure of the manual
spans more than two. -/
def inPart (s : State) (partid pa n : Nat) : Bool :=
  let own (a : Nat) : Bool :=
    match ownerOf s a with
    | some p => p.partid = partid
    | none => false
  own pa && (n ≤ 1 || own (pa + n - 1))

/-- The owned pairs of a partition in increasing 16 × s + b. -/
def PartEntry.pairs (p : PartEntry) : List Nat := (List.range 192).filter p.ownsPair

/-- The home slice of a device address (R439). -/
def homeSlice (s : State) (pa : Nat) : Nat :=
  match ownerOf s pa with
  | some p =>
    let pairs := p.pairs
    let off := (pairs.filter (· < pa / bankSetSize)).length * bankSetSize + pa % bankSetSize
    let pair := nth pairs (off / 2 ^ p.ilog % pairs.length) 0
    16 * (pair / 16 / 2) + off / 256 % 16
  | none => 16 * (pa / bankSetSize / 16 / 2) + pa / 256 % 16

/-- Where a device address is stored under a partition table (R439): bank set and byte as one number. -/
def storedAt (parts : List PartEntry) (pa : Nat) : Nat :=
  match if pa < hbmEnd then parts.find? (·.ownsPair (pa / bankSetSize)) else none with
  | some p =>
    let pairs := p.pairs
    let off := (pairs.filter (· < pa / bankSetSize)).length * bankSetSize + pa % bankSetSize
    let i := off / 2 ^ p.ilog
    nth pairs (i % pairs.length) 0 * bankSetSize + i / pairs.length * 2 ^ p.ilog + off % 2 ^ p.ilog
  | none => pa

/-- The address of a stored byte under a partition table: the inverse of `storedAt`. -/
def addressOf (parts : List PartEntry) (pos : Nat) : Nat :=
  match if pos < hbmEnd then parts.find? (·.ownsPair (pos / bankSetSize)) else none with
  | some p =>
    let pairs := p.pairs
    let k := (pairs.filter (· < pos / bankSetSize)).length
    let o := pos % bankSetSize
    let off := (o / 2 ^ p.ilog * pairs.length + k) * 2 ^ p.ilog + o % 2 ^ p.ilog
    nth pairs (off / bankSetSize) 0 * bankSetSize + off % bankSetSize
  | none => pos

/-- Device memory keeps what its banks hold when the partition table changes: what each address reads follows the new
interleave (R439). -/
def remapMemory (old new : List PartEntry) (m : Memory) : Memory :=
  m.foldl (fun a c => writeByte a (addressOf new (storedAt old c.1)) c.2) []

/-- A field that is not up, lost or still to start: no message reaches it (R19, R424). -/
def fieldLost (s : State) (f : Nat) : Bool := !(s.field f).up

/-- A range of device memory has a line whose home is in a field that is not up. -/
def lostRange (s : State) (pa n : Nat) : Bool :=
  s.fields.any (!·.up) && (List.range ((pa % 256 + n + 255) / 256)).any fun k => fieldLost s (homeSlice s (pa / 256 * 256 + 256 * k) / 16)

/-! ## Physical bytes -/

/-- Bytes of device memory as their home slices answer. From a lost field an error response comes instead, and what the reader takes
for the bytes is not stated: free values (R19, log 3). -/
def memRead (s : State) (pa n : Nat) : List Byte :=
  if lostRange s pa n then
    (List.range n).map fun k =>
      if lostRange s (pa + k) 1 then (Config.freeWord 60 (s.freeCtr * 2 ^ 48 + pa + k)).setWidth 8 else readByte s.mem (pa + k)
  else readBytes s.mem pa n

/-- Device memory after a write: no byte reaches a lost field (R19). -/
def memWrite (s : State) (pa : Nat) (bs : List Byte) : Memory :=
  if lostRange s pa bs.length then
    (List.range bs.length).foldl (fun m k => if lostRange s (pa + k) 1 then m else writeByte m (pa + k) (bs.getD k 0)) s.mem
  else writeBytes s.mem pa bs

/-- Key of a byte of another chip's memory. -/
def remoteKey (node pa : Nat) : Nat := node * 2 ^ 48 + pa

def readLoc (s : State) (l : Loc) (n : Nat) : List Byte :=
  match l with
  | .device pa => memRead s pa n
  | .remote node pa => readBytes s.remoteMem (remoteKey node pa) n
  | .host pa => readBytes s.hostMem pa n
  | .tile id off =>
    match s.tiles.find? fun t => t.id = id with
    | some t => readBytes t.bytes off n
    | none => List.replicate n 0

def writeLoc (s : State) (l : Loc) (bs : List Byte) : State :=
  match l with
  | .device pa => { s with mem := memWrite s pa bs }
  | .remote node pa => { s with remoteMem := writeBytes s.remoteMem (remoteKey node pa) bs }
  | .host pa => { s with hostMem := writeBytes s.hostMem pa bs }
  | .tile id off =>
    { s with tiles := s.tiles.map fun t => if t.id = id then { t with bytes := writeBytes t.bytes off bs } else t }

def Loc.add (l : Loc) (n : Nat) : Loc :=
  match l with
  | .device pa => .device (pa + n)
  | .remote node pa => .remote node (pa + n)
  | .host pa => .host (pa + n)
  | .tile id off => .tile id (off + n)

def Loc.addr : Loc → Nat
  | .device pa => pa
  | .remote _ pa => pa
  | .host pa => pa
  | .tile _ off => off

/-- The 256-byte line of a location (R14). -/
def Loc.line (l : Loc) : Loc :=
  match l with
  | .device pa => .device (pa / 256 * 256)
  | .remote node pa => .remote node (pa / 256 * 256)
  | .host pa => .host (pa / 256 * 256)
  | .tile id off => .tile id (off / 256 * 256)

/-! ## The page tables -/

/-- The levels of a walk from the root: level, lowest index bit, entries, table size (R290). -/
def walkLevels : List (Nat × Nat × Nat × Nat) :=
  [(4, 48, 512, 4096), (3, 39, 512, 4096), (2, 30, 512, 4096), (1, 21, 512, 4096), (0, 16, 32, 256)]

/-- Bits [hi:lo] of a number. -/
def bitsAt (x lo n : Nat) : Nat := x / 2 ^ lo % 2 ^ n

/-- Whether a leaf entry at a level is well formed (R291). -/
def leafOk (s : State) (partid level pte : Nat) : Bool :=
  let frame := bitsAt pte 16 32 * 65536
  let loc := bitsAt pte 50 2
  let size := if level = 2 then 2 ^ 30 else if level = 1 then 2 ^ 21 else 65536
  (level ≤ 2) && bitsAt pte 2 1 = 0 && bitsAt pte 8 8 = 0 && loc ≠ 3 && (loc = 1 || bitsAt pte 52 12 = 0)
    && frame % size = 0
    && (bitsAt pte 7 1 = 0 || (loc = 0 && bitsAt pte 48 2 = 0))
    && (loc ≠ 0 || inPart s partid frame size)

/-- Whether a pointer entry at a level is well formed: the next table is aligned to its own size (R290, R291). -/
def pointerOk (level pte : Nat) : Bool :=
  level ≠ 0 && bitsAt pte 48 16 = 0 && bitsAt pte 2 6 = 0
    && (bitsAt pte 8 40 * 256) % (if level = 1 then 256 else 4096) = 0

/-- The walk over the remaining levels (R290): the leaf, or `none` for an absent or malformed entry. -/
def walkFrom (s : State) (ctx partid va : Nat) : List (Nat × Nat × Nat × Nat) → Nat → Option TlbEntry
  | [], _ => none
  | (level, low, entries, _) :: rest, table =>
    let at_ := table + 8 * (va / 2 ^ low % entries)
    let pte := leNat (memRead s at_ 8)
    if bitsAt pte 0 1 = 0 then none
    else if bitsAt pte 1 1 = 1 then
      if leafOk s partid level pte then
        let size := if level = 2 then 2 ^ 30 else if level = 1 then 2 ^ 21 else 65536
        some { unit := 0, ctx := ctx, vbase := va / size * size, size := size, node := bitsAt pte 52 12,
               loc := bitsAt pte 50 2, mt := bitsAt pte 48 2, frame := bitsAt pte 16 32 * 65536,
               graded := bitsAt pte 7 1 = 1, dirty := bitsAt pte 6 1 = 1, x := bitsAt pte 5 1 = 1,
               w := bitsAt pte 4 1 = 1, r := bitsAt pte 3 1 = 1, pteAt := at_ }
      else none
    else if pointerOk level pte then walkFrom s ctx partid va rest (bitsAt pte 8 40 * 256)
    else none

/-- A walk of a context's tables (R290). -/
def walk (s : State) (ctx : Nat) (va : Nat) : Option TlbEntry :=
  match s.ctxRec ctx with
  | some r => walkFrom s ctx r.partid va walkLevels r.ptroot
  | none => none

/-- Whether an entry permits an access: 0 read, 1 write, 2 execute (R294). -/
def TlbEntry.permits (e : TlbEntry) (kind : Nat) : Bool :=
  match kind with
  | 0 => e.r
  | 1 => e.w
  | _ => e.x

def TlbEntry.covers (e : TlbEntry) (unit ctx va : Nat) : Bool :=
  e.unit = unit && e.ctx = ctx && e.vbase ≤ va && va < e.vbase + e.size

/-- The place an entry gives a virtual address (R291, R303). -/
def TlbEntry.locate (e : TlbEntry) (va : Nat) : Loc :=
  let pa := e.frame + (va - e.vbase)
  match e.loc with
  | 0 => .device pa
  | 1 => .remote e.node pa
  | _ => .host pa

/-- Whether an address lies in the tag carve-out of a graded frame (R291). -/
def TlbEntry.inCarveOut (e : TlbEntry) (va : Nat) : Bool := e.graded && va - e.vbase ≥ e.size - e.size / 128

/-- TLB units: cores 0 to 95, then the fields' L2 TLBs (R293). -/
def l2Unit (core : Nat) : Nat := 96 + coreField core

/-- Fills a TLB: an entry takes the place of one of the same page, and the oldest of a full one leaves (R293). -/
def fillTlb (s : State) (unit : Nat) (e : TlbEntry) : State :=
  let rest := s.tlb.filter fun x => !(x.unit = unit && x.ctx = e.ctx && x.vbase = e.vbase && x.size = e.size)
  let mine := rest.filter fun x => x.unit = unit
  let cap := if unit < 96 then 256 else 16384
  let keep := if mine.length < cap then rest else
    match mine.head? with
    | some old => rest.erase old
    | none => rest
  { s with tlb := keep ++ [{ e with unit := unit }] }

/-- A TLB entry serves an access: it permits it, and a write only when the entry holds D = 1 (R292). -/
def TlbEntry.serves (e : TlbEntry) (unit ctx va kind : Nat) : Bool :=
  e.covers unit ctx va && e.permits kind && (kind ≠ 1 || e.dirty)

/-- Translates one address for a core (R293, R294): through its L1 TLB, its field's L2 TLB, or a walk. An entry that
forbids the access, or that a write finds clean, is walked again, as an entry changed by system software takes effect on the next
walk (R292). -/
def translate (s : State) (core ctx : Nat) (va : Nat) (kind : Nat) : Option (TlbEntry × State) :=
  match s.tlb.find? fun e => e.serves core ctx va kind with
  | some e => some (e, s)
  | none =>
    match s.tlb.find? fun e => e.serves (l2Unit core) ctx va kind with
    | some e => some (e, fillTlb s core e)
    | none =>
      match walk s ctx va with
      | some e => if e.permits kind then some (e, fillTlb (fillTlb s (l2Unit core) e) core e) else none
      | none => none

/-- Sets D by a device-scope atomic OR on the entry before the first write to a clean page (R292). -/
def setDirty (s : State) (e : TlbEntry) : State :=
  if e.dirty then s
  else
    { s with
      mem := memWrite s e.pteAt [(memRead s e.pteAt 1).headD 0 ||| 0x40]
      tlb := s.tlb.map fun x => if x.ctx = e.ctx && x.pteAt = e.pteAt then { x with dirty := true } else x }

/-- What a fetch through the instruction-supply path comes to (R297). -/
inductive Fetched where
  | got (b : BitVec 128) (s : State)
  /-- The page is absent or not executable. -/
  | absent
  /-- The access is illegal, with cause 0x09 and a code of R306: 1 outside the virtual space (R289), 2 in a carve-out (R291). -/
  | illegal (code : Nat)

/-- The bundle at a 16-byte aligned address, through the instruction-supply path (R289, R291, R297). -/
def fetchBundle (s : State) (core ctx : Nat) (va : Nat) : Fetched :=
  if va ≥ 2 ^ 57 then .illegal 1
  else
    match translate s core ctx va 2 with
    | some (e, s') => if e.inCarveOut va then .illegal 2 else .got (BitVec.ofNat 128 (leNat (readLoc s' (e.locate va) 16))) s'
    | none => .absent

/-- A bundle's control word, and the word of slot 1, 2 or 3 (R59). -/
def bundleWord (b : BitVec 128) (k : Nat) : Word := b.extractLsb' (32 * k) 32

/-- KIND of a bundle (R60). -/
def bundleKind (b : BitVec 128) : Nat := (b.extractLsb' 30 2).toNat

/-- A faulty bundle (R62). -/
def bundleFaulty (b : BitVec 128) : Bool :=
  bundleKind b ≥ 2 || b.extractLsb' 24 6 != 0 || (bundleKind b = 1 && b.extractLsb' 0 8 != 0)

/-- Whether an address is a slot that a transfer may land on, given its bundle (R64). -/
def slotOk (b : BitVec 128) (pc : Nat) : Bool :=
  pc % 4 = 0 && pc % 16 ≠ 0 && !(pc % 16 = 12 && bundleKind b = 1)

/-- The result of the check of R64 on a target. -/
inductive Target where
  | ok (s : State)
  | bad
  /-- The read of the target's bundle met a translation fault. -/
  | fault
  /-- The read of the target's bundle is illegal, with a code of R306. -/
  | illegal (code : Nat)

/-- Checks a transfer's target (R64). An address that is no slot comes before the read of its bundle, which may meet a fault or,
outside the virtual space or in a carve-out, cause 0x09 (log 91). -/
def checkTarget (s : State) (core ctx : Nat) (target : DWord) : Target :=
  let t := target.toNat
  if t % 4 ≠ 0 ∨ t % 16 = 0 then .bad
  else
    match fetchBundle s core ctx (t / 16 * 16) with
    | .absent => .fault
    | .illegal code => .illegal code
    | .got b s' => if slotOk b t then .ok s' else .bad

end Sys2Proof.Machine
end

