-- ==== Sys2Proof/Machine/Trace.lean ====
section
/-! DEFINITION. What every record carries (R404), the special-register words of a field (R425, R426), and the
branch-and-mask trace (R413 to R415, R432, R433). -/

namespace Sys2Proof.Machine

/-- VFSTATE of a field (R426). -/
def vfState (s : State) (f : Nat) : Nat :=
  let x := s.field f
  x.mv * 2 ^ 20 + x.mhz * 2 ^ 8 + x.therm.toNat * 32 + x.plim.toNat * 16 + x.lean.toNat * 8 + f

/-- FHEAD of a field (R425). -/
def fheadWord (s : State) (f : Nat) : Nat :=
  let x := s.field f
  x.limit * 2 ^ 32 + x.draw * 2 ^ 16 + x.head

/-- Block coordinates of a linear index (R128). -/
def blockCoords (l : LaunchRec) (linear : Nat) : Nat × Nat × Nat :=
  (linear % l.gridX, linear / l.gridX % l.gridY, linear / l.gridX / l.gridY)

/-- The BLOCK field of a record (R102, R404). -/
def blockWord (s : State) (kid linear : Nat) : DWord :=
  match s.kernel? kid, s.block? kid linear with
  | some k, some b =>
    let (x, y, z) := blockCoords k.launch linear
    BitVec.ofNat 64 (x % 65536 + y % 65536 * 2 ^ 16 + z % 65536 * 2 ^ 32 + b.bpc.toNat * 2 ^ 48)
  | _, _ => 0

/-- Writes bytes at a virtual address of a context at device scope, one translation per byte page; `none` when a page is
absent or forbids the write (R405), or the byte lies in a tag carve-out (R291). -/
def writeVirtual (s : State) (core ctx : Nat) (va : Nat) : List Byte → Option State
  | [] => some s
  | b :: bs =>
    match translate s core ctx va 1 with
    | none => none
    | some (e, s1) =>
      if e.inCarveOut va then none
      else writeVirtual (writeLoc (setDirty s1 e) (e.locate va) [b]) core ctx (va + 1) bs

/-- Reads bytes at a virtual address; `none` when a page is absent or forbids the read, or a byte lies in a tag carve-out (R291). -/
def readVirtual (s : State) (core ctx : Nat) (va : Nat) : Nat → Option (List Byte)
  | 0 => some []
  | n + 1 =>
    match translate s core ctx va 0 with
    | none => none
    | some (e, s1) =>
      if e.inCarveOut va then none
      else
        match readVirtual s1 core ctx (va + 1) n with
        | none => none
        | some bs => some (readLoc s1 (e.locate va) 1 ++ bs)

/-- The first address of a range that lies in a tag carve-out (R291). -/
def firstCarved (s : State) (ctx va n : Nat) : Option DWord :=
  ((List.range n).find? fun i => (walk s ctx (va + i)).any (·.inCarveOut (va + i))).map fun i => BitVec.ofNat 64 (va + i)

/-- Writes ring bytes, each at its place modulo the ring's size. -/
def writeRing (s : State) (core ctx base size : Nat) (pos : Nat) : List Byte → Option State
  | [] => some s
  | b :: bs =>
    match writeVirtual s core ctx (base + pos % size) [b] with
    | none => none
    | some s' => writeRing s' core ctx base size (pos + 1) bs

/-- The groups of a block. -/
def State.groupsOf (s : State) (kid linear : Nat) : List Group :=
  s.groups.filter fun g => g.kid = kid && g.block = linear && (g.state != .tail) && (g.state != .tracked)

/-- GID byte of a fragment (R414). -/
def gidByte (gid index : Nat) : Nat := gid * 8 + index

/-- What a SYNC lists of the fragments of a block, by GID in increasing order: PC and em (R432). -/
def syncEntries (s : State) (kid linear : Nat) : List (Nat × List Byte) :=
  (List.range 32).flatMap fun gid =>
    (s.groupsOf kid linear).filter (·.gid = gid) |>.flatMap fun g =>
      (List.range 8).flatMap fun i => (g.frags.filter (·.index = i)).map fun f =>
        (gidByte gid i, leBytes f.pc.toNat 8 ++ leBytes f.em.toNat 4)

/-- The bytes of a SYNC packet that lists `es`, empty for a block with no fragment left (R414). -/
def syncPacket (s : State) (kid linear core cycle : Nat) (es : List (Nat × List Byte)) : List Byte :=
  if es = [] then []
  else [BitVec.ofNat 8 0] ++ leBytes cycle 8 ++ leBytes (blockWord s kid linear).toNat 8
    ++ leBytes (vfState s (coreField core)) 4 ++ leBytes (es.length % 256) 1 ++ es.flatMap fun e => leBytes e.1 1 ++ e.2

def State.updTrace (s : State) (ctx : Nat) (f : TraceState → TraceState) : State :=
  s.updCtx ctx fun c => { c with trace := f c.trace }

/-- Appends bytes to the trace ring of a context, or counts the packet as dropped (R415, R405). -/
def tracePut (s : State) (ctx core : Nat) (bytes : List Byte) (now : Nat) (sync : Bool) : State :=
  match s.ctx? ctx with
  | none => s
  | some c =>
    let t := c.trace
    let drop := s.updTrace ctx fun x => { x with dropped := x.dropped + 1, dropping := true, lastCore := core }
    if bytes = [] then s
    else if t.tail - t.head + bytes.length > 2 ^ t.log2b then drop
    else
      match writeRing s core ctx t.base.toNat (2 ^ t.log2b) t.tail bytes with
      | none => drop
      | some s' => s'.updTrace ctx fun x =>
          { x with tail := x.tail + bytes.length, lastCycle := now, lastCore := core, started := true, packets := if sync then 0 else x.packets + 1 }

/-- A SYNC of the traced block with the fragments `es` (R432). -/
def putSync (s : State) (ctx core cycle : Nat) (es : List (Nat × List Byte)) : State :=
  match s.ctx? ctx with
  | some c => tracePut s ctx core (syncPacket s c.trace.kid c.trace.blk core cycle es) cycle true
  | none => s

/-- The next trace packet of a block is a SYNC: a block that is new (R432), or that was halted (R415). -/
def resyncTrace (s : State) (ctx kid linear : Nat) : State :=
  s.updCtx ctx fun c =>
    if c.trace.kid = kid ∧ c.trace.blk = linear then { c with trace := { c.trace with started := false } } else c

/-- The fragments of the traced block at the start of the cycle (R432). -/
def TraceState.startListing (t : TraceState) (s : State) : List (Nat × List Byte) := t.listing.getD (syncEntries s t.kid t.blk)

/-- The core whose field's cycles the trace counts: that of the traced block, if it is not halted; of a block that has ended, the core it
had. -/
def traceCore (s : State) (t : TraceState) : Option Nat :=
  match s.block? t.kid t.blk with
  | some b => if b.debug = .run then some b.core else none
  | none => some t.lastCore

/-- LOSS and then SYNC, once 1 KiB is free in a cycle after a drop (R433). A LOSS that meets a page it cannot write changes nothing, and
is tried again (log 117). -/
def traceResumeOp (s : State) (ctx core : Nat) : State :=
  match s.ctx? ctx with
  | none => s
  | some c =>
    let t := c.trace
    let now := s.cycleOf core
    if t.dropping && decide (t.lastCycle < now) && decide (t.tail - t.head + 1024 ≤ 2 ^ t.log2b) then
      let s1 := tracePut s ctx core (leBytes 0x70 1 ++ leBytes (min t.dropped 0xFFFFFFFF) 4) now false
      if (s1.ctx? ctx).all fun x => x.trace.tail = t.tail then s
      else putSync (s1.updTrace ctx fun x => { x with dropping := false, dropped := 0 }) ctx core now (t.startListing s)
    else s

/-! ## The events of a cycle (R414, R415) -/

/-- The group's fragments of the given indices that an event changes: `pre` is the state before it, `s` the state after it. -/
def entryChanges (pre s : State) (g : Group) (indices : List Nat) : List (Nat × Option (List Byte)) :=
  let entry (x : State) (n : Nat) : Option (List Byte) := ((syncEntries x g.kid g.block).find? fun e => e.1 = n).map (·.2)
  ((indices.map (gidByte g.gid)).filter fun n => entry pre n ≠ entry s n).map fun n => (n, entry s n)

/-- Whether a context's trace follows the block of a group. -/
def TraceState.follows (t : TraceState) (g : Group) : Bool := t.en && t.kid = g.kid && t.blk = g.block

/-- An event of a group enters the trace of its cycle, if that follows the group's block: of the fragment `index`, which changes the
fragments `indices`; `pre` is the state before the event, `s` the state after it. -/
def traceEvent (pre s : State) (g : Group) (index : Nat) (indices : List Nat) (late : Bool) (packet : Option (Nat × List Byte)) (sync : Bool) :
    State :=
  match s.ctx? g.ctx with
  | none => s
  | some c =>
    if c.trace.follows g then
      let e : TraceEvent := ⟨s.cycleOf g.at_.core, ⟨g.at_.core, g.at_.quarter, g.at_.slot, index⟩, late, packet, sync, entryChanges pre s g indices⟩
      s.updTrace g.ctx fun t => { t with queue := t.queue ++ [e], listing := some (t.startListing pre) }
    else s

/-- A packet of a fragment's own event. -/
def traceEmit (pre s : State) (g : Group) (index type : Nat) (payload : List Byte) : State :=
  traceEvent pre s g index [index] false (some (type, payload)) false

/-- A control transfer of the traced block (R414): its BR packet if one is written, with the target's low half when that
follows, and a SYNC when the transfer changes the high half. -/
def traceTransfer (pre s : State) (g : Group) (index : Nat) (indices : List Nat) (packet : Option (Nat × Bool)) (own : DWord)
    (target : Option DWord) : State :=
  let id := leBytes (gidByte g.gid index) 1
  let br := packet.map fun p => (1, match p.2, target with
    | true, some t => id ++ leBytes (p.1 + 2) 1 ++ leBytes (t.toNat % 2 ^ 32) 4
    | _, _ => id ++ leBytes p.1 1)
  let high := target.any fun t => t.toNat / 2 ^ 32 ≠ own.toNat / 2 ^ 32
  if br.isSome || high then traceEvent pre s g index indices false br high else s

/-- A transfer of one fragment. -/
def traceBranch (pre s : State) (g : Group) (index : Nat) (packet : Option (Nat × Bool)) (own : DWord) (target : Option DWord) : State :=
  traceTransfer pre s g index [index] packet own target

/-- A MASK packet after a write to em (R414). -/
def traceMask (pre s : State) (g : Group) (index : Nat) (em : Word) : State :=
  traceEmit pre s g index 2 (leBytes (gidByte g.gid index) 1 ++ leBytes em.toNat 4)

/-- The MASK packets of the fragments that handler entry or TRET gives a group: they follow the BR of the fragment `index` (R414,
log 117). -/
def traceMasks (s : State) (g : Group) (index : Nat) (fs : List Fragment) : State :=
  ((List.range 8).flatMap fun i => fs.filter (·.index = i)).foldl (fun a f =>
    traceEvent a a g index [] false (some (2, leBytes (gidByte g.gid f.index) 1 ++ leBytes f.em.toNat 4)) false) s

/-! ## Packets are written (R414, R415, R432) -/

/-- The order of a cycle's events: quarter, FUSE last, split index, then group slot. -/
def TraceEvent.key (e : TraceEvent) : List Nat := [e.cycle, e.who.quarter, e.late.toNat, e.who.index, e.who.slot]

/-- The lexicographic order of keys. -/
def keyLe : List Nat → List Nat → Bool
  | [], _ => true
  | _ :: _, [] => false
  | a :: x, b :: y => if a = b then keyLe x y else decide (a < b)

/-- Inserts an event before those that come after it; of one place, before. -/
def insertEvent (e : Nat × TraceEvent) : List (Nat × TraceEvent) → List (Nat × TraceEvent)
  | [] => [e]
  | x :: t => if keyLe e.2.key x.2.key then e :: x :: t else x :: insertEvent e t

/-- What a SYNC lists after an event. -/
def applyChanges (es : List (Nat × List Byte)) (cs : List (Nat × Option (List Byte))) : List (Nat × List Byte) :=
  cs.foldl (fun l c =>
    let rest := l.filter fun e => e.1 ≠ c.1
    match c.2 with
    | none => rest
    | some b => (rest.filter fun e => e.1 < c.1) ++ (c.1, b) :: rest.filter fun e => c.1 < e.1) es

def tracing (s : State) (ctx : Nat) : Bool := (s.ctx? ctx).any fun c => !c.trace.dropping

/-- The packet of an event: a SYNC before the first, and in place of a delta above 65,535; it is dropped with a SYNC that is. -/
def putPacket (s : State) (ctx : Nat) (e : TraceEvent) (es : List (Nat × List Byte)) (type : Nat) (payload : List Byte) : State :=
  let core := e.who.core
  let last (x : State) : Nat := (x.ctx? ctx).elim e.cycle (·.trace.lastCycle)
  let s1 := if (s.ctx? ctx).any (·.trace.started) then s else putSync s ctx core e.cycle es
  let s2 := if tracing s1 ctx && decide (65535 < e.cycle - last s1) then putSync s1 ctx core e.cycle es else s1
  if tracing s2 ctx then
    let d := if 65535 < e.cycle - last s2 then 0 else e.cycle - last s2
    let head := if d ≥ 15 then leBytes (type * 16 + 15) 1 ++ leBytes d 2 else leBytes (type * 16 + d) 1
    tracePut s2 ctx core (head ++ payload) e.cycle false
  else s2.updTrace ctx fun t => { t with dropped := t.dropped + 1 }

/-- The events of a cycle with their places in the order in which they came about. -/
def numbered (q : List TraceEvent) : List (Nat × TraceEvent) := (List.range q.length).filterMap fun k => (q[k]?).map fun e => (k, e)

/-- The fragments as they stand after the events of the places `done`, which came about in the order of their places (R432). -/
def listedAfter (start : List (Nat × List Byte)) (q : List (Nat × TraceEvent)) (done : List Nat) : List (Nat × List Byte) :=
  (q.filter fun x => done.contains x.1).foldl (fun es x => applyChanges es x.2.changes) start

/-- One event is written: its packet, and the SYNC that falls due after it. `done` are the places of the events that precede it in the
ring. -/
def writeEvent (ctx : Nat) (start : List (Nat × List Byte)) (q : List (Nat × TraceEvent)) (acc : State × List Nat) (x : Nat × TraceEvent) :
    State × List Nat :=
  let (s, done) := acc
  let (k, e) := x
  let s1 := match e.packet with
    | none => s
    | some (type, payload) =>
      if tracing s ctx then putPacket s ctx e (listedAfter start q done) type payload
      else s.updTrace ctx fun t => { t with dropped := t.dropped + 1 }
  let due := e.sync || (s1.ctx? ctx).any fun c => decide (2 ^ (c.trace.synci + 5) ≤ c.trace.packets)
  (if due && tracing s1 ctx then putSync s1 ctx e.who.core e.cycle (listedAfter start q (k :: done)) else s1, k :: done)

/-- A trace that has dropped packets goes on first, if the ring has the room in this cycle (R433). -/
def resumeFirst (s : State) (ctx : Nat) (t : TraceState) : State :=
  if t.en && t.listing.isSome then (traceCore s t).elim s (traceResumeOp s ctx) else s

/-- The events that a context's trace holds are written in their order. -/
def flushTrace (s : State) (ctx : Nat) : State :=
  match s.ctx? ctx with
  | none => s
  | some c =>
    let start := c.trace.listing.getD []
    let q := numbered c.trace.queue
    let s1 := (resumeFirst s ctx c.trace).updTrace ctx fun t => { t with queue := [], listing := none }
    ((q.foldr insertEvent []).foldl (writeEvent ctx start q) (s1, [])).1

/-- Before the clock goes on by `n`: a trace whose block's field counts on writes the events of the cycle that ends. -/
def flushTraces (s : State) (n : Nat) : State :=
  (s.contexts.filter fun c => c.trace.listing.isSome
    && match c.trace.queue with
      | [] => true
      | e :: _ => decide (s.cycleOf e.who.core < (s.tick n).cycleOf e.who.core)).foldl (fun a c => flushTrace a c.id) s

/-- A cycle's slots are about to issue: the traces note the fragments of their blocks (R432). -/
def openTraces (s : State) : State :=
  (s.contexts.filter (·.trace.en)).foldl (fun a c => a.updTrace c.id fun t => { t with listing := some (t.startListing s) }) s

end Sys2Proof.Machine
end

