-- ==== Sys2Proof/Machine/Ops.lean ====
section
/-! DEFINITION. The shared operations of the machine: the fault queue (R102), the states of a context (R88, R90), parking
and withdrawing (R152, R153), taking a trap and returning from one (R98 to R101, R107), issuing and advancing (R63, R67,
R70, R86). -/

namespace Sys2Proof.Machine

/-! ## The fault queue (R102) -/

/-- The bytes of a fault record. -/
def faultBytes (r : FaultRec) (seq : Nat) : List Byte :=
  leBytes r.addr.toNat 8 ++ leBytes r.pc.toNat 8 ++ leBytes r.cause 1 ++ leBytes r.kind 1 ++ leBytes r.group 2
    ++ leBytes r.core 1 ++ leBytes r.flags 1 ++ leBytes seq 2 ++ leBytes r.block.toNat 8

/-- Writes a record at the tail of a context's fault queue; the vector is raised when the ring was empty. -/
def writeFault (s : State) (c : Context) (q : CtxRec) (r : FaultRec) : State :=
  let k := c.fqtail.toNat
  let s1 := { s with mem := memWrite s (q.fqbase + 32 * (k % q.fqsize)) (faultBytes r c.fqseq.toNat) }
  let s2 := s1.updCtx c.id fun x => { x with fqtail := x.fqtail + 1, fqseq := x.fqseq + 1 }
  if c.fqtail = c.fqhead then { s2 with msix := s2.msix ++ [(c.vf, q.fqvec)] } else s2

/-- A record for a context's fault queue: written when the ring has room and no earlier record waits, else it waits. -/
def pushFault (s : State) (ctx : Nat) (r : FaultRec) : State :=
  match s.ctx? ctx with
  | none => s
  | some c =>
    match c.record with
    | none => s
    | some q =>
      if c.fqwait = [] ∧ (c.fqtail - c.fqhead).toNat < q.fqsize then writeFault s c q r
      else s.updCtx ctx fun x => { x with fqwait := x.fqwait ++ [r] }

/-- The number of a group in a fault record. -/
def groupNumber (g : GroupId) : Nat := g.quarter * 256 + g.slot

/-- A record that names a group. -/
def groupFault (s : State) (g : Group) (kind cause flags : Nat) (addr pc : DWord) : FaultRec :=
  ⟨addr, pc, cause, kind, groupNumber g.at_, g.at_.core, flags, blockWord s g.kid g.block⟩

/-- FLAGS of an access by its kind: 0 read, 1 write, 2 execute (R102). -/
def kindFlags (kind : Nat) : Nat := (if kind = 1 then 1 else 0) + (if kind = 2 then 4 else 0)

/-- A record of kind 1 that names no group (R98), with FLAGS of the access that met the cause, if one did. -/
def engineFault (s : State) (ctx : Nat) (cause : Nat) (addr : DWord) (flags : Nat := 0) : State :=
  pushFault s ctx ⟨addr, 0, cause, 1, 0xFFFF, 0xFF, flags, 0⟩

/-- The causes that an access meets (R7, R261, R306). -/
def accessCause (cause : Nat) : Bool := [5, 9, 0x0A, 0x0B, 0x0D, 0x0F, 0x10].contains cause

/-- The kind of access that an instruction makes: a write as R261 and R292 list them, or a read of a target's bundle (log 105). -/
def accessKind : Instr → Nat
  | .st _ _ _ _ _ | .sst _ _ _ _ _ | .red _ _ _ _ _ | .atomC _ _ _ _ _ | .atomD _ _ _ _ _ | .atomS _ _ _ _ _ | .xchg _ _ _ _ _
  | .cas _ _ _ _ _ | .stl _ _ _ _ _ | .atoml _ _ _ _ _ | .twr _ _ _ | .tzero _ | .bari _ _ | .bariBytes _ | .bara _ _ _ | .barw _ _
  | .bart _ _ _ _ | .barx _ | .amend _ _ _ => 1
  | .bra _ _ _ | .loopb _ _ _ | .jmpi _ | .call _ | .calli _ | .ret | .split _ _ _ | .yield _ | .tret | .stake _ => 2
  | _ => 0

/-- FLAGS of a trap's record (R102): the kind of the access that met the cause, of the instruction that issues (of an illegal
word, the read of a STAKE's record), of a fault that was denied (R296), or of the fetch of a bundle. -/
def trapFlags (s : State) (w : FragId) (cause : Nat) (finfo : DWord) : Nat :=
  if cause = 8 then kindFlags (finfo.toNat % 256)
  else if !accessCause cause then 0
  else
    match s.cur.filter fun i => i.who = w with
    | some i => kindFlags (((decodeWord i.word).toOption).elim 2 accessKind)
    | none => if cause = 9 then kindFlags 2 else 0

/-! ## The status of a context (R88, R90) -/

/-- The status word. -/
def statusWord (c : Context) : DWord :=
  BitVec.ofNat 64 (c.discard * 2 ^ 32 + c.cmdseq.toNat * 2 ^ 16 + c.result * 256 + c.state)

/-- Writes the status word to STATADDR once the context has been bound. -/
def reportStatus (s : State) (ctx : Nat) : State :=
  match s.ctx? ctx with
  | some c =>
    match c.record with
    | some r => { s with hostMem := writeNat s.hostMem r.stataddr 8 (statusWord c).toNat }
    | none => s
  | none => s

def setCtxState (s : State) (ctx st : Nat) : State :=
  reportStatus (s.updCtx ctx fun c => { c with state := st }) ctx

/-! ## Parking and withdrawing (R152, R153) -/

/-- A fragment parks; a load keeps the floor it was issued with (R325). -/
def parkFrag (s : State) (w : FragId) (k : ParkKind) : State :=
  s.updGroup w.group fun g => g.updFrag w.index fun f => { f with park := some k, keptFloor := some (f.keptFloor.getD g.floor) }

/-- A withdrawn fragment that stays parked: its arrival at a barrier or collective stands (R243, R250). Every other parked instruction
issues again. -/
def keepsPark : Option ParkKind → Bool
  | some (.passed _ _ _ true) => true
  | some .blockBarrier => true
  | some (.phase _) => true
  | some (.collStart _) => true
  | some .released => true
  | _ => false

/-- A wake that has completed the parked instruction is latched. -/
def Fragment.complete (f : Fragment) : Bool :=
  match f.latch with
  | some (.goOn _) => true
  | _ => false

/-- The arrival of a BARA.w that waits, which stays counted: its word and generation (R243). -/
def Fragment.counted (f : Fragment) : Option (DWord × Nat) :=
  match f.park with
  | some (.word r gen _ true) => some (r, gen)
  | _ => f.arrived

/-- A withdrawn fragment stands at its slot; one that has arrived with BARA.w waits by BARW when it next runs (R153, R243). -/
def Fragment.withdraw (f : Fragment) : Fragment :=
  if keepsPark f.park || f.complete then f else { f with park := none, keptFloor := none, latch := none, arrived := f.counted }

/-- SYNCL instances lose the arrivals of withdrawn fragments, which issue their SYNCL again. -/
def leaveSyncl (pc : DWord) (acc : Word) (f : Fragment) : Word :=
  match f.park with
  | some (.syncl p em) => if p = pc then acc &&& ~~~em else acc
  | _ => acc

/-- Their lanes outside em are absent no more: the withdrawn SYNCL has not taken effect (R153, R181). -/
def leaveAbsent (pc : DWord) (acc : Word) (f : Fragment) : Word :=
  match f.park with
  | some (.syncl p em) => if p = pc then acc &&& ~~~(lanesOf f.slices &&& ~~~em) else acc
  | _ => acc

/-- An instance without an arrival has no mask; with no absent lane either it is gone. -/
def withdrawSyncl (g : Group) : List SynclInst :=
  (g.syncl.map fun i => if i.failed.isSome then i else
    { i with arrived := g.frags.foldl (leaveSyncl i.pc) i.arrived, absent := g.frags.foldl (leaveAbsent i.pc) i.absent }).filter fun i =>
    i.failed.isSome || i.arrived != 0 || i.absent != 0

/-- The operations on QC of parked queue instructions: withdrawn with them, they count no more (R115, R117, R153). -/
def Group.parkedOps (g : Group) : List Nat := (g.frags.filter (!·.complete)).filterMap fun f =>
  match f.park with
  | some (.queue _ _ _ _ _ op) => some op
  | _ => none

def Group.withdraw (g : Group) : Group :=
  { g with
    syncl := withdrawSyncl g
    ops := g.ops.filter fun o => !(o.counter = 4 && g.parkedOps.contains o.index)
    frags := g.frags.map Fragment.withdraw }

/-- Waiting fragments of which some are to trap, in increasing index: of several of one group the lowest takes its trap, and the
others, withdrawn, stand at their slots (R99). -/
def byIndex (ws : List FragId) : List FragId := (List.range 8).flatMap fun i => ws.filter fun w => w.index = i

/-- The owner of the entry that the chain of an accumulator tile holds (R281). -/
def chainOwner (tile : Nat) : Nat := 2 ^ 40 + tile

/-- Some access that waits for a fault to be resolved, or for its turn to replay (R295, R296). -/
def State.waitsFault (s : State) (p : Waiter → Bool) : Bool :=
  (s.tracker.any fun t => t.waiters.any p) || s.contexts.any fun c => c.replay.any fun r => r.left.any p

/-- A waiter is a fragment of a group. -/
def Waiter.ofGroup (gid : GroupId) : Waiter → Bool
  | .frag w => w.group = gid
  | _ => false

/-- Removes a group's fragments from the waiter lists of queues, the tracker and COLL, and its engine operations that still
wait at issue (R117, R153, R261, R382). -/
def dropWaits (s : State) (gid : GroupId) : State :=
  let other (w : FragId) : Bool := w.group != gid
  { s with
    queues := s.queues.map fun q => { q with enqWait := q.enqWait.filter other, deqWait := q.deqWait.filter other }
    tracker := s.tracker.map fun t => { t with waiters := t.waiters.filter (!·.ofGroup gid) }
    engines := s.engines.filter fun e => e.admitted || e.group != some gid ||
      match e.kind with
      | .coll _ => true
      | _ => false
    blocks := s.blocks.map fun b => { b with coll := b.coll.filter fun a => other a.who } }

def withdrawGroup (s : State) (gid : GroupId) : State := (dropWaits s gid).updGroup gid Group.withdraw

/-! ## Held writes (R321, R323) -/

def overlaps (a n b m : Nat) : Bool := a < b + m && b < a + n

/-- Two locations of one space overlap. -/
def Loc.meets (x : Loc) (n : Nat) (y : Loc) (m : Nat) : Bool :=
  match x, y with
  | .device a, .device b => overlaps a n b m
  | .host a, .host b => overlaps a n b m
  | .remote k a, .remote j b => k = j && overlaps a n b m
  | .tile k a, .tile j b => k = j && overlaps a n b m
  | _, _ => false

/-- The room a held write takes: its data rounded up to 32 bytes, plus 32 (R323). -/
def heldSize (w : Outward) : Nat :=
  let n : Nat := match w with
    | .bytes _ d => d.length
    | .ring _ _ _ => 16
    | .send _ _ _ d => d.length
  (n + 31) / 32 * 32 + 32

/-- A held write of a run covers `n` bytes at a place (R323). -/
def VestEntry.covers (e : VestEntry) (kid : Nat) (loc : Loc) (n : Nat) : Bool :=
  match e.what with
  | .bytes l d => e.kid = kid && !e.released && l.meets d.length loc n
      && decide (l.addr ≤ loc.addr) && decide (loc.addr + n ≤ l.addr + d.length)
  | _ => false

/-- Bytes by offset, in rising order. -/
def insertOff (x : Nat × Byte) : List (Nat × Byte) → List (Nat × Byte)
  | [] => [x]
  | y :: t => if x.1 ≤ y.1 then x :: y :: t else y :: insertOff x t

/-- Runs of consecutive bytes. -/
def byteRuns : List (Nat × Byte) → List (Nat × List Byte)
  | [] => []
  | (o, b) :: t =>
    match byteRuns t with
    | (p, bs) :: rest => if p = o + 1 then (o, b :: bs) :: rest else (o, [b]) :: (p, bs) :: rest
    | [] => [(o, [b])]

/-- The runs of bytes of a combining line: each leaves it as one write (R302). -/
def WcLine.runs (l : WcLine) : List (Nat × List Byte) := byteRuns (l.bytes.foldr insertOff [])

/-- The room that a combining line's held writes will take when it drains. -/
def WcLine.use (l : WcLine) (s : State) (part : Nat) : Nat :=
  match l.out with
  | some o =>
    if o.part = part && o.outgrade ≠ 3 then
      ((l.runs.filter fun r => !s.vest.any (·.covers o.kid (l.loc.add r.1) r.2.length)).map fun r => heldSize (.bytes l.loc r.2)).foldl (· + ·) 0
    else 0
  | none => 0

/-- The bytes that held writes of a partition take, those on their way through a combining buffer among them. -/
def vestUse (s : State) (part : Nat) : Nat :=
  s.wcb.foldl (fun a l => a + l.use s part)
    ((s.vest.filter fun e => e.part = part && !e.released).foldl (fun a e => a + heldSize e.what) 0)

/-- Room for `n` more held bytes of a partition: its guaranteed share first, then the shared pool (R93, R323). -/
def vestRoom (s : State) (part n : Nat) : Bool :=
  let pool := 2 ^ 23 - s.parts.foldl (fun a p => a + p.vmin * 1024) 0
  let overMin (p : PartEntry) (extra : Nat) : Nat := vestUse s p.partid + extra - p.vmin * 1024
  s.parts.foldl (fun a p => a + overMin p (if p.partid = part then n else 0)) 0 ≤ pool

/-- A held send of a run covers `n` bytes of a context of another chip (R323). -/
def VestEntry.coversSend (e : VestEntry) (kid dest dctx : Nat) (dst : DWord) (n : Nat) : Bool :=
  match e.what with
  | .send c x a d => e.kid = kid && !e.released && c = dest && x = dctx
      && decide (a.toNat ≤ dst.toNat) && decide (dst.toNat + n ≤ a.toNat + d.length)
  | _ => false

/-- A run's outward write of `n` bytes can be held: it takes the place of one that covers it, or finds room (R323). -/
def mayHold (s : State) (part n : Nat) (covered : VestEntry → Bool) : Bool :=
  s.vest.any covered || vestRoom s part ((n + 31) / 32 * 32 + 32)

/-! ## Circuits, and engine operations that wait on a peer (R91, R356) -/

def PitchHas (p : Pitch) (port dest : Nat) : Bool := p.ports.testBit port && nth p.peers port 0 % 4096 = dest

/-- The pitch that a partition's circuits use now. -/
def currentPitch (s : State) (part : Nat) : Option Pitch :=
  match (s.link part).mode with
  | .pitch i => s.pitch? i
  | .plan p _ j 1 => s.pitch? (nth p.pitches j 0)
  | _ => none

/-- Whether a circuit to a destination chip is up (R356, R367). -/
def circuitTo (s : State) (part dest : Nat) : Bool :=
  match currentPitch s part with
  | some p => (List.range 16).any fun k => PitchHas p k dest && nth s.ports k .dark == .up
  | none => false

/-- The chips that the circuits of a partition lead to now. -/
def circuitPeers (s : State) (part : Nat) : List Nat :=
  match currentPitch s part with
  | some p => (((List.range 16).filter fun k => p.ports.testBit k && nth s.ports k .dark == .up).map fun k => nth p.peers k 0 % 4096).eraseDups
  | none => []

/-- Chunks of a collective's output on one of `n` chips (R375). -/
def collChunks (r : CollRec) (n : Nat) : Nat :=
  (match r.kind with
  | 1 => r.len / n
  | 2 => r.len * n
  | _ => r.len) / 4096

/-- The ranks whose contributions make up an output chunk (R375). -/
def chunkRanks (r : CollRec) (n k : Nat) : List Nat :=
  match r.kind with
  | 2 => [k / (r.len / 4096)]
  | 3 => [k / (r.len / n / 4096)]
  | _ => List.range n

/-- Ranks that a chunk still lacks. -/
def CollOp.missing (c : CollOp) (k : Nat) : List Nat :=
  (chunkRanks c.rec_ c.n k).filter fun r => !c.contribs.any fun x => x.rank = r && x.chunk = k

/-- A chunk that waits for a contribution. -/
def CollOp.waits (c : CollOp) (k : Nat) : Bool :=
  !c.outDone.contains k && !c.flushed && !(c.results.any fun p => p.chunk = k) && c.missing k ≠ []

/-- Chips along an axis of a partition's mesh (R94, R333). -/
def partExtent (s : State) (part a : Nat) : Nat :=
  match s.part? part with
  | some p => nth [p.nx, p.ny, p.nz] a 1
  | none => 1

/-- An engine operation whose next step needs something from another chip (R91). -/
def waitsOnPeer (s : State) (e : Engine) : Bool :=
  match e.kind with
  | .coll c => (List.range (collChunks c.rec_ c.n)).any c.waits
  | .conv tid _ =>
    match s.tensor? e.part tid with
    | some t => t.pending.any fun c => c.engine = e.id && !c.stepsDone && c.axes.any fun a => partExtent s e.part a ≠ 1
    | none => false
  | .pld tid tile _ _ _ _ q _ =>
    match s.tensor? e.part tid with
    | some t => (t.pending.any fun c => c.sequence = q && !c.arrived.contains tile)
        && t.pending.any fun c => c.engine = 0 || (!c.stepsDone && c.axes.any fun a => partExtent s e.part a ≠ 1)
    | none => false
  | .send _ _ _ _ left dest _ _ _ _ _ _ _ held _ => !held && decide (left > 0) && !circuitTo s e.part dest
  | _ => false

def CopyRec.srcTile (r : CopyRec) : Bool := r.kind = 2 || r.kind = 3
def CopyRec.dstTile (r : CopyRec) : Bool := r.kind = 1 || r.kind = 3

/-- The address of beat `j` of a global side, or its offset from OFF on a tile side. -/
def CopyRec.at_ (r : CopyRec) (tile : Bool) (x : DWord) (j : Nat) : DWord :=
  if tile then BitVec.ofNat 64 (16 * j)
  else x + BitVec.ofNat 64 (j / (r.len / 16) * r.gstride + j % (r.len / 16) * 16)

/-- An engine operation whose next write can never find room in the vestibule: what its own context holds there leaves too little, since
that stays until its runs end (R323, log 115). -/
def waitsRoom (s : State) (e : Engine) : Bool :=
  let alone : State := { s with vest := s.vest.filter fun x => x.ctx = e.ctx, wcb := s.wcb.filter fun l => l.ctx = e.ctx }
  match e.kind with
  | .send _ dst _ len _ dest dctx _ _ _ _ _ _ held _ => held && !mayHold alone e.part len (·.coversSend e.kid dest dctx dst len)
  | .copy recs k j _ outgrade _ =>
    (match recs[k]? with
    | some r =>
      let va := r.at_ false r.dst j
      !r.dstTile && outgrade ≠ 3 && (walk s e.ctx va.toNat).any fun x =>
        x.loc ≠ 0 && !mayHold alone e.part 16 (·.covers e.kid (x.locate va.toNat) 16)
    | none => false)
  | _ => false

/-- An operation that PREEMPT suspends and STOP ends: one that waits on a peer (R91), or for room that its run can never obtain, which it
does until the run is pre-empted or stopped (R323, log 115). Every other operation completes. -/
def heldUp (s : State) (e : Engine) : Bool := waitsOnPeer s e || waitsRoom s e

def releaseLocks (s : State) (owner : Nat) : State := { s with locks := s.locks.filter fun l => l.owner != owner }

/-- A send of a partition to a destination. -/
def Engine.sendsTo (e : Engine) (part dest : Nat) : Bool :=
  e.part = part &&
    match e.kind with
    | .send _ _ _ _ _ d _ _ _ _ _ _ _ _ _ => d = dest
    | _ => false

/-- A send puts no beat on a circuit before a time: what it has missed does not leave at once (R437). -/
def Engine.notBefore (e : Engine) (t : Nat) : Engine :=
  match e.kind with
  | .send src dst global len left d dctx graded grade depth waves land lbar held since =>
    { e with kind := .send src dst global len left d dctx graded grade depth waves land lbar held (max since t) }
  | _ => e

/-- Where a send that is accepted stands in its queue: its partition and destination, while it has flits left (R367). -/
def Engine.queued? (e : Engine) : Option (Nat × Nat) :=
  match e.kind with
  | .send _ _ _ _ left d _ _ _ _ _ _ _ _ _ => if e.admitted && decide (left > 0) then some (e.part, d) else none
  | _ => none

/-- The sends of a queue begin no earlier than now: what they have waited behind a send that ended is not made up for (R437). -/
def queueFrom (s : State) (q : Nat × Nat) : State :=
  { s with engines := s.engines.map fun e => if e.queued? = some q then e.notBefore s.ptpns else e }

/-- Ends an engine operation at once: its entries and resources go, nothing further is written or counted (R91). -/
def endEngine (s : State) (id : Nat) : State :=
  let s1 := (releaseLocks s id).dropEngine id
  ((s.engine? id).bind Engine.queued?).elim s1 (queueFrom s1)

/-- The placement of the present buffer: that of the last conversion complete here. -/
def Tensor.present (t : Tensor) : Word := ((t.commits ++ t.commitAt).getLast?).elim t.committed (·.2)

/-- A stop lets a conversion that needs nothing more from a peer complete; one whose operation has ended is halted, and
those that have not started go (R91, R337). -/
def dropConversions (s : State) (ctx : Nat) : State :=
  let alive (c : Conversion) : Bool := s.engines.any fun e => e.id = c.engine
  { s with tensors := s.tensors.map fun t =>
      if t.ctx = ctx then
        match t.pending with
        | [] => t
        | c :: _ => if alive c then { t with pending := [c], tail := c.target } else { t with state := .failed, pending := [], tail := t.present }
      else t }

/-- A context moves to `stopping` (R90), which is reported together with DONE (R88): its groups halt at instruction boundaries without being saved, and engine
operations that wait on a peer or are suspended end. -/
def stopContext (s : State) (ctx : Nat) : State :=
  match s.ctx? ctx with
  | none => s
  | some c =>
    if c.state = 4 ∨ c.state = 5 ∨ c.state = 6 ∨ c.state = 0 then s
    else
      let s1 := setCtxState (s.updCtx ctx fun x => { x with result := 0 }) ctx 4
      let s2 := (s1.groups.filter fun g => g.ctx = ctx).foldl (fun a g => withdrawGroup a g.at_) s1
      dropConversions ((s2.engines.filter fun e => e.ctx = ctx && (e.suspended || heldUp s2 e)).foldl (fun a e => endEngine a e.id) s2) ctx

/-! ## Taking a trap (R98 to R101) -/

/-- One fragment of every slice that has not exited (R99): no renaming, depth 0, at the handler's entry. -/
def handlerFragment (g : Group) (tvec : DWord) (now : Nat) : Fragment :=
  { index := 0, slices := g.liveSlices, em := g.liveLanes, pc := tvec, rstack := [], meldLeft := 0, meldPath := 0,
    park := none, class4 := false, readyAt := now + 1, readySince := now + 1, fetched := [], inLoop := none, fenced := false,
    keptFloor := none, latch := none, arrived := none, wokeAt := 0, tags := [] }

/-- The tagged slots of a fragment that have issued; the others stay with it. -/
def Fragment.issuedTags (f : Fragment) : List (Nat × Tag) := (f.tags.filter (·.issued)).map fun t => (f.index, t)
def Fragment.keepTags (f : Fragment) : Fragment := { f with tags := f.tags.filter fun t => !t.issued }

/-- The group in its handler (R99): FRAME, the cause registers, H, and one fragment at TVEC. FPC holds the slot after a
TRAP, and the trapping slot for every other cause. -/
def Group.enterHandler (g : Group) (index cause : Nat) (faddr finfo fpc tvec : DWord) (now : Nat) : Group :=
  let g' := g.withdraw
  { g' with
    frame := some ⟨g'.frags.map Fragment.keepTags, index⟩
    loose := g'.loose ++ g'.frags.flatMap Fragment.issuedTags
    fcause := BitVec.ofNat 8 cause
    faddr := faddr
    finfo := finfo
    fpc := fpc
    h := true
    pend := g'.pend.filter fun p =>
      match p.name with
      | .em _ => false
      | _ => true
    frags := [handlerFragment g tvec now] }

/-- The slot that follows a slot of a plain bundle, or of a literal one (R63). -/
def slotAfter (pc : DWord) (lastInBundle : Bool) : DWord :=
  if lastInBundle then BitVec.ofNat 64 (pc.toNat / 16 * 16 + 20) else pc + 4

/-- The slot after `pc`, whose bundle is literal or not. -/
def nextSlot (pc : DWord) (literal : Bool) : DWord :=
  slotAfter pc (pc.toNat % 16 = 12 || (literal && pc.toNat % 16 = 8))

/-- The group's block is halted for inspection, or about to be (R407). -/
def blockHalted (s : State) (g : Group) : Bool := (s.groupBlock? g).any fun b => b.debug != .run

/-- A wake of a halted block is latched: the fragment stays parked (R408). -/
def latchFrag (s : State) (w : FragId) (l : Latch) : State :=
  s.updGroup w.group fun g => g.updFrag w.index fun f => { f with latch := some l }

/-- A block stops for inspection (R407): it starts halting. -/
def haltBlock (s : State) (kid linear why code : Nat) : State :=
  s.updBlock kid linear fun b => { b with debug := .halting why code, haltAt := s.cycleOf b.core }

/-- With TRAPSTOP set a trap halts the block at the faulting slot (R407): FCAUSE, FADDR and FINFO follow, and FPC does not; a block
that is halting already goes on halting. -/
def trapHalt (s : State) (g : Group) (cause : Nat) (faddr finfo : DWord) : State :=
  let s1 := s.updGroup g.at_ fun x => { x with fcause := BitVec.ofNat 8 cause, faddr := faddr, finfo := finfo }
  if blockHalted s g then s1 else haltBlock s1 g.kid g.block 2 cause

/-- The first fixed-latency write of bit or lane `i` of a name that is not yet readable at a cycle (R68, R70); a scalar and em
are written whole. -/
def Group.pending? (g : Group) (now : Nat) (n : RName) (i : Nat) : Option Pend :=
  g.pend.find? fun p => p.name = n && now < p.ready && bitOf p.lanes i

/-- The execution mask a slot reads: never a bit outside the fragment's live slices (R178). -/
def Group.emAt (g : Group) (now : Nat) (f : Fragment) : Word :=
  match g.pending? now (.em f.index) 0 with
  | some p => p.oldW.setWidth 32 &&& lanesOf f.slices
  | none => f.em

/-- The lantern's tag on a slot that traps (R412): one that has not issued takes what the slot is, and one on an instruction that holds
its fragment takes the cause. -/
def Tag.onTrap (t : Tag) (cur : Option Issuer) (f : Fragment) (em : Word) (cause : Nat) (pc : DWord) : Tag :=
  if !t.issued then
    { t with issued := true, pc := pc, word := cur.elim t.word (·.word), em := em, melded := f.meldLeft ≠ 0, cause := cause }
  else if cur.isNone && t.cause = 0 && t.pc = pc then { t with cause := cause } else t

/-- A fragment's tags as it traps. -/
def tagTrap (s : State) (w : FragId) (cause : Nat) (pc : DWord) : State :=
  s.updGroup w.group fun g => g.updFrag w.index fun f =>
    { f with tags := f.tags.map fun t => t.onTrap (s.cur.filter fun i => i.who = w) f (g.emAt (s.cycleOf w.core) f) cause pc }

/-- A trap of a fragment at its slot (R98): the handler's entry at TVEC (R99), or, in handler mode (R101), with a TVEC that
breaks R64 or is not executable (R100), or with TVEC = 0, a fault record and the context in `stopping`. A context with
TRAPSTOP set halts the block at the faulting slot instead (R407). The slot counts no cycle on the scoreboard (log 122). -/
def takeTrap (s0 : State) (w : FragId) (cause : Nat) (faddr finfo fpc pc : DWord) : State :=
  let s := tagTrap s0 w cause pc
  match s.group? w.group with
  | none => s
  | some g =>
    let stopWith (kind : Nat) : State :=
      stopContext (pushFault s g.ctx (groupFault s g kind cause (trapFlags s w cause finfo) faddr pc)) g.ctx
    if g.h then stopWith 3
    else
      match s.ctx? g.ctx with
      | none => s
      | some c =>
        let tvec : DWord := match c.record with
          | some r => r.tvec
          | none => 0
        if tvec = 0 then stopWith 4
        else
          match checkTarget s w.core g.ctx tvec with
          | .ok s1 =>
            if c.trapstop then trapHalt s1 g cause faddr finfo
            else
              let s2 := (dropWaits s1 w.group).setGroup
                (g.enterHandler w.index cause faddr finfo fpc tvec (s1.cycleOf w.core))
              traceMasks (traceTransfer s s2 g w.index (List.range 8) (some (5, true)) pc (some tvec)) g w.index
                [handlerFragment g tvec 0]
          | _ => stopWith 3

/-! ## Translation faults (R294 to R297) -/

/-- Whether the fault tracker has room for one more fault (R295). -/
def trackerRoom (s : State) : Bool := s.tracker.length < 2048

/-- An access of a fragment that met a fault (R295): the first one writes a record of KIND 0, later ones only park on the
tracker's entry. -/
def parkOnFault (s : State) (w : FragId) (ctx : Nat) (va : DWord) (kind : Nat) (faddr : DWord) (lane : Nat) (pc : DWord) :
    State :=
  let page := va.toNat / 65536
  let s1 := parkFrag s w (.fault page kind faddr lane)
  if s1.tracker.any fun t => t.ctx = ctx && t.page = page && t.kind = kind then
    { s1 with tracker := s1.tracker.map fun t =>
        if t.ctx = ctx && t.page = page && t.kind = kind then { t with waiters := t.waiters ++ [.frag w] } else t }
  else if trackerRoom s1 then
    let s2 := { s1 with tracker := s1.tracker ++ [⟨ctx, page, kind, [.frag w]⟩] }
    match s2.group? w.group with
    | some g => pushFault s2 ctx (groupFault s2 g 0 8 (2 + kindFlags kind) va pc)
    | none => s2
  else s1

/-! ## Issuing (R67, R70, R86) -/

/-- FADDR of a trap whose entry states no address (R99): a free value (log 3). -/
def openAddr (s : State) : DWord := BitVec.ofNat 64 (Config.freeNat 30 s.freeCtr)

/-- How an instruction ends without its own effect: a trap at issue (R86) with the address its entry states, if any, a park or hold (R152, R115), or another try in
the next cycle, as on a bank conflict. -/
inductive Stop where
  | trap (cause : Nat) (faddr : Option DWord) (finfo : DWord)
  | park (s : State) (k : ParkKind)
  | fault (va : DWord) (kind : Nat) (faddr : DWord) (lane : Nat)
  | again (s : State)

abbrev Act := Except Stop State

/-- The slot of the issuing fragment, and the one after it. -/
def Iss.pc (c : Iss) : DWord := c.f.pc
def Iss.next (c : Iss) : DWord := nextSlot c.f.pc c.lit.isSome

/-- A scoreboard entry after a slot with stall count `n` (R70): 1 + n cycles fewer, gone at 0. -/
def ageBoard (slices : BitVec 8) (n : Nat) (bs : List Board) : List Board :=
  bs.filterMap fun b =>
    if slices.getLsbD b.slice then (if b.left ≤ 1 + n then none else some { b with left := b.left - (1 + n) }) else some b

/-- Fixed-latency writes that are readable from `now` on drop out (R68). -/
def settlePend (now : Nat) (ps : List Pend) : List Pend := ps.filter fun p => now < p.ready

/-- The lantern's tag takes what the slot was when it issues (R411, R412). -/
def Tag.onIssue (c : Iss) (t : Tag) : Tag :=
  if t.issued then t else { t with issued := true, pc := c.pc, word := c.word, em := c.g.emAt c.now c.f, melded := c.f.meldLeft ≠ 0 }

/-- The fragment after it has issued its slot and goes on at `pc` (R67). -/
def Fragment.after (f : Fragment) (c : Iss) (pc : DWord) : Fragment :=
  { f with
    pc := pc, readyAt := c.now + 1 + c.stall, readySince := c.now + 1 + c.stall, class4 := false,
    meldLeft := f.meldLeft - 1, park := none, keptFloor := none, arrived := none, tags := f.tags.map (Tag.onIssue c) }

/-- The group after the issuing fragment's slot (R67, R70). -/
def Group.after (g : Group) (c : Iss) (pc : DWord) : Group :=
  { g with
    board := ageBoard c.f.slices c.stall g.board
    pend := settlePend c.now g.pend
    frags := g.frags.map fun f => if f.index = c.who.index then f.after c pc else f }

/-- The instruction has its effect: the group becomes `g` and the fragment continues at the next slot. -/
def finish (s : State) (c : Iss) (g : Group) : State := s.setGroup (g.after c c.next)

/-- As `finish`, with the fragment going on at another slot. -/
def finishAt (s : State) (c : Iss) (g : Group) (pc : DWord) : State := s.setGroup (g.after c pc)

/-- The instruction has issued and holds its fragment, which stays at its slot until the wait ends (R115, R181). -/
def holdAt (s : State) (c : Iss) (g : Group) (k : ParkKind) : State :=
  s.setGroup { g.after c c.pc with
    frags := g.frags.map fun f => if f.index = c.who.index then { f.after c c.pc with meldLeft := f.meldLeft, park := some k } else f }

/-- A wait that counts as parking (R152, R181); a hold that its unit answers, and a WAIT, do not. -/
def ParkKind.parks : ParkKind → Bool
  | .counter _ _ _ => false
  | .drain => false
  | .engine _ => false
  | .change => false
  | .copies _ _ => false
  | .collStart _ => false
  | _ => true

/-- The cycle in which a wake at `now` takes effect (R152). -/
def Fragment.wakes (f : Fragment) (now : Nat) : Nat := if f.park.any (·.parks) then now + 1 else f.wokeAt

/-- A held fragment goes on: its instruction is done (R152). The next slot issues no earlier than the next cycle. -/
def Fragment.resume (f : Fragment) (pc : DWord) (now : Nat) : Fragment :=
  { f with
    pc := pc, park := none, keptFloor := none, latch := none, arrived := none, wokeAt := f.wakes now, meldLeft := f.meldLeft - 1, readyAt := max f.readyAt (now + 1), readySince := max f.readyAt (now + 1) }

/-- What the issue of a slot comes to. -/
def settle (s : State) (c : Iss) (r : Act) : State :=
  match r with
  | .ok s' => s'
  | .error (.trap cause (some faddr) finfo) => takeTrap s c.who cause faddr finfo c.pc c.pc
  | .error (.trap cause none finfo) => takeTrap s.fresh c.who cause (openAddr s) finfo c.pc c.pc
  | .error (.park s' k) => parkFrag s' c.who k
  | .error (.fault va kind faddr lane) => parkOnFault s c.who c.g.ctx va kind faddr lane c.pc
  | .error (.again s') => s'.updGroup c.who.group fun g => g.updFrag c.who.index fun f => { f with readyAt := c.now + 1 }

/-- The meaning of an encoded instruction: `body` acts for the issuing fragment. -/
def runIssue (s : State) (body : Iss → Act) : Host.Outcome State Fault Refusal :=
  match s.issuer? with
  | none => .fault .noIssuer
  | some c => .next (settle s c (body c))

/-- Traps with a cause and no detail. -/
def trapWith {α : Type} (cause : Nat) (faddr : Option DWord := none) (finfo : DWord := 0) : Except Stop α :=
  .error (.trap cause faddr finfo)

/-- Fails with a trap unless the condition holds. -/
def need (b : Bool) (cause : Nat) (faddr : Option DWord := none) (finfo : DWord := 0) : Except Stop Unit :=
  if b then .ok () else trapWith cause faddr finfo

/-- A rewind blocker (R159): the group holds no valid stake until its next STAKE. -/
def Group.blockStake (g : Group) : Group := { g with stake := { g.stake with valid := false } }

/-- The issuing group with its rewind blocked, though the instruction still waits for its unit (R159). -/
def blockRewind (s : State) (c : Iss) : State := s.updGroup c.who.group Group.blockStake

/-! ## Returning from the handler (R107) -/

/-- TRET: split table, em, melded state and call depths return from FRAME, and the trapped fragment goes on at FPC. -/
def Group.leaveHandler (g : Group) (c : Iss) (fr : Frame) : Group :=
  { g with
    h := false
    frame := none
    loose := g.loose ++ g.frags.flatMap fun f => (f.after c c.pc).issuedTags
    board := ageBoard c.f.slices c.stall g.board
    pend := g.pend.filter fun p =>
      match p.name with
      | .em _ => false
      | _ => true
    frags := fr.frags.map fun f =>
      if f.index = fr.trapped then
        { f with pc := g.fpc, readyAt := c.now + 1 + c.stall, readySince := c.now + 1 + c.stall, arrived := if g.fpc = f.pc then f.arrived else none }
      else { f with readyAt := max f.readyAt (c.now + 1) } }

end Sys2Proof.Machine
end

