-- ==== Sys2Proof/Machine/Operands.lean ====
section
/-! DEFINITION. Operands: names after renaming (R186, R188), the values a slot reads (R68, R70, R156), the checks before an
instruction's effect (R66, R81, R86, R154), writes of registers, masks and em (R155, R178, R179), last reads (R74, R155),
and the counted operations of a group (R169). -/

namespace Sys2Proof.Machine

/-! ## Values -/

/-- A lane register's newest value; an unallocated name reads 0 (R156). -/
def Group.vNew (g : Group) (n : Nat) : Lanes :=
  match g.vregs.find? fun p => p.1 = n with
  | some p => p.2
  | none => Lanes.zero

/-- What a slot that issues at cycle `now` reads from lane `i` of a lane register: a write that does not cover the lane hides
nothing of it. -/
def Group.vAt (g : Group) (now n i : Nat) : Word :=
  match g.pending? now (.v n) i with
  | some p => p.oldV.get i
  | none => (g.vNew n).get i

def Group.sNew (g : Group) (n : Nat) : DWord := g.sregs.toList.getD n 0
def Group.mNew (g : Group) (n : Nat) : Word := g.mregs.toList.getD n 0

def Group.sAt (g : Group) (now n : Nat) : DWord :=
  match g.pending? now (.s n) 0 with
  | some p => p.oldW
  | none => g.sNew n

/-- What a slot reads from a mask: each bit by the writes that cover it (R68, R179). -/
def Group.mAt (g : Group) (now n : Nat) : Word :=
  if g.pend.any fun p => p.name = .m n then
    maskOf fun i =>
      match g.pending? now (.m n) i with
      | some p => bitOf (p.oldW.setWidth 32) i
      | none => bitOf (g.mNew n) i
  else g.mNew n

def Group.allocated (g : Group) (n : Nat) : Bool := g.vregs.any fun p => p.1 = n

/-- The lane names a group may use (R154). -/
def Group.mayName (g : Group) (n : Nat) : Bool := n + 5 ≤ g.regs || (124 ≤ n && n ≤ 127)

namespace Iss

def em (c : Iss) : Word := c.g.emAt c.now c.f
/-- The lanes of the issuing fragment. -/
def lanes (c : Iss) : Word := lanesOf c.f.slices
def melded (c : Iss) : Bool := c.f.meldLeft ≠ 0

/-- The name that lane-register field `x` stands for in lane `i` (R188). -/
def rename (c : Iss) (x i : Nat) : Nat :=
  if c.melded && decide (x < 64) then
    ((if bitOf c.f.meldPath i then c.g.t1 else c.g.t0).toList.getD x 0).toNat
  else x

/-- The distinct names that field `x` stands for in lanes `m`. -/
def namesIn (c : Iss) (m : Word) (x : Nat) : List Nat :=
  if c.melded && decide (x < 64) then (((List.range 32).filter fun i => bitOf m i).map (c.rename x)).eraseDups else [x]

/-- The names of the lanes in em. -/
def names (c : Iss) (x : Nat) : List Nat := c.namesIn c.em x

/-- The names that a destination stands for, whatever em holds (R159). -/
def destNames (c : Iss) (x : Nat) : List Nat := c.namesIn (if c.em = 0 then lanesOf c.f.slices else c.em) x

/-- Lane `i` of field `x`, and of the register `k` names after it. -/
def v (c : Iss) (x i : Nat) (k : Nat := 0) : Word := c.g.vAt c.now (c.rename x i + k) i

/-- A register pair's value in lane `i` (R194). -/
def v64 (c : Iss) (x i : Nat) : DWord := c.v x i 1 ++ c.v x i

/-- Lane `j` of the name that field `x` gives in lane `i` (R203). -/
def vFrom (c : Iss) (x i j : Nat) : Word := c.g.vAt c.now (c.rename x i) j

def sv (c : Iss) (n : Nat) : DWord := c.g.sAt c.now n
def mv (c : Iss) (n : Nat) : Word := c.g.mAt c.now n

/-- Operand b of a lane instruction, as a word and as a pair (R66). -/
def bv (c : Iss) (x i : Nat) : Word :=
  match c.lit with
  | some l => l
  | none => c.v x i
def bv64 (c : Iss) (x i : Nat) : DWord :=
  match c.lit with
  | some l => l.signExtend 64
  | none => c.v64 x i

/-- Operand b of a uniform consumer (R66). -/
def bs (c : Iss) (n : Nat) : DWord :=
  match c.lit with
  | some l => l.signExtend 64
  | none => c.sv n

end Iss

/-! ## Operand descriptions -/

/-- A lane-register operand: its field, how many registers it names, and the field's place (0 a, 1 b, 2 d). -/
structure VOp where
  reg : Nat
  width : Nat
  place : Nat
  deriving DecidableEq, Repr

def VOp.a (r : BitVec 7) : VOp := ⟨r.toNat, 1, 0⟩
def VOp.b (r : BitVec 7) : VOp := ⟨r.toNat, 1, 1⟩
def VOp.d (r : BitVec 7) : VOp := ⟨r.toNat, 1, 2⟩

/-- What an instruction reads and writes, for the checks of R86. -/
structure Uses where
  /-- Lane registers read, in the order a, b, d, and written. -/
  vr : List VOp
  vw : List VOp
  /-- Scalars, masks and em read and written. -/
  nr : List RName
  nw : List RName
  /-- Lanes in which lane registers are read, and written. -/
  rl : Word
  wl : Word
  /-- Operand a is read from any lane of the fragment (R203). -/
  cross : Bool := false
  deriving DecidableEq, Repr

/-- Slices with a lane in a mask. -/
def slicesOf (m : Word) : BitVec 8 := BitVec.ofNat 8 ((List.range 8).foldl (fun acc k =>
  acc + (if m &&& lanesOf (1#8 <<< k) = 0 then 0 else 2 ^ k)) 0)

/-- Every lane-register operand names registers the group may name, a pair starts at an even name and a quad at a multiple
of four; in a melded region the names after renaming are checked, and a quad's field as well (R81, R154, R188, R229). -/
def Iss.legalOp (c : Iss) (o : VOp) : Bool :=
  (o.width != 4 || o.reg % 4 = 0) && (c.names o.reg).all fun m => m % o.width = 0 && (List.range o.width).all fun j => c.g.mayName (m + j)

/-- A field that a melded region renames (R188). -/
def Iss.renames (c : Iss) (x : Nat) : Bool := c.melded && decide (x < 64)

/-- The lanes that the scoreboard tracks for an access to lanes `m`: whole slices, or the lanes of a renamed name (R70, R188). -/
def Iss.tracked (c : Iss) (x n : Nat) (m : Word) : Word :=
  if c.renames x then m &&& maskOf fun i => c.rename x i = n else lanesOf (slicesOf m)

/-- The names an operand stands for, each with the lanes in which it is used; an operand that is read across lanes may be read in
every lane of the fragment, whatever that lane's own table names. The operand that gives the other lanes' values at an edge counts in the
lanes of em (log 136). -/
def Iss.nameLanes (c : Iss) (cross : Bool) (o : VOp) (m : Word) : List (RName × Word) :=
  (c.names o.reg).flatMap fun n => (List.range o.width).map fun j =>
    (.v (n + j), if cross && decide (o.place = 0) then (if m = 0 then 0 else c.lanes) else c.tracked o.reg n m)

/-- A name with a variable-latency write that no WAIT covers (R70). -/
def Group.isUncovered (g : Group) (n : RName) (m : Word) : Bool := g.uncovered.any fun u => u.name = n && u.lanes &&& m != 0

/-- A name whose fixed-latency write is not yet readable, as the program states its cycles (R70). -/
def Group.isEarly (g : Group) (n : RName) (m : Word) : Bool :=
  g.board.any fun b => b.name = n && b.lanes &&& m != 0 && 0 < b.left

/-- The scoreboard finds an undersized stall (R70): cause 0x03. What a lane of another fragment holds is read as it stands (R215). -/
def Iss.hazard (c : Iss) (u : Uses) : Bool :=
  let rs := u.vr.flatMap (fun o => c.nameLanes u.cross o u.rl) ++ u.nr.map fun n => (n, c.lanes)
  let ws := u.vw.flatMap (fun o => c.nameLanes false o u.wl) ++ u.nw.map fun n => (n, c.lanes)
  rs.any (fun p => c.g.isEarly p.1 (p.2 &&& c.lanes) || c.g.isUncovered p.1 (p.2 &&& c.lanes)) || ws.any fun p => c.g.isUncovered p.1 p.2

/-- The first unallocated lane name that is read, if any lane is read, in the order of the operands and, in a melded region, of the lanes
(R156, log 135). -/
def Iss.unallocated? (c : Iss) (u : Uses) : Option Nat :=
  if u.rl = 0 then none
  else
    (u.vr.flatMap fun o => (c.names o.reg).flatMap fun n => (List.range o.width).map (n + ·)).find? fun n =>
      !c.g.allocated n

/-! ## Literal consumers (R66) -/

/-- The b field of a literal consumer. -/
def consumedB : Instr → Option Nat
  | .iadd _ _ _ b | .isub _ _ _ b | .imul _ _ _ b | .imad _ _ _ b | .imin _ _ _ b | .imax _ _ _ b => some b.toNat
  | .and _ _ b | .or _ _ b | .xor _ _ b | .andn _ _ b | .shl _ _ b => some b.toNat
  | .shr _ _ _ b | .rot _ _ _ b | .bfx _ _ _ b => some b.toNat
  | .bfi _ _ b => some b.toNat
  | .icmp _ _ _ b | .icmpu _ _ _ b | .sel _ _ _ b => some b.toNat
  | .iadd64 _ _ b => some b.toNat
  | .imulw _ _ _ b | .idot4 _ _ _ b | .permb _ _ _ b | .balign _ _ _ b => some b.toNat
  | .shfl _ _ b => some b.toNat
  | .shup _ _ _ b | .shdn _ _ _ b => some b.toNat
  | .shflx _ _ b | .bcst _ _ b | .bsel _ _ b => some b.toNat
  | .fadd _ _ _ b | .fsub _ _ _ b | .fmul _ _ _ b | .ffma _ _ _ b => some b.toNat
  | .fmin _ _ b | .fmax _ _ b => some b.toNat
  | .fsgn _ _ _ b | .fcmp _ _ _ b => some b.toNat
  | .fclass _ _ b => some b.toNat
  | .fdiv _ _ _ b | .hadd2 _ _ _ b | .hmul2 _ _ _ b | .hfma2 _ _ _ b | .fscl _ _ _ b => some b.toNat
  | .sadd _ _ _ b | .ssub _ _ _ b | .smulh _ _ _ b | .sshr _ _ _ b | .smin _ _ _ b | .smax _ _ _ b | .scmp _ _ _ b
  | .sbfx _ _ _ b => some b.toNat
  | .smul _ _ b | .sand _ _ b | .sor _ _ b | .sxor _ _ b | .sshl _ _ b | .ssel _ _ b => some b.toNat
  | _ => none

/-- The placing rules of R66 for an instruction whose slot has, or lacks, the bundle's literal. -/
def literalOk (i : Instr) (lit : Bool) : Bool :=
  match i with
  | .movl _ => lit
  | .smovl _ => lit
  | i =>
    match consumedB i with
    | some b => !lit || b = 0
    | none => !lit

/-! ## The checks before an effect (R86) -/

/-- Items 3 to 5 of R86: illegal (0x01), undersized stall (0x03), unallocated read (0x04). A uniform instruction other
than NOP is illegal in a melded region (R188). For an entry that says so: FADDR of cause 0x01, the entry's own cases of 0x01 that
rest on values, and FINFO of cause 0x04. -/
def Iss.prepWith (c : Iss) (i : Instr) (uni : Bool) (u : Uses) (faddr : Option DWord) (own : Except Stop Unit) (info : DWord) :
    Except Stop Unit := do
  need (i.wellFormed && literalOk i c.lit.isSome && !(uni && c.melded)) 1 faddr
  need ((u.vr ++ u.vw).all c.legalOp) 1 faddr
  own
  need (!c.g.chk || !c.hazard u) 3
  match c.g.chk, c.unallocated? u with
  | true, some n => trapWith 4 (BitVec.ofNat 64 n) info
  | _, _ => .ok ()

/-- The checks of an entry with cases of 0x01 of its own, which are items of R86 before an undersized stall (log 113). -/
def Iss.prepOwn (c : Iss) (i : Instr) (uni : Bool) (u : Uses) (own : Except Stop Unit) : Except Stop Unit := c.prepWith i uni u none own 0

/-- The checks of an entry that adds nothing to them. -/
def Iss.prep (c : Iss) (i : Instr) (uni : Bool) (u : Uses) : Except Stop Unit := c.prepWith i uni u none (.ok ()) 0

/-! ## Writing registers -/

/-- A destination name is a LIVEV name or a PINS scalar (R159): the write blocks a rewind, whatever em holds. A uniform instruction whose
destination is a lane register (VBCST, SRD, TRD) blocks as a lane instruction does; a WRLANE on a lane outside em does nothing (R212,
log 94). -/
def Group.blockV (g : Group) (ns : List Nat) : Group :=
  if g.stake.valid && ns.any fun n => n < 64 && g.stake.livev.getLsbD n then g.blockStake else g
def Group.blockS (g : Group) (n : Nat) : Group :=
  if g.stake.valid && g.stake.pins.getLsbD n then g.blockStake else g

/-- Scoreboard entries of a write in lanes `m`, one for each slice. -/
def newBoards (n : RName) (m : Word) (lat : Nat) : List Board :=
  ((List.range 8).filter fun k => (slicesOf m).getLsbD k).map fun k => ⟨n, k, m &&& lanesOf (1#8 <<< k), lat⟩

/-- Sets the newest value of a lane register, allocating its name (R155). -/
def Group.setV (g : Group) (n : Nat) (v : Lanes) : Group :=
  { g with vregs := upsert g.vregs (fun p => p.1 = n) (n, v), deferred := g.deferred.filter (· != n) }

/-- A later write of some lanes of a name, readable from `ready` on, is the one read there from then on: writes of one name land
in issue order (R68, R70). -/
def overtake (n : RName) (m : Word) (ready : Nat) (ps : List Pend) : List Pend :=
  ps.flatMap fun p =>
    if p.name = n && decide (ready < p.ready) && p.lanes &&& m != 0 then
      (if p.lanes &&& ~~~m = 0 then [] else [{ p with lanes := p.lanes &&& ~~~m }]) ++ [{ p with lanes := p.lanes &&& m, ready := ready }]
    else [p]

/-- A fixed-latency write enters the writes that are not yet readable. -/
def Group.addPend (g : Group) (p : Pend) : Group := { g with pend := overtake p.name p.lanes p.ready g.pend ++ [p] }

/-- A fixed-latency write of lanes `m` of register `n` at cycle `now`, which the scoreboard tracks in lanes `track` (R68, R155).
A write that covers no lane writes nothing (R216). -/
def Group.putV (g : Group) (now lat n : Nat) (m track : Word) (f : Nat → Word) : Group :=
  if m = 0 then g
  else
    let old := g.vNew n
    let g1 := g.setV n (Lanes.of fun i => if bitOf m i then f i else old.get i)
    { g1.addPend ⟨.v n, m, old, 0, now + lat, false⟩ with board := g1.board ++ newBoards (.v n) track lat }

/-- Writes register `k` after field `x`, in the lanes of `m` and under renaming (R188). -/
def Group.writeV (g : Group) (c : Iss) (lat x k : Nat) (m : Word) (f : Nat → Word) : Group :=
  (c.names x).foldl (fun g n => g.putV c.now lat (n + k)
    (if c.renames x then m &&& maskOf fun i => c.rename x i = n else m) (c.tracked x n m) f) (g.blockV ((c.destNames x).map (· + k)))

/-- The operation of a fragment that is parked on a queue (R115). -/
def Fragment.queueOp? (f : Fragment) : Option Nat :=
  match f.park with
  | some (.queue _ _ _ _ _ op) => some op
  | _ => none

/-- An operation that writes scalar `n` is not one of the fragment of slices `sl`. -/
def Group.othersOp (g : Group) (sl : BitVec 8) (n : Nat) (o : OutOp) : Bool :=
  (g.uncovered.any fun u => u.name = .s n && u.counter = o.counter && u.index = o.index && u.slices &&& sl = 0)
    || o.counter = 4 && g.frags.any fun f => f.queueOp? = some o.index && f.slices &&& sl = 0

/-- A write of scalar `n` by the fragment of slices `sl` wins over an earlier one of another fragment that is still to land
(R179): an operation whose unit is still to answer holds its scalars in `lands` for that. -/
def Group.overrule (g : Group) (sl : BitVec 8) (n : Nat) : Group :=
  let other (o : OutOp) : Bool := g.othersOp sl n o
  { g with ops := g.ops.map fun o =>
      if other o then { o with lands := o.lands.filter fun l =>
        match l with
        | .lane _ _ _ => true
        | .scalar k _ => k != n } else o }

/-- A fixed-latency write of a scalar (R179, R209). -/
def Group.writeS (g : Group) (c : Iss) (lat n : Nat) (x : DWord) : Group :=
  let g1 := (g.blockS n).overrule c.f.slices n
  { g1.addPend ⟨.s n, BitVec.allOnes 32, Lanes.zero, g1.sNew n, c.now + lat, false⟩ with
    sregs := g1.sregs.setIfInBounds n x
    board := g1.board ++ newBoards (.s n) c.lanes lat }

/-- A write of a mask in the issuing fragment's lanes (R179). -/
def Group.writeM (g : Group) (c : Iss) (lat n : Nat) (x : Word) : Group :=
  let old := g.mNew n
  { g.addPend ⟨.m n, c.lanes, Lanes.zero, old.setWidth 64, c.now + lat, false⟩ with
    mregs := g.mregs.setIfInBounds n ((old &&& ~~~c.lanes) ||| (x &&& c.lanes))
    board := g.board ++ newBoards (.m n) c.lanes lat }

/-- A lane comparison's write of a mask: with em = 0 it writes nothing (R216). -/
def Group.writeCmp (g : Group) (c : Iss) (lat n : Nat) (x : Word) : Group := if c.em = 0 then g else g.writeM c lat n x

/-- A write of em, with latency 2 (R178). -/
def Group.writeEm (g : Group) (c : Iss) (x : Word) : Group :=
  { g.updFrag c.who.index fun f => { f with em := x &&& c.lanes } with
    pend := g.pend ++ [⟨.em c.who.index, BitVec.allOnes 32, Lanes.zero, c.f.em.setWidth 64, c.now + 2, false⟩]
    board := g.board ++ newBoards (.em c.who.index) c.lanes 2 }

/-! ## Last reads (R74, R155) -/

/-- A name past every register that a landing of the group names. -/
def Group.deadName (g : Group) : Nat :=
  (g.ops.flatMap (·.lands)).foldl (fun k l =>
    match l with
    | .lane m _ _ => max k (m + 1)
    | .scalar _ _ => k) 128

/-- Releases a name; a variable-latency write to it lands in a register that no name reaches, and that stays reserved until then
(R155, R165, R166, R177). -/
def Group.release (g : Group) (n : Nat) : Group :=
  { g with
    vregs := g.vregs.filter fun p => p.1 != n
    pend := g.pend.filter fun p => p.name != .v n
    ops := g.ops.map fun o => { o with lands := o.lands.map fun l =>
      match l with
      | .lane m i x => if m = n then .lane g.deadName i x else .lane m i x
      | .scalar k x => .scalar k x } }

/-- One last-read mark: at once in a converged group, deferred in a split one, ignored for v124 to v127. -/
def Group.lastRead (g : Group) (n : Nat) : Group :=
  if 124 ≤ n then g
  else if g.frags.length = 1 then g.release n
  else { g with deferred := n :: g.deferred.filter (· != n) }

/-- Whether the slot's control byte marks the last read of an operand. -/
def Iss.marks (c : Iss) (o : VOp) : Bool :=
  match o.place with
  | 0 => c.la
  | 1 => c.lb
  | 2 => c.ld
  | _ => false

/-- Applies the slot's last-read marks on the lane registers it reads; LD acts only where d is not written. -/
def Group.lastReads (g : Group) (c : Iss) (u : Uses) : Group :=
  if c.melded then g
  else
    ((u.vr.filter fun o => c.marks o && !(o.place = 2 && u.vw.any fun w => w.place = 2)).flatMap fun o =>
      (List.range o.width).map (o.reg + ·)).foldl Group.lastRead g

/-- The fusion that leaves one fragment applies the deferred records (R155, R183). -/
def Group.applyDeferred (g : Group) : Group := { g.deferred.foldl Group.release g with deferred := [] }

/-! ## Counted operations (R169) -/

def Group.level (g : Group) (ctr : Nat) : Nat := (g.ops.filter fun o => o.counter = ctr).length

/-- Operations that are done and have none before them on the same counter leave (R169): each counter falls in order. -/
def pruneAux : List Nat → List OutOp → List OutOp
  | _, [] => []
  | held, o :: t =>
    if o.done && !held.contains o.counter then pruneAux held t
    else o :: pruneAux (if o.done then held else o.counter :: held) t

def Group.prune (g : Group) : Group := { g with ops := pruneAux [] g.ops }

/-- The index the next operation on a counter takes. -/
def Group.nextIndex (g : Group) (ctr : Nat) : Nat := g.issued.getD ctr 0 + 1

/-- The operation with an index on a counter is done, and the counter may fall (R169). -/
def Group.completeOp (g : Group) (ctr index : Nat) : Group :=
  ({ g with ops := g.ops.map fun o => if o.counter = ctr && o.index = index then { o with done := true } else o } : Group).prune

/-- Raises a counter by one operation. -/
def Group.addOp (g : Group) (op : OutOp) : Group :=
  { g with
    issued := g.issued.set op.counter (g.issued.getD op.counter 0 + 1)
    ops := g.ops ++ [{ op with index := g.nextIndex op.counter }] }

/-- A plain operation. -/
def OutOp.mk' (counter seq : Nat) : OutOp :=
  { counter, index := 0, seq, lands := [], stores := [], read := none, combining := [], release := false, external := false, done := false }

/-- An instruction that would raise a counter above 255 waits (R169). -/
def Iss.room (c : Iss) (s : State) (ctr : Nat) : Except Stop Unit :=
  if c.g.level ctr < 255 then .ok () else .error (.again s)

/-- A name is variable-latency written, in lanes that the scoreboard tracks, by the operation about to be added on `ctr` (R70). -/
def Group.uncover (g : Group) (n : RName) (m : Word) (ctr : Nat) : Group :=
  { g with uncovered := g.uncovered ++ [⟨n, slicesOf m, m, ctr, g.nextIndex ctr⟩] }

/-- Allocates the names of a variable-latency destination at issue (R155) and marks them uncovered; `m` are the lanes. -/
def Group.openV (g : Group) (c : Iss) (ctr x k : Nat) (m : Word) : Group :=
  (c.names x).foldl (fun g n =>
    let mm := if c.renames x then m &&& maskOf fun i => c.rename x i = n else m
    if mm = 0 then g else (g.setV (n + k) (g.vNew (n + k))).uncover (.v (n + k)) (c.tracked x n m) ctr)
    (g.blockV ((c.destNames x).map (· + k)))

/-- What lands in register `k` after field `x`. -/
def Iss.landings (c : Iss) (x k : Nat) (m : Word) (f : Nat → Word) : List Landing :=
  ((List.range 32).filter fun i => bitOf m i).map fun i => .lane (c.rename x i + k) i (f i)

/-- A variable-latency scalar destination; the fixed-latency writes that are on their way are earlier ones. -/
def Group.openS (g : Group) (c : Iss) (ctr n : Nat) : Group :=
  let g1 := (g.blockS n).overrule c.f.slices n
  ({ g1 with pend := g1.pend.map fun p => if p.name = .s n then { p with yields := true } else p } : Group).uncover (.s n) c.lanes ctr

/-- Changes the first element that a test selects. -/
def mapFirst {α : Type} (p : α → Bool) (f : α → α) : List α → List α
  | [] => []
  | x :: t => if p x then f x :: t else x :: mapFirst p f t

/-- A fixed-latency write of bit or lane `i` of a name that is not yet readable. -/
def Pend.waits (p : Pend) (now : Nat) (n : RName) (i : Nat) : Bool := p.name = n && decide (now < p.ready) && bitOf p.lanes i

/-- A lane of a variable-latency result lands (R70): what a slot reads is what lands last, so a fixed-latency write that is still to
land stays the later one, and each hides what landed before it; also where the variable-latency write was issued after the fixed one
(log 139). -/
def Group.landLane (g : Group) (now n i : Nat) (x : Word) : Group :=
  if g.allocated n then
    let put (v : Lanes) : Lanes := Lanes.of fun j => if j = i then x else v.get j
    if g.pend.any (·.waits now (.v n) i) then
      { g with pend := mapFirst (·.waits now (.v n) i) (fun p => { p with oldV := put p.oldV }) g.pend }
    else { g with vregs := g.vregs.map fun p => if p.1 = n then (n, put p.2) else p }
  else g

/-- A variable-latency scalar lands: it wins over the fixed-latency writes that have issued before it (R179). -/
def Group.landScalar (g : Group) (now n : Nat) (x : DWord) : Group :=
  let ps := g.pend.filter fun p => !(p.name = .s n && p.yields)
  if ps.any (·.waits now (.s n) 0) then { g with pend := mapFirst (·.waits now (.s n) 0) (fun p => { p with oldW := x }) ps }
  else { g with sregs := g.sregs.setIfInBounds n x, pend := ps }

def Group.land (now : Nat) (g : Group) : Landing → Group
  | .lane n i x => g.landLane now n i x
  | .scalar n x => g.landScalar now n x

/-- Whether a landing waits for one of the lanes in a mask; a scalar waits for none. -/
def Landing.inLanes (m : Word) : Landing → Bool
  | .lane _ i _ => bitOf m i
  | .scalar _ _ => true

/-- Lands the lanes `m` of an operation; with nothing left to land it is done, and its counter may fall (R169). -/
def Group.landOp (g : Group) (now ctr index : Nat) (m : Word) : Group :=
  match g.ops.find? fun o => o.counter = ctr && o.index = index && !o.done && !o.external with
  | none => g
  | some o =>
    let (here, left) := o.lands.partition (Landing.inLanes m)
    let g1 := here.foldl (Group.land now) g
    let o' := { o with lands := left, done := left.isEmpty && o.stores.isEmpty && o.combining.isEmpty }
    ({ g1 with ops := g1.ops.map fun x => if x.counter = ctr && x.index = index then o' else x } : Group).prune

end Sys2Proof.Machine
end

