-- ==== Sys2Proof/Machine/Groups.lean ====
section
/-! DEFINITION. A group at allocation (R127, R148, R180). -/

namespace Sys2Proof.Machine

/-- The renaming table that maps every name to itself (R186). -/
def identityTable : Vector (BitVec 6) 64 := ⟨⟨(List.range 64).map fun i => BitVec.ofNat 6 i⟩, by simp⟩

/-- Entry 0 of the split table at allocation (R180). -/
def Fragment.initial (pc : DWord) (now : Nat) : Fragment :=
  { index := 0, slices := 0xFF, em := 0xFFFFFFFF, pc := pc, rstack := [], meldLeft := 0, meldPath := 0, park := none,
    class4 := false, readyAt := now, readySince := now, fetched := [], inLoop := none, fenced := false, keptFloor := none,
    latch := none, arrived := none, wokeAt := 0, tags := [] }

/-- The start stake, with no live set (R158). -/
def Stake.initial : Stake :=
  { valid := true, start := true, record := 0, pc := 0, em := 0, livev := 0, pins := 0, recipe := 0, slices := 0xFF }

/-- v124 to v127 are allocated with the group and read 0 (R154). -/
def initialVregs : List (Nat × Lanes) := (List.range 4).map fun i => (124 + i, Lanes.zero)

/-- The scalars of a new group (R127): ARG, the record's address, and the role and linear block index. -/
def initialScalars (arg record : DWord) (role linear : Nat) : Vector DWord 64 :=
  (((Vector.replicate 64 (0 : DWord)).setIfInBounds 0 arg).setIfInBounds 1 record).setIfInBounds 2
    (BitVec.ofNat 64 (linear * 256 + role))

/-- A group of a role of a kernel's block, when the launcher allocates it (R127). -/
def Group.start (l : LaunchRec) (record : DWord) (ctx kid linear gid role : Nat) (place : GroupId) (now : Nat) : Group :=
  let r : Role := l.roles.getD role ⟨8, 0, 0, 0, 0⟩
  { at_ := place, ctx := ctx, kid := kid, block := linear, gid := gid, role := role, regs := r.regs, prio := r.prio,
    state := .allocated, vregs := initialVregs, sregs := initialScalars l.arg record role linear,
    mregs := Vector.replicate 16 0, frags := [Fragment.initial (l.code + BitVec.ofNat 64 r.entry) now],
    t0 := identityTable, t1 := identityTable, floor := l.floor, outgrade := l.cap, chk := l.chk, fnthr := 0,
    mskip := 0, mstat := 0, fcause := 0, faddr := 0, fpc := 0, finfo := 0, stakepc := 0, h := false, frame := none,
    stake := Stake.initial, ops := [], issued := [0, 0, 0, 0, 0], uncovered := [], pend := [], board := [],
    deferred := [], syncl := [], preemptAt := none, stopped := false, turnover := none, loose := [], endPc := 0 }

/-- A block when it is placed: every group is a member (R244). -/
def Block.start (kid ctx linear core dom groups : Nat) : Block :=
  { kid := kid, ctx := ctx, linear := linear, core := core, dom := dom, bpc := 0, members := List.range groups, barb := [],
    phase := [], coll := [], turnover := none, debug := .run, dumpAt := 0,
    haltAt := 0, stopAsked := false, saved := false }

/-- The trace registers before any write (R413). -/
def TraceState.reset : TraceState :=
  { kid := 0, blk := 0, synci := 2, log2b := 0, en := false, base := 0, head := 0, tail := 0, started := false,
    lastCycle := 0, lastCore := 0, packets := 0, dropped := 0, dropping := false, queue := [], listing := none }

/-- A context as CREATE leaves it (R87, R88, R90). -/
def Context.created (id vf part : Nat) : Context :=
  { id := id, vf := vf, part := part, state := 0, result := 0, cmdseq := 0, discard := 0, ctxrec := 0, record := none,
    graphq := 0, graphItem := none, fqhead := 0, fqtail := 0, fqseq := 0, fqwait := [], qdesc := List.replicate 16 0, qcmdcap := 0, qres := 0,
    qcapout := 0, mop := [0, 0, 0], mres := 0, inval := none, replay := none, dop := [0, 0, 0, 0], dres := 0, dval := 0, brkstop := false,
    trapstop := false, lbase := 0, llog2n := 0, lperiod := 10, lsampled := [], len := false, lhead := 0, ltail := 0, ldrop := 0,
    trace := TraceState.reset, enq := [], landings := [] }

end Sys2Proof.Machine
end

