-- ==== Sys2Proof/Machine/Flags.lean ====
section
/-! DEFINITION. Relations and branch conditions. The Tvedn architecture has no flag register: a comparison writes a
mask or a scalar, and a branch reads one (R79, R198, R210, R220). -/

namespace Sys2Proof.Machine

/-- The relations of R198: 0 .eq, 1 .ne, 2 .lt, 3 .le, 4 .gt, 5 .ge, over exact integers. -/
def relHolds (rel : Nat) (x y : Int) : Bool :=
  match rel with
  | 0 => x = y
  | 1 => x ≠ y
  | 2 => x < y
  | 3 => x ≤ y
  | 4 => x > y
  | _ => x ≥ y

/-- ICMP and ICMPU in one lane: signed or unsigned reading of the operands. -/
def cmpLane (unsigned : Bool) (rel : Nat) (a b : Word) : Bool :=
  if unsigned then relHolds rel a.toNat b.toNat else relHolds rel a.toInt b.toInt

/-- SCMP (R210): f[2:0] the relation, f[3] unsigned. -/
def scmp (f : Nat) (a b : DWord) : DWord :=
  let r := if f / 8 = 1 then relHolds (f % 8) a.toNat b.toNat else relHolds (f % 8) a.toInt b.toInt
  if r then 1 else 0

/-- The condition table of R79 over the mask value `m`, the scalar value `x` and the execution mask. -/
def condTaken (cond : Nat) (m : Word) (x : DWord) (em : Word) : Bool :=
  match cond with
  | 0 => true
  | 1 => m &&& em != 0
  | 2 => m &&& em == em
  | 3 => m &&& em == 0
  | 4 => x == 0
  | 5 => x != 0
  | 6 => x.toInt < 0
  | _ => x.toInt ≥ 0

end Sys2Proof.Machine
end

