-- ==== Sys2Proof/Machine/Lane.lean ====
section
/-! DEFINITION. The shapes of lane instructions (R193, R217): what they read and write, and their issue. -/

namespace Sys2Proof.Machine

/-- The em of the issuing fragment, as a name (R178). -/
def Iss.emName (c : Iss) : RName := .em c.who.index

/-- Scalars and masks that a lane instruction reads or writes: with em = 0 none (R216). -/
def Iss.unlessIdle (c : Iss) (ns : List RName) : List RName := if c.em = 0 then [] else ns

/-- Uses of a lane instruction that acts lane by lane in em; with em = 0 it reads em alone (R216). -/
def Iss.laneUses (c : Iss) (vr vw : List VOp) (nr nw : List RName := []) : Uses :=
  { vr := vr, vw := vw, nr := c.emName :: c.unlessIdle nr, nw := c.unlessIdle nw, rl := c.em, wl := c.em }

/-- Uses of a lane mover that may read every lane of a (R203); with em = 0 it reads none (R216). -/
def Iss.crossUses (c : Iss) (vr vw : List VOp) : Uses :=
  { vr := vr, vw := vw, nr := [c.emName], nw := [], rl := c.em, wl := c.em, cross := true }

/-- Operand b as a lane register; a literal takes its place (R66). -/
def Iss.bOp (c : Iss) (b : VOp) : List VOp := if c.lit.isSome then [] else [b]

/-- The issue of a fixed-latency lane instruction: the checks of R86, the last reads, then `eff` on the group. -/
def laneIssue (i : Instr) (s : State) (u : Iss → Uses) (eff : Iss → Group → Group) : Host.Outcome State Fault Refusal :=
  runIssue s fun c => do
    c.prep i false (u c)
    .ok (finish s c (eff c (c.g.lastReads c (u c))))

/-- d := f a. -/
def lane1 (i : Instr) (s : State) (lat : Nat) (d a : BitVec 7) (f : Word → Word) : Host.Outcome State Fault Refusal :=
  laneIssue i s (fun c => c.laneUses [.a a] [.d d]) fun c g =>
    g.writeV c lat d.toNat 0 c.em fun k => f (c.v a.toNat k)

/-- d := f a b. -/
def lane2 (i : Instr) (s : State) (lat : Nat) (d a b : BitVec 7) (f : Word → Word → Word) :
    Host.Outcome State Fault Refusal :=
  laneIssue i s (fun c => c.laneUses (.a a :: c.bOp (.b b)) [.d d]) fun c g =>
    g.writeV c lat d.toNat 0 c.em fun k => f (c.v a.toNat k) (c.bv b.toNat k)

/-- d := f a b d. -/
def lane3 (i : Instr) (s : State) (lat : Nat) (d a b : BitVec 7) (f : Word → Word → Word → Word) :
    Host.Outcome State Fault Refusal :=
  laneIssue i s (fun c => c.laneUses (.a a :: (c.bOp (.b b) ++ [.d d])) [.d d]) fun c g =>
    g.writeV c lat d.toNat 0 c.em fun k => f (c.v a.toNat k) (c.bv b.toNat k) (c.v d.toNat k)

/-- m[d] bit i := p a b in em, 0 in the fragment's other lanes (R198); with em = 0 m[d] is not written (R216). -/
def laneCmp (i : Instr) (s : State) (lat : Nat) (d a b : BitVec 7) (p : Word → Word → Bool) :
    Host.Outcome State Fault Refusal :=
  laneIssue i s (fun c => c.laneUses (.a a :: c.bOp (.b b)) [] [] [.m d.toNat]) fun c g =>
    g.writeCmp c lat d.toNat (maskOf fun k => bitOf c.em k && p (c.v a.toNat k) (c.bv b.toNat k))

/-- d := lane (`src k`) of a, or of the b operand, as `pick` says (R203). -/
def laneMove (i : Instr) (s : State) (d a b : BitVec 7) (value : Iss → Nat → Word) : Host.Outcome State Fault Refusal :=
  laneIssue i s (fun c => c.crossUses (.a a :: c.bOp (.b b)) [.d d]) fun c g =>
    g.writeV c 3 d.toNat 0 c.em (value c)

end Sys2Proof.Machine
end

