-- ==== Sys2Proof/Machine/LaneInt.lean ====
section
/-! DEFINITION. Lane integer, logic and permute instructions (R193 to R208). -/

namespace Sys2Proof.Machine

abbrev Out := Host.Outcome State Fault Refusal

/-! ## Arithmetic (R195) -/

def execIadd (f : BitVec 3) (d a b : BitVec 7) (s : State) : Out := lane2 (.iadd f d a b) s 2 d a b (addMode f.toNat)
def execIsub (f : BitVec 3) (d a b : BitVec 7) (s : State) : Out := lane2 (.isub f d a b) s 2 d a b (subMode f.toNat)
def execImul (f : BitVec 3) (d a b : BitVec 7) (s : State) : Out := lane2 (.imul f d a b) s 4 d a b (mulMode f.toNat)
def execImad (f : BitVec 3) (d a b : BitVec 7) (s : State) : Out := lane3 (.imad f d a b) s 4 d a b (madMode f.toNat)
def execImin (f : BitVec 3) (d a b : BitVec 7) (s : State) : Out := lane2 (.imin f d a b) s 2 d a b (minMode f.toNat)
def execImax (f : BitVec 3) (d a b : BitVec 7) (s : State) : Out := lane2 (.imax f d a b) s 2 d a b (maxMode f.toNat)
def execIabs (f : BitVec 3) (d a : BitVec 7) (s : State) : Out := lane1 (.iabs f d a) s 2 d a (absMode f.toNat)
def execIneg (f : BitVec 3) (d a : BitVec 7) (s : State) : Out := lane1 (.ineg f d a) s 2 d a (negMode f.toNat)

/-! ## Logic, shifts and bit counts (R196) -/

def execAnd (d a b : BitVec 7) (s : State) : Out := lane2 (.and d a b) s 2 d a b fun x y => x &&& y
def execOr (d a b : BitVec 7) (s : State) : Out := lane2 (.or d a b) s 2 d a b fun x y => x ||| y
def execXor (d a b : BitVec 7) (s : State) : Out := lane2 (.xor d a b) s 2 d a b fun x y => x ^^^ y
def execAndn (d a b : BitVec 7) (s : State) : Out := lane2 (.andn d a b) s 2 d a b fun x y => x &&& ~~~y
def execNot (d a : BitVec 7) (s : State) : Out := lane1 (.not d a) s 2 d a fun x => ~~~x
def execShl (d a b : BitVec 7) (s : State) : Out := lane2 (.shl d a b) s 2 d a b shlFull
def execShr (f : BitVec 3) (d a b : BitVec 7) (s : State) : Out := lane2 (.shr f d a b) s 2 d a b (shrFull f.toNat)
def execRot (f : BitVec 3) (d a b : BitVec 7) (s : State) : Out := lane2 (.rot f d a b) s 2 d a b (rotMode f.toNat)
def execPopc (d a : BitVec 7) (s : State) : Out := lane1 (.popc d a) s 2 d a fun x => BitVec.ofNat 32 (popcount x)
def execClz (d a : BitVec 7) (s : State) : Out := lane1 (.clz d a) s 2 d a fun x => BitVec.ofNat 32 (clz x)
def execBrev (d a : BitVec 7) (s : State) : Out := lane1 (.brev d a) s 2 d a reverseBits

/-! ## Bit fields (R197) -/

def execBfx (f : BitVec 3) (d a b : BitVec 7) (s : State) : Out := lane2 (.bfx f d a b) s 2 d a b (bfx f.toNat)
def execBfi (d a b : BitVec 7) (s : State) : Out := lane3 (.bfi d a b) s 2 d a b bfi

/-! ## Comparisons and selection (R198) -/

def execIcmp (f : BitVec 3) (d a b : BitVec 7) (s : State) : Out :=
  laneCmp (.icmp f d a b) s 2 d a b (cmpLane false f.toNat)
def execIcmpu (f : BitVec 3) (d a b : BitVec 7) (s : State) : Out :=
  laneCmp (.icmpu f d a b) s 2 d a b (cmpLane true f.toNat)

/-- SEL: the mask m0 to m7 that f names selects a, else b. -/
def execSel (f : BitVec 3) (d a b : BitVec 7) (s : State) : Out :=
  laneIssue (.sel f d a b) s (fun c => c.laneUses (.a a :: c.bOp (.b b)) [.d d] [.m f.toNat]) fun c g =>
    g.writeV c 2 d.toNat 0 c.em fun k => if bitOf (c.mv f.toNat) k then c.v a.toNat k else c.bv b.toNat k

/-! ## Moves and lane numbers (R199) -/

def execMov (d a : BitVec 7) (s : State) : Out := lane1 (.mov d a) s 2 d a id
def execMovl (d : BitVec 7) (s : State) : Out :=
  laneIssue (.movl d) s (fun c => c.laneUses [] [.d d]) fun c g =>
    g.writeV c 2 d.toNat 0 c.em fun _ => c.lit.getD 0
def execLidx (f : BitVec 3) (d : BitVec 7) (s : State) : Out :=
  laneIssue (.lidx f d) s (fun c => c.laneUses [] [.d d]) fun c g =>
    g.writeV c 2 d.toNat 0 c.em fun k =>
      BitVec.ofNat 32 (if f.toNat = 0 then k else if f.toNat = 1 then k / 4 else k % 4)

/-! ## Wide operations and conversions (R200 to R202) -/

/-- Writes a pair from a 64-bit value of each lane (R194). -/
def Group.writePair (g : Group) (c : Iss) (lat d : Nat) (m : Word) (f : Nat → DWord) : Group :=
  (g.writeV c lat d 0 m fun k => (f k).setWidth 32).writeV c lat d 1 m fun k => (f k).extractLsb' 32 32

def execIadd64 (d a b : BitVec 7) (s : State) : Out :=
  laneIssue (.iadd64 d a b) s
    (fun c => c.laneUses (⟨a.toNat, 2, 0⟩ :: c.bOp ⟨b.toNat, 2, 1⟩) [⟨d.toNat, 2, 2⟩]) fun c g =>
    g.writePair c 2 d.toNat c.em fun k => c.v64 a.toNat k + c.bv64 b.toNat k

def execImulw (f : BitVec 3) (d a b : BitVec 7) (s : State) : Out :=
  laneIssue (.imulw f d a b) s (fun c => c.laneUses (.a a :: c.bOp (.b b)) [⟨d.toNat, 2, 2⟩]) fun c g =>
    g.writePair c 4 d.toNat c.em fun k => mulWide f.toNat (c.v a.toNat k) (c.bv b.toNat k)

def execCvti (f : BitVec 3) (d a : BitVec 7) (s : State) : Out := lane1 (.cvti f d a) s 2 d a (cvti f.toNat)
def execIdot4 (f : BitVec 3) (d a b : BitVec 7) (s : State) : Out := lane3 (.idot4 f d a b) s 4 d a b (idot4 f.toNat)

/-! ## Permutes and lane movers (R203 to R208) -/

/-- Byte `i` of the table that PERMB reads from a scalar pair (R204). -/
def permTable (lo hi : DWord) (i : Nat) : Byte := if i < 8 then byteOf lo i else byteOf hi (i - 8)

def execPermb (f : BitVec 3) (d a b : BitVec 7) (s : State) : Out :=
  laneIssue (.permb f d a b) s
    (fun c => c.laneUses (c.bOp (.b b)) [.d d] [.s a.toNat, .s (a.toNat + 1)]) fun c g =>
    g.writeV c 3 d.toNat 0 c.em fun k =>
      permb f.toNat (permTable (c.sv a.toNat) (c.sv (a.toNat + 1))) (c.bv b.toNat k)

def execBalign (f : BitVec 3) (d a b : BitVec 7) (s : State) : Out :=
  lane2 (.balign f d a b) s 3 d a b (balign f.toNat)

/-- Lane `j` of operand b as lane `k` sees it; a literal is the same in every lane. -/
def Iss.bFrom (c : Iss) (b k j : Nat) : Word :=
  match c.lit with
  | some l => l
  | none => c.vFrom b k j

/-- SHFL: lane b[4:0] of a. -/
def execShfl (d a b : BitVec 7) (s : State) : Out :=
  laneMove (.shfl d a b) s d a b fun c k => c.vFrom a.toNat k ((c.bv b.toNat k).toNat % 32)

/-- SHUP: lane k − (f + 1) of a, and b's upper lanes below it. -/
def execShup (f : BitVec 3) (d a b : BitVec 7) (s : State) : Out :=
  laneMove (.shup f d a b) s d a b fun c k =>
    if k ≥ f.toNat + 1 then c.vFrom a.toNat k (k - (f.toNat + 1)) else c.bFrom b.toNat k (32 + k - (f.toNat + 1))

/-- SHDN: lane k + (f + 1) of a, and b's lower lanes above it. -/
def execShdn (f : BitVec 3) (d a b : BitVec 7) (s : State) : Out :=
  laneMove (.shdn f d a b) s d a b fun c k =>
    if k + (f.toNat + 1) ≤ 31 then c.vFrom a.toNat k (k + (f.toNat + 1)) else c.bFrom b.toNat k (k + (f.toNat + 1) - 32)

def execShflx (d a b : BitVec 7) (s : State) : Out :=
  laneMove (.shflx d a b) s d a b fun c k => c.vFrom a.toNat k (k ^^^ ((c.bv b.toNat k).toNat % 32))

/-- BCST: the lane that b names in the lowest lane of em. -/
def execBcst (d a b : BitVec 7) (s : State) : Out :=
  laneMove (.bcst d a b) s d a b fun c k => c.vFrom a.toNat k ((c.bv b.toNat (lowestOne c.em)).toNat % 32)

def execBsel (d a b : BitVec 7) (s : State) : Out := lane3 (.bsel d a b) s 3 d a b bitSelect

end Sys2Proof.Machine
end

