-- ==== Sys2Proof/Machine/Scalar.lean ====
section
/-! DEFINITION. Scalar instructions, and those between lanes and scalars (R209 to R214). -/

namespace Sys2Proof.Machine

/-- Uses of a uniform instruction that names scalars, masks and em only. -/
def uniUses (nr nw : List RName) : Uses := { vr := [], vw := [], nr := nr, nw := nw, rl := 0, wl := 0 }

/-- The issue of a fixed-latency uniform instruction. -/
def uniIssue (i : Instr) (s : State) (u : Iss → Uses) (eff : Iss → Group → Group) : Out :=
  runIssue s fun c => do
    c.prep i true (u c)
    .ok (finish s c (eff c (c.g.lastReads c (u c))))

/-- Operand b of a uniform consumer, as a name; a literal takes its place (R66). -/
def Iss.bName (c : Iss) (b : BitVec 6) : List RName := if c.lit.isSome then [] else [.s b.toNat]

/-- s[d] := f s[a]. -/
def scal1 (i : Instr) (s : State) (d a : BitVec 6) (f : DWord → DWord) : Out :=
  uniIssue i s (fun _ => uniUses [.s a.toNat] [.s d.toNat]) fun c g => g.writeS c 2 d.toNat (f (c.sv a.toNat))

/-- s[d] := f s[a] s[b]. -/
def scal2 (i : Instr) (s : State) (lat : Nat) (d a b : BitVec 6) (f : DWord → DWord → DWord) : Out :=
  uniIssue i s (fun c => uniUses (.s a.toNat :: c.bName b) [.s d.toNat]) fun c g =>
    g.writeS c lat d.toNat (f (c.sv a.toNat) (c.bs b.toNat))

/-! ## UR scalar opcodes (R210) -/

def execSadd (f : BitVec 4) (d a b : BitVec 6) (s : State) : Out := scal2 (.sadd f d a b) s 2 d a b (addMode f.toNat)
def execSsub (f : BitVec 4) (d a b : BitVec 6) (s : State) : Out := scal2 (.ssub f d a b) s 2 d a b (subMode f.toNat)
def execSmul (d a b : BitVec 6) (s : State) : Out := scal2 (.smul d a b) s 4 d a b fun x y => x * y
def execSmulh (f : BitVec 4) (d a b : BitVec 6) (s : State) : Out :=
  scal2 (.smulh f d a b) s 4 d a b (mulMode (f.toNat + 1))
def execSand (d a b : BitVec 6) (s : State) : Out := scal2 (.sand d a b) s 2 d a b fun x y => x &&& y
def execSor (d a b : BitVec 6) (s : State) : Out := scal2 (.sor d a b) s 2 d a b fun x y => x ||| y
def execSxor (d a b : BitVec 6) (s : State) : Out := scal2 (.sxor d a b) s 2 d a b fun x y => x ^^^ y
def execSshl (d a b : BitVec 6) (s : State) : Out := scal2 (.sshl d a b) s 2 d a b shlFull
def execSshr (f : BitVec 4) (d a b : BitVec 6) (s : State) : Out := scal2 (.sshr f d a b) s 2 d a b (shrFull f.toNat)
def execSmin (f : BitVec 4) (d a b : BitVec 6) (s : State) : Out := scal2 (.smin f d a b) s 2 d a b (minMode f.toNat)
def execSmax (f : BitVec 4) (d a b : BitVec 6) (s : State) : Out := scal2 (.smax f d a b) s 2 d a b (maxMode f.toNat)
def execScmp (f : BitVec 4) (d a b : BitVec 6) (s : State) : Out := scal2 (.scmp f d a b) s 2 d a b (scmp f.toNat)

/-- SSEL reads d: s[a] when it is nonzero, else s[b]. -/
def execSsel (d a b : BitVec 6) (s : State) : Out :=
  uniIssue (.ssel d a b) s (fun c => uniUses (.s a.toNat :: (c.bName b ++ [.s d.toNat])) [.s d.toNat]) fun c g =>
    g.writeS c 2 d.toNat (if c.sv d.toNat ≠ 0 then c.sv a.toNat else c.bs b.toNat)

def execSmov (d a : BitVec 6) (s : State) : Out := scal1 (.smov d a) s d a id
def execSmovl (d : BitVec 6) (s : State) : Out :=
  uniIssue (.smovl d) s (fun _ => uniUses [] [.s d.toNat]) fun c g =>
    g.writeS c 2 d.toNat ((c.lit.getD 0).signExtend 64)
def execSpopc (d a : BitVec 6) (s : State) : Out := scal1 (.spopc d a) s d a fun x => BitVec.ofNat 64 (popcount x)
def execSclz (d a : BitVec 6) (s : State) : Out := scal1 (.sclz d a) s d a fun x => BitVec.ofNat 64 (clz x)
def execSbfx (f : BitVec 4) (d a b : BitVec 6) (s : State) : Out := scal2 (.sbfx f d a b) s 2 d a b (sbfx f.toNat)

/-! ## Immediate forms (R211) -/

def execSmovi (d : BitVec 6) (i : BitVec 14) (s : State) : Out :=
  uniIssue (.smovi d i) s (fun _ => uniUses [] [.s d.toNat]) fun c g => g.writeS c 2 d.toNat (i.signExtend 64)

/-- Bits [14k+13:14k] replaced; bits above 63 are discarded. -/
def slui (k : Nat) (i : BitVec 14) (x : DWord) : DWord :=
  (x &&& ~~~((0x3FFF : DWord) <<< (14 * k))) ||| (i.setWidth 64 <<< (14 * k))

def execSlui (f : BitVec 4) (d : BitVec 6) (i : BitVec 14) (s : State) : Out :=
  uniIssue (.slui f d i) s (fun _ => uniUses [.s d.toNat] [.s d.toNat]) fun c g =>
    g.writeS c 2 d.toNat (slui f.toNat i (c.sv d.toNat))

def execSaddi (d : BitVec 6) (i : BitVec 14) (s : State) : Out :=
  uniIssue (.saddi d i) s (fun _ => uniUses [.s d.toNat] [.s d.toNat]) fun c g =>
    g.writeS c 2 d.toNat (c.sv d.toNat + i.signExtend 64)

/-! ## Between lanes and scalars (R212 to R214) -/

/-- The lane RDLANE and WRLANE name (R212). -/
def laneIndex (x : DWord) : Nat := x.toNat % 32

def oneLane (k : Nat) : Word := 1#32 <<< k

/-- RDLANE: any lane of the group, zero-extended, sign-extended, or a pair. -/
def execRdlane (d a b : BitVec 6) (g : BitVec 2) (s : State) : Out :=
  uniIssue (.rdlane d a b g) s
    (fun c => { vr := [⟨a.toNat, if g.toNat = 2 then 2 else 1, 0⟩], vw := [], nr := [.s b.toNat], nw := [.s d.toNat],
                rl := oneLane (laneIndex (c.sv b.toNat)), wl := 0 }) fun c gr =>
    let k := laneIndex (c.sv b.toNat)
    gr.writeS c 3 d.toNat
      (match g.toNat with
        | 0 => (c.v a.toNat k).setWidth 64
        | 1 => (c.v a.toNat k).signExtend 64
        | _ => c.v64 a.toNat k)

/-- WRLANE: writes when the lane lies in em, and otherwise has no effect beyond its stall. -/
def execWrlane (d a b : BitVec 6) (g : BitVec 2) (s : State) : Out :=
  uniIssue (.wrlane d a b g) s
    (fun c => { vr := [], vw := [⟨d.toNat, if g.toNat = 1 then 2 else 1, 3⟩], nr := [c.emName, .s a.toNat, .s b.toNat],
                nw := [], rl := 0, wl := c.em &&& oneLane (laneIndex (c.sv b.toNat)) }) fun c gr =>
    let m := c.em &&& oneLane (laneIndex (c.sv b.toNat))
    if m = 0 then gr
    else if g.toNat = 1 then gr.writePair c 3 d.toNat m fun _ => c.sv a.toNat
    else gr.writeV c 3 d.toNat 0 m fun _ => (c.sv a.toNat).setWidth 32

/-- The lanes of em in increasing order. -/
def Iss.emLanes (c : Iss) : List Nat := (List.range 32).filter fun i => bitOf c.em i

/-- The reductions of R213 over lane values; an empty list gives the identity. -/
def reduxOf (f : Nat) (xs : List Word) : DWord :=
  match f with
  | 0 => BitVec.ofInt 64 (xs.foldl (fun acc x => acc + x.toInt) 0)
  | 1 => BitVec.ofNat 64 (xs.foldl (fun acc x => acc + x.toNat) 0)
  | 2 => (xs.foldl (minMode 0) 0x7FFFFFFF).signExtend 64
  | 3 => (xs.foldl (maxMode 0) 0x80000000).signExtend 64
  | 4 => (xs.foldl (minMode 1) 0xFFFFFFFF).setWidth 64
  | 5 => (xs.foldl (maxMode 1) 0).setWidth 64
  | 6 => (xs.foldl (fun x y => x &&& y) 0xFFFFFFFF).setWidth 64
  | 7 => (xs.foldl (fun x y => x ||| y) 0).setWidth 64
  | _ => (xs.foldl (fun x y => x ^^^ y) 0).setWidth 64

def execRedux (f : BitVec 4) (d a : BitVec 6) (s : State) : Out :=
  uniIssue (.redux f d a) s
    (fun c => { vr := [⟨a.toNat, 1, 0⟩], vw := [], nr := [c.emName], nw := [.s d.toNat], rl := c.em, wl := 0 }) fun c g =>
    g.writeS c 3 d.toNat (reduxOf f.toNat (c.emLanes.map fun i => c.v a.toNat i))

def execVbcst (f : BitVec 4) (d a : BitVec 6) (s : State) : Out :=
  uniIssue (.vbcst f d a) s
    (fun c => { vr := [], vw := [⟨d.toNat, if f.toNat = 1 then 2 else 1, 3⟩], nr := [c.emName, .s a.toNat], nw := [],
                rl := 0, wl := c.em }) fun c g =>
    if f.toNat = 1 then g.writePair c 3 d.toNat c.em fun _ => c.sv a.toNat
    else g.writeV c 3 d.toNat 0 c.em fun _ => (c.sv a.toNat).setWidth 32

end Sys2Proof.Machine
end

