-- ==== Sys2Proof/Machine/Mask.lean ====
section
/-! DEFINITION. Mask instructions (R178, R179, R191). -/

namespace Sys2Proof.Machine

/-- m[d] := f m[a] m[b] in the fragment's lanes. -/
def mask2 (i : Instr) (s : State) (d a b : BitVec 6) (f : Word → Word → Word) : Out :=
  uniIssue i s (fun _ => uniUses [.m a.toNat, .m b.toNat] [.m d.toNat]) fun c g =>
    g.writeM c 2 d.toNat (f (c.mv a.toNat) (c.mv b.toNat))

def execMand (d a b : BitVec 6) (s : State) : Out := mask2 (.mand d a b) s d a b fun x y => x &&& y
def execMor (d a b : BitVec 6) (s : State) : Out := mask2 (.mor d a b) s d a b fun x y => x ||| y
def execMxor (d a b : BitVec 6) (s : State) : Out := mask2 (.mxor d a b) s d a b fun x y => x ^^^ y
def execMnot (d a : BitVec 6) (s : State) : Out :=
  uniIssue (.mnot d a) s (fun _ => uniUses [.m a.toNat] [.m d.toNat]) fun c g => g.writeM c 2 d.toNat (~~~c.mv a.toNat)

/-- MMOV: mask to mask, scalar to mask, or mask to scalar. -/
def execMmov (f : BitVec 4) (d a : BitVec 6) (s : State) : Out :=
  match f.toNat with
  | 0 => uniIssue (.mmov f d a) s (fun _ => uniUses [.m a.toNat] [.m d.toNat]) fun c g => g.writeM c 2 d.toNat (c.mv a.toNat)
  | 1 => uniIssue (.mmov f d a) s (fun _ => uniUses [.s a.toNat] [.m d.toNat]) fun c g =>
      g.writeM c 2 d.toNat ((c.sv a.toNat).setWidth 32)
  | _ => uniIssue (.mmov f d a) s (fun _ => uniUses [.m a.toNat] [.s d.toNat]) fun c g =>
      g.writeS c 2 d.toNat ((c.mv a.toNat).setWidth 64)

def execEmrd (f : BitVec 4) (d : BitVec 6) (s : State) : Out :=
  if f.toNat = 0 then
    uniIssue (.emrd f d) s (fun c => uniUses [c.emName] [.s d.toNat]) fun c g => g.writeS c 2 d.toNat (c.em.setWidth 64)
  else
    uniIssue (.emrd f d) s (fun c => uniUses [c.emName] [.m d.toNat]) fun c g => g.writeM c 2 d.toNat c.em

/-- The value EMWR gives em, before it is cut to the fragment's lanes (R191). -/
def emwrValue (c : Iss) (f a : Nat) : Word :=
  match f with
  | 0 => (c.sv a).setWidth 32
  | 1 => c.em &&& c.mv a
  | 2 => c.em &&& ~~~c.mv a
  | _ => c.mv a

/-- EMWR writes em, and the trace of its block notes the new mask (R414). -/
def execEmwr (f : BitVec 4) (a : BitVec 6) (s : State) : Out :=
  runIssue s fun c => do
    let src : RName := if f.toNat = 0 then .s a.toNat else .m a.toNat
    let u := uniUses (if f.toNat = 1 ∨ f.toNat = 2 then [c.emName, src] else [src]) [c.emName]
    c.prep (.emwr f a) true u
    let x := emwrValue c f.toNat a.toNat &&& c.lanes
    let s1 := finish s c (c.g.writeEm c x)
    .ok (traceMask s s1 c.g c.who.index x)

def execBallot (d a : BitVec 6) (s : State) : Out :=
  uniIssue (.ballot d a) s
    (fun c => { vr := [⟨a.toNat, 1, 0⟩], vw := [], nr := [c.emName], nw := [.m d.toNat], rl := c.em, wl := 0 }) fun c g =>
    g.writeM c 2 d.toNat (maskOf fun i => bitOf c.em i && c.v a.toNat i != 0)

/-- The mask that MPOPC and MFIRST look at: within em, or whole (.w). -/
def maskSeen (c : Iss) (f a : Nat) : Word := if f = 0 then c.mv a &&& c.em else c.mv a

def maskCount (i : Instr) (s : State) (f : BitVec 4) (d a : BitVec 6) (n : Word → Nat) : Out :=
  uniIssue i s (fun c => uniUses (if f.toNat = 0 then [c.emName, .m a.toNat] else [.m a.toNat]) [.s d.toNat]) fun c g =>
    g.writeS c 2 d.toNat (BitVec.ofNat 64 (n (maskSeen c f.toNat a.toNat)))

def execMpopc (f : BitVec 4) (d a : BitVec 6) (s : State) : Out := maskCount (.mpopc f d a) s f d a popcount
def execMfirst (f : BitVec 4) (d a : BitVec 6) (s : State) : Out := maskCount (.mfirst f d a) s f d a lowestOne

end Sys2Proof.Machine
end

