-- ==== Sys2Proof/Machine/Special.lean ====
section
/-! DEFINITION. Special registers, TRAP and TRET, STAKE, and the small group instructions (R103 to R107, R164, R172, R174,
R187, R188). -/

namespace Sys2Proof.Machine

/-! ## Special registers (R103 to R105) -/

/-- The value of a special register for a lane of the issuing fragment (R103). -/
def specialValue (s : State) (c : Iss) (n lane : Nat) : DWord :=
  let core := c.who.core
  let (x, y, z) := match s.kernel? c.g.kid with
    | some k => blockCoords k.launch c.g.block
    | none => (0, 0, 0)
  let rec_ := s.ctxRec c.g.ctx
  match n with
  | 0x00 => BitVec.ofNat 64 lane
  | 0x01 => BitVec.ofNat 64 (lane / 4)
  | 0x02 => BitVec.ofNat 64 c.g.gid
  | 0x03 => BitVec.ofNat 64 x
  | 0x04 => BitVec.ofNat 64 y
  | 0x05 => BitVec.ofNat 64 z
  | 0x06 => BitVec.ofNat 64 (coreCluster core)
  | 0x07 => BitVec.ofNat 64 core
  | 0x08 => BitVec.ofNat 64 (coreField core)
  | 0x09 => BitVec.ofNat 64 s.chipid
  | 0x0A => BitVec.ofNat 64 (nth s.mesh 0 0)
  | 0x0B => BitVec.ofNat 64 (nth s.mesh 1 0)
  | 0x0C => BitVec.ofNat 64 (nth s.mesh 2 0)
  | 0x0D => BitVec.ofNat 64 c.now
  | 0x0E => BitVec.ofNat 64 s.ptpns
  | 0x0F => BitVec.ofNat 64 (s.window ((s.ctx? c.g.ctx).elim 0 (·.part)))
  | 0x10 => (s.link ((s.ctx? c.g.ctx).elim 0 (·.part))).tgen.setWidth 64
  | 0x11 => BitVec.ofNat 64 c.g.floor
  | 0x12 => BitVec.ofNat 64 c.g.outgrade
  | 0x13 => BitVec.ofNat 64 (rec_.elim 0 (·.amdepth))
  | 0x14 => BitVec.ofNat 64 c.g.chk.toNat
  | 0x15 => c.g.fnthr.setWidth 64
  | 0x16 => c.g.mskip.setWidth 64
  | 0x17 => c.g.fcause.setWidth 64
  | 0x18 => c.g.faddr
  | 0x19 => c.g.fpc
  | 0x1A => c.g.finfo
  | 0x1B => rec_.elim 0 (·.tvec)
  | 0x1C => c.g.stakepc
  | 0x1D => BitVec.ofNat 64 (rec_.elim 0 (·.stakemax))
  | 0x1E => BitVec.ofNat 64 (vfState s (coreField core))
  | 0x1F => BitVec.ofNat 64 (fheadWord s (coreField core))
  | 0x20 => c.g.mstat.setWidth 64
  | 0x21 => BitVec.ofNat 64 ((s.ctx? c.g.ctx).elim 0 (·.part))
  | _ => BitVec.ofNat 64 c.g.ctx

/-- SRD (R104). -/
def execSrd (f : BitVec 4) (d a : BitVec 6) (s : State) : Out :=
  if f.toNat = 0 then
    uniIssue (.srd f d a) s (fun _ => uniUses [] [.s d.toNat]) fun c g => g.writeS c 2 d.toNat (specialValue s c a.toNat 0)
  else
    uniIssue (.srd f d a) s
      (fun c => { vr := [], vw := [⟨d.toNat, 1, 3⟩], nr := [c.emName], nw := [], rl := 0, wl := c.em }) fun c g =>
      g.writeV c 2 d.toNat 0 c.em fun k => (specialValue s c a.toNat k).setWidth 32

/-- Whether a group may write a special register (R103): the read-write ones, and the trap registers only in the handler. -/
def specialWritable (h : Bool) (n : Nat) : Bool :=
  n = 0x11 || n = 0x14 || n = 0x15 || n = 0x16 || n = 0x20 || (h && decide (0x17 ≤ n) && decide (n ≤ 0x1A))

/-- The group after a write of a special register (R103): reserved bits are ignored, MSTAT clears the bits written as 1. -/
def Group.writeSpecial (g : Group) (n : Nat) (x : DWord) : Group :=
  match n with
  | 0x11 => { g with floor := x.toNat % 4 }
  | 0x14 => { g with chk := x.getLsbD 0 }
  | 0x15 => { g with fnthr := (x.setWidth 31).setWidth 32 }
  | 0x16 => { g with mskip := x.setWidth 8 }
  | 0x17 => { g with fcause := x.setWidth 8 }
  | 0x18 => { g with faddr := x }
  | 0x19 => { g with fpc := x }
  | 0x1A => { g with finfo := x }
  | 0x20 => { g with mstat := g.mstat &&& ~~~x.setWidth 4 }
  | _ => g

/-- SWR (R105). -/
def execSwr (d a : BitVec 6) (s : State) : Out :=
  runIssue s fun c => do
    c.prepOwn (.swr d a) true (uniUses [.s a.toNat] []) (need (!(d.toNat = 0x11 && (c.sv a.toNat).toNat % 4 = 0)) 1)
    need (specialWritable c.g.h d.toNat) 9
    .ok (finish s c (c.g.writeSpecial d.toNat (c.sv a.toNat)))

/-! ## TRAP and TRET (R106, R107) -/

/-- TRAP: cause 0x15, FINFO the 14-bit code, FPC the slot after it (R99). -/
def execTrap (i : BitVec 14) (s : State) : Out :=
  runIssue s fun c => do
    c.prep (.trap i) true (uniUses [] [])
    .ok (takeTrap s c.who 0x15 0 (i.setWidth 64) c.next c.pc)

/-- A transfer's target must be a slot (R64): cause 0x02 with the target in FADDR. A fault on its bundle parks, and an illegal
read of it traps with cause 0x09, the bundle's address in FADDR and the code in FINFO (log 91). -/
def Iss.checkTarget (c : Iss) (s : State) (t : DWord) : Except Stop State :=
  let base : DWord := BitVec.ofNat 64 (t.toNat / 16 * 16)
  match Machine.checkTarget s c.who.core c.g.ctx t with
  | .ok s' => .ok s'
  | .bad => trapWith 2 t
  | .illegal code => trapWith 9 base (BitVec.ofNat 64 code)
  | .fault => .error (.fault base 2 base 0)

/-- TRET. -/
def execTret (s : State) : Out :=
  runIssue s fun c => do
    c.prep .tret true (uniUses [] [])
    match c.g.h, c.g.frame with
    | true, some fr =>
      let s1 ← c.checkTarget s c.g.fpc
      let s2 := s1.setGroup (c.g.leaveHandler c fr)
      .ok (traceMasks (traceTransfer s s2 c.g c.who.index (List.range 8) (some (9, true)) c.pc (some c.g.fpc)) c.g c.who.index
        ((s2.group? c.who.group).elim [] (·.frags)))
    | _, _ => trapWith 9

/-! ## STAKE (R160, R164) -/

/-- The address of a stake record. -/
def stakeRecord (pc : DWord) (i : BitVec 14) : Nat := (((pc.toNat / 32 * 32 : Nat) + 32 * i.toInt) % 2 ^ 64).toNat

/-- The stake's effect holds only for one fragment outside a region, a call and the handler (R160). -/
def stakeTakes (c : Iss) : Bool := c.g.frags.length = 1 && !c.melded && c.f.rstack.isEmpty && !c.g.h

/-- A read of 16 bytes through the instruction-supply path for an instruction: an absent page parks it, an illegal access traps
(R289, R291, R297). -/
def Iss.fetch (c : Iss) (s : State) (at_ : Nat) : Except Stop (BitVec 128 × State) :=
  match fetchBundle s c.who.core c.g.ctx at_ with
  | .got b s1 => .ok (b, s1)
  | .illegal code => trapWith 9 (BitVec.ofNat 64 at_) (BitVec.ofNat 64 code)
  | .absent => .error (.fault (BitVec.ofNat 64 at_) 2 (BitVec.ofNat 64 at_) 0)

/-- The 32 bytes of a stake record: STAKE reads them at issue through the instruction-supply path (R164). -/
def Iss.readStake (c : Iss) (s : State) (i : BitVec 14) : Except Stop (BitVec 128 × BitVec 128 × State) := do
  let at_ := stakeRecord c.pc i
  let (lo, s1) ← c.fetch s at_
  let (hi, s2) ← c.fetch s1 (at_ + 16)
  .ok (lo, hi, s2)

/-- STAKE reads its record through the instruction-supply path, whose faults come first (R86, R164, log 113), and becomes the group's stake. -/
def execStake (i : BitVec 14) (s : State) : Out :=
  runIssue s fun c => do
    let (lo, hi, s2) ← c.readStake s i
    c.prepOwn (.stake i) true (uniUses [c.emName] []) (need (hi.toNat / 2 ^ 32 = 0) 1)
    let code : DWord := (s.kernel? c.g.kid).elim 0 (·.launch.code)
    let recipe := code + (hi.setWidth 32 : Word).setWidth 64
    let s3 ← c.checkTarget s2 recipe
    if stakeTakes c then
      .ok (finish s3 c { c.g with
        stakepc := c.pc
        stake := ⟨true, false, BitVec.ofNat 64 (stakeRecord c.pc i), c.pc, c.em, lo.setWidth 64, lo.extractLsb' 64 64, recipe, c.f.slices⟩ })
    else .ok (finish s3 c c.g)

/-! ## MTAB and MELD (R187, R188) -/

/-- MTAB. Its two names are entries of a table: the check of R154 is for the renamed names of a slot, and not for MTAB (log 108). -/
def execMtab (d a : BitVec 6) (g : BitVec 1) (s : State) : Out :=
  uniIssue (.mtab d a g) s (fun _ => uniUses [] []) fun _ gr =>
    if g.toNat = 0 then { gr with t0 := gr.t0.setIfInBounds d.toNat a } else { gr with t1 := gr.t1.setIfInBounds d.toNat a }

def execMtabClr (s : State) : Out :=
  uniIssue .mtabClr s (fun _ => uniUses [] []) fun _ gr => { gr with t0 := identityTable, t1 := identityTable }

/-- MELD: the next n slots of the fragment form the region. -/
def execMeld (d : BitVec 6) (i : BitVec 14) (s : State) : Out :=
  runIssue s fun c => do
    c.prep (.meld d i) true (uniUses [.m d.toNat] [])
    let path := c.mv d.toNat &&& c.lanes
    let s1 := (finish s c c.g).updGroup c.who.group fun g => g.updFrag c.who.index fun f =>
      { f with meldLeft := i.toInt.toNat, meldPath := path }
    .ok (traceEmit s s1 c.g c.who.index 5 (leBytes (gidByte c.g.gid c.who.index) 1 ++ leBytes path.toNat 4 ++ leBytes i.toInt.toNat 1))

/-! ## NOP and IFENCE (R172, R174) -/

/-- NOP may stand in a melded region (R188). -/
def execNop (s : State) : Out :=
  runIssue s fun c => do
    c.prep .nop false (uniUses [] [])
    .ok (finish s c c.g)

/-- IFENCE drops the fragment's fetch buffer, and from then on it takes no slot from a loop buffer. -/
def execIfence (s : State) : Out :=
  runIssue s fun c => do
    c.prep .ifence true (uniUses [] [])
    .ok ((finish s c c.g).updGroup c.who.group fun g => g.updFrag c.who.index fun f => { f with fetched := [], inLoop := none, fenced := true })

end Sys2Proof.Machine
end

