-- ==== Sys2Proof/Machine/Supply.lean ====
section
/-! DEFINITION. Instruction supply and the choice of what issues: fetch buffers and loop buffers (R157, R173, R176), the
fetch of a slot and its place in R86, readiness and the winners of a cycle (R150, R151). -/

namespace Sys2Proof.Machine

/-! ## Loop buffers (R157, R173) -/

/-- Whether a loop buffer holds the bundle at an address for a context. -/
def LoopBuf.holds (b : LoopBuf) (core quarter ctx base : Nat) : Bool :=
  b.core = core && b.quarter = quarter && b.ctx = ctx && b.bundles.any fun p => p.1 = base

/-- Whether a bundle lies in a loop buffer's body. -/
def LoopBuf.spans (b : LoopBuf) (core quarter ctx base : Nat) : Bool :=
  b.core = core && b.quarter = quarter && b.ctx = ctx && decide (b.base ≤ base) && decide (base < b.base + 16 * b.count)

/-- The address of the bundle that holds a slot. -/
def bundleBase (pc : DWord) : Nat := pc.toNat / 16 * 16

/-- The quarter captures a bundle of a body it is recording, as the fetch finds it (R157). -/
def capture (s : State) (w : FragId) (ctx base : Nat) (b : BitVec 128) : State :=
  { s with loopBufs := s.loopBufs.map fun l =>
      if l.spans w.core w.quarter ctx base && !l.stale && !(l.bundles.any fun p => p.1 = base) then
        { l with bundles := l.bundles ++ [(base, b)] }
      else l }

/-- A fetch from memory, which the recording loop buffers capture: what they hold was in memory at the time of a fetch (R176). -/
def fetchAfresh (s : State) (w : FragId) (ctx base : Nat) : Fetched :=
  match fetchBundle s w.core ctx base with
  | .got b s1 => .got b (capture s1 w ctx base b)
  | x => x

/-- The bundle that a loop buffer gives a fragment, and whether the buffer is stale: one that is not, or the one whose pass the
fragment is executing (R157, R173). A fragment that has issued an IFENCE takes none (R172). -/
def loopBundle (s : State) (w : FragId) (ctx : Nat) (f : Fragment) (base : Nat) : Option (Bool × BitVec 128) :=
  if f.fenced then none
  else
    (s.loopBufs.find? fun b => b.holds w.core w.quarter ctx base && (!b.stale || f.inLoop = some b.id)).bind fun b =>
      (b.bundles.find? fun p => p.1 = base).map fun p => (b.stale, p.2)

/-- What a fragment issues from: a stale loop buffer may still supply any bundle of the current pass, or memory may (R173). -/
def supply (s : State) (w : FragId) (ctx : Nat) (f : Fragment) : Fetched :=
  let base := bundleBase f.pc
  match f.fetched.find? fun p => p.1 = base with
  | some p => .got p.2 s
  | none =>
    match loopBundle s w ctx f base with
    | some (false, x) => .got x s
    | some (true, x) => if Config.freeNat 7 s.freeCtr % 2 = 0 then .got x s.fresh else fetchAfresh s.fresh w ctx base
    | none => fetchAfresh s w ctx base

/-- The loop buffer that a fragment executes from at a bundle: the one it is in while that spans the bundle, or one that is not
stale and passes `ok`. -/
def loopAt (s : State) (w : FragId) (ctx : Nat) (f : Fragment) (base : Nat) (ok : LoopBuf → Bool) : Option Nat :=
  if f.fenced then none
  else
    match s.loopBufs.find? fun l => f.inLoop = some l.id && l.spans w.core w.quarter ctx base with
    | some l => some l.id
    | none => (s.loopBufs.find? fun l => ok l && !l.stale && l.spans w.core w.quarter ctx base).map (·.id)

/-- A fragment's fetch buffer after it takes a bundle: two bundles, the one it issues from and the one after it. A fragment
whose PC lies in a captured body issues from the buffer. -/
def keepFetched (s : State) (w : FragId) (ctx : Nat) (f : Fragment) (base : Nat) (b : BitVec 128) : Fragment :=
  { f with
    fetched := (base, b) :: f.fetched.filter fun p => p.1 = base + 16
    inLoop := loopAt s w ctx f base fun l => l.holds w.core w.quarter ctx base }

/-- Whether a fragment's next bundle is in its fetch buffer or in a loop buffer (R150). -/
def hasBundle (s : State) (w : FragId) (ctx : Nat) (f : Fragment) : Bool :=
  (f.fetched.any fun p => p.1 = bundleBase f.pc) || (loopBundle s w ctx f (bundleBase f.pc)).isSome

/-! ## Readiness (R150, R151) -/

/-- A group that may issue: allocated or running, in a running context that has resumed its suspended engine operations (R91), in a
block that is not halted (R148, R407), and not stopped at its stake for pre-emption (R161). -/
def groupLive (s : State) (g : Group) : Bool :=
  (g.state == .allocated || g.state == .running)
    && (match s.ctx? g.ctx with
      | some c => c.state = 2 && (c.result = 4 || !s.engines.any fun e => e.ctx = g.ctx && e.suspended)
      | none => false)
    && (match s.block? g.kid g.block with
      | some b => b.debug = .run
      | none => false)
    && !(g.preemptAt.isSome && g.stake.valid && !g.h) && !g.stopped

/-- Groups that a pre-emption concerns. -/
def preemptable (g : Group) (ctx : Nat) : Bool := g.ctx = ctx && (g.state == .allocated || g.state == .running)

/-- A pre-emption of the group's context is still to reach it, in this cycle (R175). -/
def reachDue (s : State) (g : Group) : Bool :=
  preemptable g g.ctx && g.preemptAt.isNone && (s.ctx? g.ctx).any fun c => c.state = 2 && c.result = 4

/-- A fragment that does not wait (R150). -/
def fragLive (f : Fragment) : Bool := f.park.isNone

/-- The class of a fragment: its role's priority, or 4 once promoted (R151). -/
def fragClass (g : Group) (f : Fragment) : Nat := if f.class4 then 4 else g.prio

/-- The order of R151: higher class, then ready longest, then the lower slot, then the lower index. -/
def before (a b : Group × Fragment) : Bool :=
  let ca := fragClass a.1 a.2
  let cb := fragClass b.1 b.2
  if ca ≠ cb then ca > cb
  else if a.2.readySince ≠ b.2.readySince then a.2.readySince < b.2.readySince
  else if a.1.at_.slot ≠ b.1.at_.slot then a.1.at_.slot < b.1.at_.slot
  else a.2.index < b.2.index

def pickBest : List (Group × Fragment) → Option (Group × Fragment)
  | [] => none
  | x :: t =>
    match pickBest t with
    | none => some x
    | some y => if before x y then some x else some y

/-- The word of the fragment's next slot, if it can be read. -/
def nextWord (s : State) (g : Group) (f : Fragment) : Option Word :=
  match supply s (fragOf g f) g.ctx f with
  | .got b _ => some (bundleWord b (f.pc.toNat / 4 % 4))
  | _ => none

/-- Whether the fragment's next slot holds a uniform instruction (R75); a slot that cannot be read counts as one. -/
def nextUniform (s : State) (g : Group) (f : Fragment) : Bool :=
  (nextWord s g f).elim true BitVec.msb

/-- The last wake of a fragment takes effect in a cycle, or later. -/
def Fragment.waking (f : Fragment) (now : Nat) : Bool := f.wokeAt ≠ 0 && decide (now ≤ f.wokeAt)

/-- The fragments of a group whose stall has elapsed and that do not wait: all of R150 but the supply of the next bundle. One that
wakes in the cycle in which pre-emption reaches the group counts as still parked (R175). -/
def unstalled (s : State) (g : Group) : List Fragment :=
  let now := s.cycleOf g.at_.core
  if groupLive s g then
    g.frags.filter fun f => fragLive f && decide (f.readyAt ≤ now) && !(reachDue s g && f.waking now)
  else []

/-- The ready fragments of a quarter at its field's present cycle. -/
def readyIn (s : State) (core quarter : Nat) : List (Group × Fragment) :=
  (s.groups.filter fun g => g.at_.core = core && g.at_.quarter = quarter).flatMap fun g =>
    ((unstalled s g).filter fun f => hasBundle s (fragOf g f) g.ctx f).map fun f => (g, f)

/-- The lane winner and the uniform winner of a quarter (R151). -/
def winners (s : State) (core quarter : Nat) : List FragId :=
  let ready := readyIn s core quarter
  let lane := pickBest (ready.filter fun p => !nextUniform s p.1 p.2)
  let lw := (lane.map fun p => fragOf p.1 p.2).toList
  let uni := pickBest (ready.filter fun p => nextUniform s p.1 p.2 && !lw.contains (fragOf p.1 p.2))
  lw ++ (uni.map fun p => fragOf p.1 p.2).toList

/-! ## The order of one cycle (R13, R116, R134, R340, R374, R382) -/

/-- The place of an instruction among those that reach a controller in one cycle: queue operations by kind (R116), collectives by
partition (R374), and sends before changes of circuits (R382). -/
def kindRank (part : Nat) : Option Instr → Nat × Nat
  | some (.qenq _ _ _ _ _) => (1, 0)
  | some (.qdeq _ _ _ _ _) => (2, 0)
  | some (.qsteal _ _ _ _) => (3, 0)
  | some (.qinfo _ _) => (4, 0)
  | some (.qcap _ _ _) => (4, 0)
  | some (.yield _) => (5, 0)
  | some (.pconv _ _ _ _) => (5, 0)
  | some (.pld _ _ _ _) => (5, 0)
  | some (.coll _ _ _) => (6, part)
  | some (.xsend _ _ _) => (7, 0)
  | some (.reconf _ _ _) => (8, 0)
  | some (.slots _ _ _) => (8, 0)
  | _ => (0, 0)

/-- The unit of a core to which an instruction presents its request (R13): 1 the scratchpad, 2 the accumulator store, 3 the range-lock
table, which admits the operations of the matrix engine and of the request engine, 5 the tile table, 6 the L1 cache with the
outstanding-request slots; 0 for none. The retirement tracker is unit 7. -/
def unitOf : Instr → Nat
  | .ldl _ _ _ _ _ => 1
  | .stl _ _ _ _ _ => 1
  | .atoml _ _ _ _ _ => 1
  | .bari _ _ => 1
  | .bariBytes _ => 1
  | .bara _ _ _ => 1
  | .barw _ _ => 1
  | .bart _ _ _ _ => 1
  | .barx _ => 1
  | .trd _ _ _ => 2
  | .trdSt _ _ => 2
  | .twr _ _ _ => 2
  | .mma _ _ _ => 3
  | .mmag _ _ _ _ => 3
  | .cpyk _ _ => 3
  | .talloc _ _ _ _ => 5
  | .tfree _ => 5
  | .tinfo _ _ => 5
  | .tinfoFree _ => 5
  | .ld _ _ _ _ _ => 6
  | .st _ _ _ _ _ => 6
  | .ldf _ _ _ _ _ => 6
  | .sld _ _ _ _ _ => 6
  | .sst _ _ _ _ _ => 6
  | .pref _ _ _ => 6
  | .atomC _ _ _ _ _ => 6
  | .atomD _ _ _ _ _ => 6
  | .atomS _ _ _ _ _ => 6
  | .xchg _ _ _ _ _ => 6
  | .cas _ _ _ _ _ => 6
  | .red _ _ _ _ _ => 6
  | _ => 0

/-- The unit of a group's next instruction: a TZERO goes to the store that holds its tile. -/
def requestUnit (s : State) (g : Group) : Instr → Nat
  | .tzero a =>
    if (s.tileOf (s.domOf g) (refHandle (g.sAt (s.cycleOf g.at_.core) a.toNat))).any fun t => t.level == .a then 2 else 1
  | i => unitOf i

/-- The instruction of a winner's next slot. -/
def nextInstr (s : State) (g : Group) (w : FragId) : Option Instr :=
  ((g.frag? w.index).bind (nextWord s g)).bind fun x => (decodeWord x).toOption

/-- The key of a winner. A controller takes kinds in the order of `kindRank`, and of one kind by core, quarter and group slot (R116); a
unit of a core takes the quarters round-robin (R13). Of one group the lower index comes first. -/
def turnKey (s : State) (w : FragId) : List Nat :=
  match s.group? w.group with
  | none => []
  | some g =>
    let i := nextInstr s g w
    let r := kindRank ((s.ctx? g.ctx).elim 0 (·.part)) i
    let unit := i.elim 0 (requestUnit s g)
    if r.1 = 0 then [0, 0, w.core, unit, quarterTurn s w.core unit w.quarter, w.slot, w.index]
    else [r.1, r.2, w.core, w.quarter, w.slot, w.index]

/-- A unit serves a winner's quarter. -/
def serve (s : State) (w : FragId) : State :=
  match s.group? w.group with
  | none => s
  | some g =>
    let unit := (nextInstr s g w).elim 0 (requestUnit s g)
    if unit = 0 then s
    else serveUnit s w.core unit w.quarter

def insertTurn (x : List Nat × FragId) : List (List Nat × FragId) → List (List Nat × FragId)
  | [] => [x]
  | y :: t => if keyLe x.1 y.1 then x :: y :: t else y :: insertTurn x t

/-- The fragments that wait for their next bundle alone. -/
def hungry (s : State) : List FragId :=
  s.groups.flatMap fun g => ((unstalled s g).filter fun f => !hasBundle s (fragOf g f) g.ctx f).map (fragOf g)

/-- The fetch of a fragment's next bundle is an illegal access: the fragment traps at its slot (R86). -/
def fetchTraps (s : State) (w : FragId) : Bool :=
  match (s.group? w.group).bind fun g => (g.frag? w.index).map fun f => supply s w g.ctx f with
  | some (.illegal _) => true
  | _ => false

/-- The winners of every quarter that holds a group, and the fragments whose fetch traps, in the order in which they reach the
units. -/
def allWinners (s : State) : List FragId :=
  let ws := (((s.groups.map fun g => (g.at_.core, g.at_.quarter)).eraseDups).flatMap fun q => winners s q.1 q.2)
    ++ (hungry s).filter (fetchTraps s)
  (ws.foldr (fun w acc => insertTurn (turnKey s w, w) acc) []).map (·.2)

/-! ## The next slot -/

/-- What a fragment's turn to issue comes to. -/
inductive Slot where
  /-- The fragment cannot issue now. -/
  | idle (s : State)
  | issue (i : Instr) (s : State)

/-- The control byte of slot `k` (R60, R61). -/
def controlByte (b : BitVec 128) (k : Nat) : Nat := (b.extractLsb' (24 - 8 * k) 8).toNat

/-- The opcode of a control transfer (R65). -/
def isTransfer (w : Word) : Bool :=
  w.msb && [0x28, 0x29, 0x2A, 0x2B, 0x2C, 0x2D, 0x32, 0x33, 0x34, 0x38, 0x3E].contains (w.toNat / 2 ^ 24 % 128)

/-- An `allocated` group that first issues is `running` (R148), and a block's first slot starts its trace (R432). -/
def startGroup (s : State) (g : Group) : State :=
  if g.state = .allocated then
    let s1 := s.updGroup g.at_ fun x => { x with state := .running }
    match s1.ctx? g.ctx with
    | some c =>
      if c.trace.follows g && !c.trace.started && !c.trace.dropping then
        putSync s1 g.ctx g.at_.core (s1.cycleOf g.at_.core) (c.trace.startListing s)
      else s1
    | none => s1
  else s

/-- The fragment has its bundle: the fetch buffer and the group's state follow. -/
def takeBundle (s : State) (w : FragId) (g : Group) (f : Fragment) (b : BitVec 128) : State :=
  startGroup (s.updGroup w.group fun x => x.updFrag w.index fun y => keepFetched s w g.ctx y (bundleBase f.pc) b) g

/-- The issuer that a slot of a bundle makes. -/
def issuerOf (w : FragId) (b : BitVec 128) (k : Nat) : Issuer :=
  let cb := controlByte b k
  let lit := if bundleKind b = 1 ∧ k = 2 then some (bundleWord b 3) else none
  { who := w, lit := lit, stall := cb / 32, la := cb.testBit 0, lb := cb.testBit 1, ld := cb.testBit 2,
    word := bundleWord b k }

/-- A faulty bundle or a misplaced control transfer comes before an illegal word (R86). A PC that is no slot of its bundle, as
slot 3 of one that has become literal, issues nothing of it: it traps as a faulty bundle does (R63, log 92). -/
def decodeSlot (s : State) (w : FragId) (pc : DWord) (b : BitVec 128) : Slot :=
  let k := pc.toNat / 4 % 4
  let word := bundleWord b k
  let s1 := { s with cur := some (issuerOf w b k) }
  if bundleFaulty b || !slotOk b pc.toNat || (bundleKind b = 1 && isTransfer word) then .issue .faultyBundle s1
  else
    match decodeWord word with
    | .ok i => .issue i s1
    | .error _ => .issue .illegalInstruction s1

/-- A fetch of the next bundle that gives none: an absent page parks the fragment at its slot (R297), and an illegal access traps
with cause 0x09, the bundle's address in FADDR and the code in FINFO (R86, log 91). -/
def fetchStops (s : State) (w : FragId) (g : Group) (f : Fragment) : Fetched → State
  | .got _ _ => s
  | .absent => parkOnFault s w g.ctx (BitVec.ofNat 64 (bundleBase f.pc)) 2 (BitVec.ofNat 64 (bundleBase f.pc)) 0 f.pc
  | .illegal code => takeTrap s w 9 (BitVec.ofNat 64 (bundleBase f.pc)) (BitVec.ofNat 64 code) f.pc f.pc

/-- The next bundle of a fragment is fetched into its buffer; the fragment becomes ready when it has it (R150, R157). -/
def fillFrag (s : State) (w : FragId) : State :=
  match s.group? w.group with
  | none => s
  | some g =>
    match g.frag? w.index with
    | none => s
    | some f =>
      match supply s w g.ctx f with
      | .got b s1 => s1.updGroup w.group fun x => x.updFrag w.index fun y =>
          { keepFetched s1 w g.ctx y (bundleBase f.pc) b with readySince := max y.readySince (s.cycleOf w.core) }
      | x => fetchStops s w g f x

/-- A fragment that is ready in the present cycle (R150). -/
def stillReady (s : State) (w : FragId) : Bool :=
  (s.group? w.group).any fun g => (unstalled s g).any fun f => f.index = w.index

/-- The next slot of a fragment (R62 to R65, R86): its bundle is fetched, and a fault on that parks it (R297); a faulty
bundle or a misplaced control transfer, and a reserved word, are the steps of R62 and R84. -/
def nextIssue (s : State) (w : FragId) : Slot :=
  match s.group? w.group with
  | none => .idle s
  | some g =>
    match g.frag? w.index with
    | none => .idle s
    | some f =>
      if !groupLive s g || !fragLive f then .idle s
      else
        let s0 := s.tick (cyclesTo s w.core f.readyAt)
        if s0.cycleOf w.core < f.readyAt then .idle s
        else
          match supply s0 w g.ctx f with
          | .got b s1 => decodeSlot (takeBundle s1 w g f b) w f.pc b
          | x => .idle (fetchStops s0 w g f x)

end Sys2Proof.Machine
end

