-- ==== Sys2Proof/Machine/Control.lean ====
section
/-! DEFINITION. Control transfers, divergence and the end of a group (R64, R65, R79, R167 to R171, R181 to R185, R189,
R190, R416, R417). -/

namespace Sys2Proof.Machine

/-! ## Taking a transfer -/

/-- A loop buffer that is stale and from which no fragment executes is discarded (R173). -/
def dropStale (s : State) : State :=
  { s with loopBufs := s.loopBufs.filter fun b => !b.stale || s.groups.any fun g =>
      g.frags.any fun f => f.inLoop = some b.id }

/-- The fragment's supply after a taken transfer (R157, R173): a backward one fetches afresh, or begins a pass of a loop buffer that
is not stale. -/
def Fragment.transfer (f : Fragment) (s : State) (w : FragId) (ctx : Nat) (target : DWord) (back : Bool) : Fragment :=
  let base := bundleBase target
  if back then { f with fetched := [], inLoop := loopAt s w ctx { f with inLoop := none } base fun _ => true }
  else { f with inLoop := loopAt s w ctx f base fun _ => false }

/-- A taken transfer of the issuing fragment to a checked target. -/
def transferTo (s : State) (c : Iss) (g : Group) (target : DWord) : State :=
  let s1 := finishAt s c g target
  dropStale (s1.updGroup c.who.group fun x => x.updFrag c.who.index fun f =>
    f.transfer s1 c.who c.g.ctx target (target.toNat ≤ c.pc.toNat))

/-- The target of a UB instruction (R64, R79). -/
def Iss.target (c : Iss) (disp : BitVec 16) : DWord := c.pc + BitVec.ofInt 64 (4 * disp.toInt)

/-- The names a condition reads (R79). -/
def condNames (c : Iss) (cond r : BitVec 4) : List RName :=
  if cond.toNat = 0 then [] else if cond.toNat ≤ 3 then [c.emName, .m r.toNat] else [.s r.toNat]

/-- Whether the condition holds (R79). -/
def Iss.taken (c : Iss) (cond r : BitVec 4) : Bool := condTaken cond.toNat (c.mv r.toNat) (c.sv r.toNat) c.em

/-- The BR packet of a conditional transfer; an unconditional direct one writes none (R414). -/
def condPacket (cond : BitVec 4) (taken : Bool) : Option (Nat × Bool) :=
  if cond.toNat = 0 then none else some (taken.toNat, false)

/-! ## BRA, LOOPB and the calls (R170, R184, R185) -/

def execBra (cond r : BitVec 4) (p : BitVec 16) (s : State) : Out :=
  runIssue s fun c => do
    c.prep (.bra cond r p) true (uniUses (condNames c cond r) [])
    if c.taken cond r then
      let s1 ← c.checkTarget s (c.target p)
      .ok (traceBranch s (transferTo s1 c c.g (c.target p)) c.g c.who.index (condPacket cond true) c.pc (some (c.target p)))
    else .ok (traceBranch s (finish s c c.g) c.g c.who.index (condPacket cond false) c.pc none)

/-- The body of a LOOPB is not in a loop buffer: a free one is claimed, or the least recently used one that no fragment
executes from; with none the loop runs from the cache (R157). -/
def claimLoop (s : State) (c : Iss) (target : DWord) : State :=
  let lo := bundleBase target
  let n := (bundleBase c.pc - lo) / 16 + 1
  let core := c.who.core
  let q := c.who.quarter
  let id := s.loopBufs.foldl (fun m b => max m (b.id + 1)) 0
  let fresh : LoopBuf := ⟨id, core, q, c.g.ctx, lo, n, [], false, c.now⟩
  let mine := s.loopBufs.filter fun b => b.core = core && b.quarter = q
  let busy (b : LoopBuf) : Bool := s.groups.any fun g =>
    g.frags.any fun f => f.inLoop = some b.id
  if mine.any fun b => b.ctx = c.g.ctx && b.base = lo && b.count = n && !b.stale then
    { s with loopBufs := s.loopBufs.map fun b =>
        if b.core = core && b.quarter = q && b.ctx = c.g.ctx && b.base = lo && !b.stale then { b with used := c.now } else b }
  else if mine.length < 4 then { s with loopBufs := s.loopBufs ++ [fresh] }
  else
    match (mine.filter fun b => !busy b).foldl (fun (acc : Option LoopBuf) b =>
        match acc with
        | none => some b
        | some a => if b.used < a.used then some b else some a) none with
    | some old => { s with loopBufs := s.loopBufs.erase old ++ [fresh] }
    | none => s

/-- LOOPB (R170): as BRA backward over at most 32 bundles, with the capture of R157 when taken. Its range is checked at item 3 of
R86 (log 113). -/
def execLoopb (cond r : BitVec 4) (p : BitVec 16) (s : State) : Out :=
  runIssue s fun c => do
    c.prepOwn (.loopb cond r p) true (uniUses (condNames c cond r) [])
      (need (decide ((c.pc.toNat : Int) / 16 - (c.pc.toNat + 4 * p.toInt) / 16 ≤ 31)) 1)
    if c.taken cond r then
      let s1 ← c.checkTarget s (c.target p)
      .ok (traceBranch s (transferTo (claimLoop s1 c (c.target p)) c c.g (c.target p)) c.g c.who.index
        (condPacket cond true) c.pc (some (c.target p)))
    else .ok (traceBranch s (finish s c c.g) c.g c.who.index (condPacket cond false) c.pc none)

/-- The group with the issuing fragment's return stack replaced. -/
def Group.setStack (g : Group) (c : Iss) (st : List DWord) : Group := g.updFrag c.who.index fun f => { f with rstack := st }

/-- A transfer that the depth and target checks allow, with a new return stack. -/
def jumpWith (s : State) (c : Iss) (packet : Option (Nat × Bool)) (target : DWord) (st : List DWord) : Act := do
  let s1 ← c.checkTarget s target
  .ok (traceBranch s (transferTo s1 c (c.g.setStack c st) target) c.g c.who.index packet c.pc (some target))

def execJmpi (a : BitVec 6) (s : State) : Out :=
  runIssue s fun c => do
    c.prep (.jmpi a) true (uniUses [.s a.toNat] [])
    jumpWith s c (some (1, true)) (c.sv a.toNat) c.f.rstack

/-- CALL: at depth 16 it traps with FINFO = 1. -/
def execCall (p : BitVec 16) (s : State) : Out :=
  runIssue s fun c => do
    c.prepOwn (.call p) true (uniUses [] []) (need (c.f.rstack.length < 16) 1 none 1)
    jumpWith s c none (c.target p) (c.next :: c.f.rstack)

def execCalli (a : BitVec 6) (s : State) : Out :=
  runIssue s fun c => do
    c.prepOwn (.calli a) true (uniUses [.s a.toNat] []) (need (c.f.rstack.length < 16) 1 none 1)
    jumpWith s c (some (1, true)) (c.sv a.toNat) (c.next :: c.f.rstack)

/-- RET: at depth 0 it traps with cause 0x02 and FADDR = 0. -/
def execRet (s : State) : Out :=
  runIssue s fun c => do
    c.prep .ret true (uniUses [] [])
    match c.f.rstack with
    | [] => trapWith 2 (some 0)
    | t :: rest => jumpWith s c (some (1, true)) t rest

/-! ## SPLIT and REGANG (R182, R183) -/

/-- The slices of the issuing fragment that go to the target (R182). -/
def splitTaken (c : Iss) (all : Bool) (m : Word) : BitVec 8 :=
  BitVec.ofNat 8 ((List.range 8).foldl (fun acc k =>
    let a := c.em &&& lanesOf (1#8 <<< k)
    let go := c.f.slices.getLsbD k && a != 0 && (if all then m &&& a == a else m &&& a != 0)
    acc + (if go then 2 ^ k else 0)) 0)

/-- m[r] after a SPLIT: in em, the lanes whose slice went the other way. -/
def splitResidue (c : Iss) (t : BitVec 8) (m : Word) : Word := m ^^^ (c.em &&& lanesOf t)

/-- The residue is written at once (log 18), in the lanes of em alone: what other lanes hold, or are still to take, stays (R179). -/
def Group.writeResidue (g : Group) (c : Iss) (t : BitVec 8) (r : Nat) (m : Word) : Group :=
  { g with
    mregs := g.mregs.setIfInBounds r ((g.mNew r &&& ~~~c.em) ||| (splitResidue c t m &&& c.em))
    pend := g.pend.map fun p => if p.name = .m r then { p with lanes := p.lanes &&& ~~~c.em } else p }

/-- The lowest invalid entry of the split table. -/
def Group.freeIndex (g : Group) : Nat := ((List.range 8).find? fun i => g.frags.all fun f => f.index != i).getD 8

/-- The group split: the new fragment goes on at the target, the issuing one keeps the other slices; class and age of both are those
of a fragment that has just issued. A write of em that is not yet readable stays so in both. -/
def Group.divide (g : Group) (c : Iss) (t : BitVec 8) (target : DWord) : Group :=
  let n := g.freeIndex
  let stay := c.f.slices &&& ~~~t
  let new : Fragment :=
    { c.f with
      index := n, slices := t, em := c.f.em &&& lanesOf t, pc := target, fetched := [], inLoop := none, tags := [], keptFloor := none
      class4 := false, readyAt := c.now + 1 + c.stall, readySince := c.now + 1 + c.stall }
  { g with
    frags := (g.frags.map fun f => if f.index = c.who.index then { f with slices := stay, em := f.em &&& lanesOf stay } else f)
      ++ [new]
    pend := (g.pend.filter fun p => p.name != .em n) ++ (g.pend.filter fun p => p.name = .em c.who.index).map fun p => { p with name := .em n }
    board := (g.board.filter fun b => b.name != .em n)
      ++ (g.board.filter fun b => b.name = .em c.who.index).map fun b => { b with name := .em n } }

def execSplit (cond r : BitVec 4) (p : BitVec 16) (s : State) : Out :=
  runIssue s fun c => do
    c.prep (.split cond r p) true (uniUses [c.emName, .m r.toNat] [.m r.toNat])
    let m := c.mv r.toNat
    let t := splitTaken c (cond.toNat = 2) m
    let g := c.g.writeResidue c t r.toNat m
    if t = 0 then .ok (traceBranch s (finish s c g) c.g c.who.index (some (0, false)) c.pc none)
    else
      let s1 ← c.checkTarget s (c.target p)
      if t = c.f.slices then
        .ok (traceBranch s (transferTo s1 c g (c.target p)) c.g c.who.index (some (1, false)) c.pc (some (c.target p)))
      else
        .ok (traceEvent s (finish s1 c (g.divide c t (c.target p))) c.g c.who.index [c.who.index, g.freeIndex] false
          (some (3, leBytes (gidByte c.g.gid c.who.index) 1 ++ leBytes g.freeIndex 1 ++ leBytes t.toNat 1))
          ((c.target p).toNat / 2 ^ 32 ≠ c.pc.toNat / 2 ^ 32))

/-- Fusing fragments of one class (R183): equal PC and equal return stack. -/
def sameClass (a b : Fragment) : Bool := a.pc = b.pc && a.rstack = b.rstack

/-- The fusion of a list of fusing fragments, in increasing index. -/
def fuseAll (now : Nat) : List Fragment → List Fragment → List Fragment
  | done, [] => done
  | done, f :: t =>
    if done.any (sameClass f) then
      fuseAll now (done.map fun d => if sameClass f d then
        { d with slices := d.slices ||| f.slices, em := d.em ||| f.em, readyAt := max d.readyAt f.readyAt,
                 tags := d.tags ++ f.tags } else d) t
    else fuseAll now (done ++ [f]) t

/-- Whether every fragment of the group waits at a REGANG. -/
def Group.allFusing (g : Group) : Bool := !g.frags.isEmpty && g.frags.all fun f => f.park = some .regang

/-- The cycle from which every fixed-latency write of the group is readable (R68). -/
def Group.settledAt (g : Group) (from_ : Nat) : Nat := g.pend.foldl (fun acc p => max acc p.ready) from_

/-- A fragment issues its next slot no earlier than a cycle. -/
def Fragment.notBefore (f : Fragment) (t : Nat) : Fragment := { f with readyAt := max f.readyAt t, readySince := max f.readyAt t }

/-- A group that a fusion or an EXIT leaves as one fragment, outside the handler, keeps no failed SYNCL (R189); one that fails in a group
of one fragment stays failed, past TRET too, until the next of them (log 20). -/
def Group.clearFailed (g : Group) : Group :=
  if g.frags.length = 1 && !g.h then { g with syncl := g.syncl.filter fun i => i.failed.isNone } else g

/-- The group after the fusion: every fusing fragment goes on at the slot after its REGANG, once the register writes before it are
readable (R67, R215), and one fragment that remains applies the deferred records and clears failed SYNCLs (R155, R183, R189). -/
def Group.fuse (g : Group) (now : Nat) : Group :=
  let sorted := (List.range 8).flatMap fun i => g.frags.filter fun f => f.index = i
  let fused := (fuseAll now [] sorted).map fun f => (f.resume (nextSlot f.pc false) now).notBefore (g.settledAt now)
  let g1 : Group := ({ g with frags := fused } : Group).clearFailed
  if fused.length = 1 then g1.applyDeferred else g1

/-- One FUSE packet for each survivor that took another in (R414). -/
def traceFuse (pre s : State) (g : Group) : State :=
  let sorted := (List.range 8).flatMap fun i => g.frags.filter fun f => f.index = i
  (fuseAll 0 [] sorted).foldl (fun st f =>
    let merged := (sorted.filter fun x => sameClass x f && x.index != f.index).foldl (fun acc x => acc + 2 ^ x.index) 0
    if merged = 0 then st
    else traceEvent pre st g f.index ((List.range 8).filter fun i => i = f.index || merged.testBit i) true
      (some (4, leBytes (gidByte g.gid f.index) 1 ++ leBytes f.slices.toNat 1 ++ leBytes merged 1)) false) s

/-- The fusion, once every fragment of the group waits at a REGANG (R181, R183). -/
def fuseGroup (pre s : State) (gid : GroupId) : State :=
  match s.group? gid with
  | none => s
  | some g => if g.allFusing then traceFuse pre (s.setGroup (g.fuse (s.cycleOf gid.core))) g else s

/-- REGANG: alone it has no effect beyond its stall; the last fragment to reach one brings about the fusion. -/
def execRegang (s : State) : Out :=
  runIssue s fun c => do
    c.prep .regang true (uniUses [] [])
    if c.g.frags.length = 1 then .ok (finish s c c.g)
    else .ok (fuseGroup s (holdAt s c c.g .regang) c.who.group)

/-! ## SYNCL (R189, R190) -/

/-- The mask that an instance has been supplied, if any. -/
def SynclInst.supplied (i : SynclInst) : Option Word := if i.arrived = 0 then none else some i.mask

/-- The first lane found at fault when the fragment arrives: first a lane of em whose mask differs or lacks its own bit, then a named
lane that is absent or has exited, each in increasing order (log 93). -/
def synclFault (c : Iss) (a : Nat) (old : Option Word) (absent live : Word) : Option Nat :=
  let first := lowestOne c.em
  let m0 : Word := old.getD (if c.em = 0 then 0 else c.v a first)
  match (List.range 32).find? fun i => bitOf c.em i && (c.v a i != m0 || !bitOf (c.v a i) i) with
  | some i => some i
  | none => (List.range 32).find? fun i => bitOf m0 i && (bitOf absent i || !bitOf live i)

/-- The fragment waits at a SYNCL of a PC. -/
def Fragment.waitsSyncl (f : Fragment) (pc : DWord) : Bool :=
  match f.park with
  | some (.syncl p _) => p = pc
  | _ => false

/-- The group's failed instance: the fragments that wait on it stand at it again. -/
def Group.failSyncl (g : Group) (pc : DWord) (lane : Nat) : Group :=
  { g with
    syncl := upsert g.syncl (fun i => i.pc = pc) ⟨pc, 0, 0, 0, some lane⟩
    frags := g.frags.map fun f => if f.waitsSyncl pc then { f with park := none } else f }

/-- The fragments that wait at a SYNCL, in increasing index. -/
def Group.atSyncl (g : Group) (pc : DWord) : List Nat :=
  (List.range 8).filter fun i => g.frags.any fun f => f.index = i && f.waitsSyncl pc

/-- Every fragment at the failed instance traps with cause 0x07; the lowest index takes the trap (R99). -/
def synclTrap (s : State) (c : Iss) (lane : Nat) : State :=
  let first := (c.g.atSyncl c.pc).foldl min c.who.index
  takeTrap (s.setGroup (c.g.failSyncl c.pc lane)) { c.who with index := first } 7 0 (BitVec.ofNat 64 lane) c.pc c.pc

/-- The group when the instance completes: its waiting fragments go on, once the register writes before it have landed
(R190). -/
def Group.completeSyncl (g : Group) (c : Iss) : Group :=
  { g with
    syncl := g.syncl.filter fun i => i.pc != c.pc
    frags := g.frags.map fun f =>
      if f.waitsSyncl c.pc then (f.resume (nextSlot c.pc false) c.now).notBefore (g.settledAt (c.now + 1)) else f }

/-- SYNCL (R189): a fragment with em = 0 supplies no mask and goes on, and its lanes are absent from the open instance. -/
def execSyncl (a : BitVec 6) (s : State) : Out :=
  runIssue s fun c => do
    c.prep (.syncl a) true { vr := [⟨a.toNat, 1, 0⟩], vw := [], nr := [c.emName], nw := [], rl := c.em, wl := 0 }
    let inst : SynclInst := (c.g.syncl.find? fun i => i.pc = c.pc).getD ⟨c.pc, 0, 0, 0, none⟩
    match inst.failed with
    | some lane => .ok (takeTrap s c.who 7 0 (BitVec.ofNat 64 lane) c.pc c.pc)
    | none =>
      let absent := inst.absent ||| (c.lanes &&& ~~~c.em)
      match synclFault c a.toNat inst.supplied absent c.g.liveLanes with
      | some lane => .ok (synclTrap s c lane)
      | none =>
        let m := inst.supplied.getD (if c.em = 0 then 0 else c.v a.toNat (lowestOne c.em))
        let arrived := inst.arrived ||| c.em
        let g1 := { c.g with syncl := upsert c.g.syncl (fun i => i.pc = c.pc) ⟨c.pc, m, arrived, absent, none⟩ }
        if c.em = 0 then .ok (finish s c g1)
        else if arrived &&& m = m then
          .ok ((finish s c (c.g.completeSyncl c)).updGroup c.who.group fun g =>
            g.updFrag c.who.index fun f => f.notBefore (c.g.settledAt (c.now + 1 + c.stall)))
        else .ok (holdAt s c g1 (.syncl c.pc c.em))

/-! ## TAIL, EXIT and YIELD (R167, R168) -/

/-- The group ends: it stops issuing and its outstanding work stays with it until it retires (R148). -/
def Group.toTail (g : Group) (c : Iss) : Group :=
  { g with state := .tail, frags := [], endPc := c.pc, syncl := [], loose := g.loose ++ (c.f.after c c.pc).issuedTags }

def traceExit (pre s : State) (c : Iss) (tail : Bool) : State :=
  traceEmit pre s c.g c.who.index 6 (leBytes (gidByte c.g.gid c.who.index) 1 ++ leBytes c.f.slices.toNat 1 ++ leBytes tail.toNat 1)

def execTail (s : State) : Out :=
  runIssue s fun c => do
    c.prepOwn .tail true (uniUses [] []) (need (c.g.frags.length = 1) 1)
    need (!c.g.h) 9
    .ok (traceExit s (s.setGroup (c.g.toTail c)) c true)

/-- The open SYNCL instances that name a lane that has exited, with that lane (R189). -/
def Group.goneSyncl (g : Group) : List (DWord × Nat) :=
  g.syncl.filterMap fun i =>
    if i.failed.isSome || i.arrived = 0 then none
    else ((List.range 32).find? fun k => bitOf i.mask k && !bitOf g.liveLanes k).map fun lane => (i.pc, lane)

/-- A waiting fragment of the failing instances that takes the trap: the lowest index (R99). -/
def Group.goneWaiter (g : Group) (xs : List (DWord × Nat)) : Option (Nat × DWord × Nat) :=
  (List.range 8).findSome? fun k => (xs.find? fun x => (g.atSyncl x.1).contains k).map fun x => (k, x)

/-- Each waiting fragment checks its SYNCL again when a fragment has ended (R181, R189): the instances that name a lane that has
exited fail, and a failed instance of a group that is one fragment is cleared. -/
def recheckSyncl (s : State) (gid : GroupId) : State :=
  match s.group? gid with
  | none => s
  | some g =>
    let xs := g.goneSyncl
    let failed := s.setGroup (xs.foldl (fun a x => a.failSyncl x.1 x.2) g)
    let s1 := match g.goneWaiter xs with
      | some (k, pc, lane) => takeTrap failed ⟨gid.core, gid.quarter, gid.slot, k⟩ 7 0 (BitVec.ofNat 64 lane) pc pc
      | none => s
    if g.frags.length = 1 then s1.updGroup gid fun x => { x with syncl := x.syncl.filter fun i => i.failed.isNone } else s1

/-- EXIT ends the fragment's slices; with none left the group ends, and its slot is not refilled. -/
def execExit (s : State) : Out :=
  runIssue s fun c => do
    c.prep .exit true (uniUses [] [])
    need (!c.g.h) 9
    let rest := c.g.frags.filter fun f => f.index != c.who.index
    if rest = [] then .ok (traceExit s (s.setGroup { c.g.toTail c with turnover := none }) c false)
    else
      let g : Group := { c.g with
        frags := rest
        loose := c.g.loose ++ (c.f.after c c.pc).issuedTags
        board := ageBoard c.f.slices c.stall c.g.board }
      .ok (recheckSyncl (traceExit s (s.setGroup g) c false) c.who.group)

/-- YIELD is taken when its block has an open turnover from its role (R134, R168). -/
def yieldTaken (s : State) (c : Iss) : Bool :=
  c.g.frags.length = 1 && !c.melded && !c.g.h &&
    (match s.groupBlock? c.g with
    | some b => (b.turnover.any fun p => p.1 = c.g.role)
    | none => false)

def execYield (p : BitVec 16) (s : State) : Out :=
  runIssue s fun c => do
    c.prep (.yield p) true (uniUses [] [])
    if yieldTaken s c then
      let s1 ← c.checkTarget s (c.target p)
      let y := ((s.groupBlock? c.g).bind (·.turnover)).map (·.2)
      let s2 := transferTo s1 c { c.g with turnover := y } (c.target p)
      .ok (traceBranch s (s2.updBlock c.g.kid c.g.block fun b => { b with turnover := none }) c.g c.who.index
        (some (1, false)) c.pc (some (c.target p)))
    else .ok (traceBranch s (finish s c c.g) c.g c.who.index (some (0, false)) c.pc none)

/-! ## WAIT (R169) -/

/-- The scoreboard forgets the writes a WAIT covers: those counted on `ctr` up to an index. -/
def Group.cover (g : Group) (ctr upto : Nat) : Group :=
  { g with uncovered := g.uncovered.filter fun u => !(u.counter = ctr && u.index ≤ upto) }

def execWait (f : BitVec 4) (i : BitVec 14) (s : State) : Out :=
  runIssue s fun c => do
    c.prep (.wait f i) true (uniUses [] [])
    let upto := c.g.issued.getD f.toNat 0 - i.toNat
    if c.g.level f.toNat ≤ i.toNat then .ok (finish s c (c.g.cover f.toNat upto))
    else .ok (holdAt s c c.g (.counter f.toNat i.toNat upto))

/-! ## ICINV (R171) -/

/-- The cores an ICINV selects. -/
def icinvCores (s : State) (c : Iss) (sel : Nat) : List Nat :=
  match sel with
  | 0 => [c.who.core]
  | 1 => (List.range 4).map (c.who.core / 4 * 4 + ·)
  | _ => (List.range 96).filter fun k => s.groups.any fun g => g.at_.core = k && g.ctx = c.g.ctx

/-- Whether the group has a store that is not yet performed (R169, R171, R310). -/
def Group.storesLeft (g : Group) : Bool := g.ops.any fun o => !o.done && (o.counter = 2 || o.stores ≠ [])

/-- ICINV waits for the group's stores; it marks the loop buffers that overlap the range as stale, those of its own context (log 134). The caches hold nothing
that memory does not (R176). -/
def execIcinv (a b : BitVec 6) (g : BitVec 2) (s : State) : Out :=
  runIssue s fun c => do
    c.prep (.icinv a b g) true (uniUses [.s a.toNat, .s b.toNat] [])
    if c.g.storesLeft then .error (.park s .drain)
    else
      let lo := (c.sv a.toNat).toNat
      let n := (c.sv b.toNat).toNat
      let cores := icinvCores s c g.toNat
      let hit (l : LoopBuf) : Bool := cores.contains l.core && l.ctx = c.g.ctx
        && (n = 0 || (decide (l.base < lo + n) && decide (lo < l.base + 16 * l.count)))
      .ok (finish { s with loopBufs := s.loopBufs.map fun l => if hit l then { l with stale := true } else l } c c.g)

/-! ## BRK and TMARK (R416, R417) -/

def execBrk (i : BitVec 14) (s : State) : Out :=
  runIssue s fun c => do
    c.prep (.brk i) true (uniUses [] [])
    if ((s.ctx? c.g.ctx).elim false (·.brkstop)) && !c.g.h then
      .ok (haltBlock (finish s c c.g) c.g.kid c.g.block 1 i.toNat)
    else .ok (takeTrap s c.who 0x14 0 (i.setWidth 64) c.pc c.pc)

/-- A tag on a slot that is to issue next. -/
def Tag.fresh (now : Nat) (forced : Bool) : Tag :=
  { cycle := now, forced := forced, issued := false, pc := 0, word := 0, em := 0, addr := 0, cause := 0, melded := false,
    ops := [], engines := [], lands := 0, reach := some Reach.nowhere }

/-- Tags the fragment's next slot, unless it is tagged already. -/
def Fragment.tagNext (f : Fragment) (now : Nat) (forced : Bool) : Fragment :=
  if f.tags.any fun t => !t.issued then f else { f with tags := f.tags ++ [Tag.fresh now forced] }

def execTmark (f : BitVec 4) (i : BitVec 14) (s : State) : Out :=
  runIssue s fun c => do
    c.prep (.tmark f i) true (uniUses [] [])
    let s1 := finish s c c.g
    if f.toNat = 0 then
      .ok (traceEmit s s1 c.g c.who.index 8 (leBytes (gidByte c.g.gid c.who.index) 1 ++ leBytes i.toNat 2))
    else if (s.ctx? c.g.ctx).elim false (·.len) then
      .ok (s1.updGroup c.who.group fun g => g.updFrag c.who.index fun f => f.tagNext c.now true)
    else .ok s1

end Sys2Proof.Machine
end

