-- ==== Sys2Proof/Machine/Memory.lean ====
section
/-! DEFINITION. Performing accesses: pending stores and their order (R17, R302, R384), the write-combining buffers, the L1
caches, the cluster units' atomics (R303), the granule tags (R311 to R320) and the vestibule (R321 to R324). -/

namespace Sys2Proof.Machine

/-! ## Plain bytes at their home -/

def GTag.zero : GTag := ⟨0, 0, 0⟩

/-- What a reader takes for the tag of a granule whose home does not answer: a free value (R19, log 3). -/
def lostTag (s : State) (pa : Nat) : GTag :=
  let x := Config.freeNat 61 (s.freeCtr * 2 ^ 48 + pa / 256)
  ⟨x % 16, x / 16 % 16, x / 256 % 4⟩

/-- The tag of the granule that holds a device address, as its home answers. -/
def tagAt (s : State) (pa : Nat) : GTag :=
  if lostRange s pa 1 then lostTag s pa
  else
    match s.tags.find? fun t => t.1 = pa / 256 with
    | some t => t.2
    | none => GTag.zero

/-- The tag that a line carries from its home. -/
def Loc.tag (s : State) : Loc → GTag
  | .device pa => tagAt s pa
  | _ => GTag.zero

/-- The core's own L1 line takes the bytes its stores write through (R302); one that the store takes below final leaves the L1, since a
line below final is always read again at its home (R312). -/
def l1Update (s : State) (core : Nat) (loc : Loc) (bs : List Byte) (l : L1Line) : Option L1Line :=
  if l.core = core && l.loc = loc.line then
    if l.tag.grade = 3 && decide ((loc.tag s).grade ≠ 3) then none
    else some { l with cells := writeBytes l.cells loc.addr bs, tag := loc.tag s }
  else some l

/-- A write is performed at its home. -/
def performBytes (s : State) (core : Nat) (loc : Loc) (bs : List Byte) : State :=
  { writeLoc s loc bs with l1 := s.l1.filterMap (l1Update s core loc bs) }

/-- The result of an atomic operation on a 32-bit word (R305): .add wraps, .min and .max are signed, .fadd rounds to
nearest even with the old value as operand A. -/
def atomOp (op : Nat) (old x : Word) : Word :=
  match op with
  | 0 => old + x
  | 1 => minMode 0 old x
  | 2 => maxMode 0 old x
  | 3 => old &&& x
  | 4 => old ||| x
  | 5 => old ^^^ x
  | _ => BitVec.ofNat 32 (fadd fmt32 .rne old.toNat x.toNat)

def performStoreOp (core : Nat) (s : State) : StoreOp → State
  | .bytes loc data => performBytes s core loc data
  | .reduce loc op x =>
    performBytes s core loc (leBytes (atomOp op (BitVec.ofNat 32 (leNat (readLoc s loc 4))) x).toNat 4)

def StoreOp.loc : StoreOp → Loc
  | .bytes l _ => l
  | .reduce l _ _ => l

def StoreOp.size : StoreOp → Nat
  | .bytes _ d => d.length
  | .reduce _ _ _ => 4

/-! ## The stores of a core that are not yet performed (R17, R384) -/

/-- A store that waits to be performed: its group and its operation. -/
abbrev Waiting := GroupId × OutOp

def insertWaiting (x : Waiting) : List Waiting → List Waiting
  | [] => [x]
  | y :: t => if x.2.seq ≤ y.2.seq then x :: y :: t else y :: insertWaiting x t

/-- The waiting stores of a core, by their order of issue. -/
def waitingStores (s : State) (core : Nat) : List Waiting :=
  let all := (s.groups.filter fun g => g.at_.core = core).flatMap fun g =>
    (g.ops.filter fun o => o.stores ≠ []).map fun o => (g.at_, o)
  all.foldr insertWaiting []

/-- The unit that serves a location: a home slice, or the banks of a tile, numbered after them. -/
def Loc.home (s : State) : Loc → Option Nat
  | .device pa => some (homeSlice s pa)
  | .tile id _ => some (1000 + id)
  | _ => none

/-- The units that an operation's stores go to. -/
def opHomes (s : State) (o : OutOp) : List Nat := o.stores.filterMap fun x => x.loc.home s

/-- An earlier store of a core that must be performed before a later one: to the same home slice, or before a release (R307), which
covers what its group has ordered itself after. -/
def mustPrecede (s : State) (a b : Waiting) : Bool :=
  a.2.seq < b.2.seq && (b.2.release || (opHomes s a.2).any ((opHomes s b.2).contains ·))

/-- The stores that must be performed with those selected, latest first. -/
def closeOver (s : State) : List Waiting → List Waiting → List Waiting
  | sel, [] => sel
  | sel, a :: rest => closeOver s (if sel.contains a || sel.any (mustPrecede s a) then (if sel.contains a then sel else a :: sel) else sel) rest

/-- Performs the stores of one waiting operation; it is done when nothing is left to land either. -/
def performOne (s : State) (w : Waiting) : State :=
  let s1 := w.2.stores.foldl (performStoreOp w.1.core) s
  s1.updGroup w.1 fun g =>
    ({ g with ops := g.ops.map fun o =>
        if o.seq = w.2.seq then { o with stores := [], done := o.lands.isEmpty && o.combining.isEmpty && !o.external } else o } : Group).prune

/-- Performs the selected waiting stores of a core and all that must precede them, in order of issue. -/
def performThose (s : State) (core : Nat) (p : Waiting → Bool) : State :=
  let all := waitingStores s core
  let sel := closeOver s (all.filter p) all.reverse
  (all.filter (sel.contains ·)).foldl performOne s

/-- The core's own stores to a range are performed before its read of it. -/
def flushRange (s : State) (core : Nat) (loc : Loc) (n : Nat) : State :=
  performThose s core fun w => w.2.stores.any fun x => x.loc.meets x.size loc n

/-- A request of the core arrives at a home slice: the core's earlier stores to that slice have arrived before it (R17). -/
def flushHome (s : State) (core : Nat) (loc : Loc) : State :=
  match loc.home s with
  | some h => performThose s core fun w => (opHomes s w.2).contains h
  | none => s

/-- Every waiting store of a group is performed. -/
def flushGroup (s : State) (gid : GroupId) : State := performThose s gid.core fun w => w.1 = gid

/-- Every waiting store of a core is performed. What a group has ordered its accesses after, by a barrier at block scope, lies among
them (R242, R245), so that what it then hands on at a wider scope covers it. -/
def flushCore (s : State) (core : Nat) : State := performThose s core fun _ => true

/-! ## The vestibule (R321 to R324) -/

/-- A held write of a run to bytes that one of its held writes covers takes that write's place (R323). -/
def replaceHeld (es : List VestEntry) (kid : Nat) (loc : Loc) (data : List Byte) : Option (List VestEntry) :=
  if es.any (·.covers kid loc data.length) then
    some (es.map fun e =>
      match e.covers kid loc data.length, e.what with
      | true, .bytes l d => { e with what := .bytes l (patchBytes d (loc.addr - l.addr) data) }
      | _, _ => e)
  else none

def replaceSend (es : List VestEntry) (kid dest dctx : Nat) (dst : DWord) (data : List Byte) : Option (List VestEntry) :=
  if es.any (·.coversSend kid dest dctx dst data.length) then
    some (es.map fun e =>
      match e.coversSend kid dest dctx dst data.length, e.what with
      | true, .send c x a d => { e with what := .send c x a (patchBytes d (dst.toNat - a.toNat) data) }
      | _, _ => e)
  else none

/-- An outward write enters the vestibule: released at OUTGRADE final, else held and bound to its run (R321). -/
def vestPut (s : State) (ctx part kid outgrade : Nat) (va : DWord) (w : Outward) : State :=
  let node := ((s.kernel? kid).bind (·.node)).or ((s.engines.find? fun e => e.kid = kid).bind (·.node))
  let e : VestEntry := ⟨s.nextVest, ctx, part, kid, node, va, outgrade = 3, w⟩
  let replaced : Option (List VestEntry) :=
    if outgrade = 3 then none
    else
      match w with
      | .bytes loc data => replaceHeld s.vest kid loc data
      | .send dest dctx dst data => replaceSend s.vest kid dest dctx dst data
      | .ring _ _ _ => none
  match replaced with
  | some es => { s with vest := es }
  | none => { s with vest := s.vest ++ [e], nextVest := s.nextVest + 1 }

/-! ## Write combining (R302) -/

/-- A combining line of a remote or host page enters the vestibule, each run of its bytes as one write (R302, R321). -/
def drainOut (s : State) (l : WcLine) (o : WcOut) : State :=
  l.runs.foldl (fun a r =>
    vestPut a l.ctx o.part o.kid o.outgrade (o.va + BitVec.ofNat 64 r.1) (.bytes (l.loc.add r.1) r.2)) s

/-- A combining line goes to its home, or outward; the operations that wait for it alone are done. -/
def drainLine (s : State) (l : WcLine) : State :=
  let s0 := flushHome { s with wcb := s.wcb.erase l } l.core l.loc
  let s1 : State := match l.out with
    | some o => drainOut s0 l o
    | none => l.bytes.foldl (fun (a : State) b => performBytes a l.core (l.loc.add b.1) [b.2]) s0
  { s1 with groups := s1.groups.map fun g =>
      if g.at_.core = l.core then
        ({ g with ops := g.ops.map fun o =>
            if o.combining.contains l.loc then
              let left := o.combining.filter fun x => x != l.loc
              { o with combining := left, done := o.done || (left.isEmpty && o.stores.isEmpty) }
            else o } : Group).prune
      else g }

/-- Drains the lines of a core that a predicate selects, oldest first. -/
def drainCore (s : State) (core : Nat) (p : WcLine → Bool) : State :=
  (s.wcb.filter fun l => l.core = core && p l).foldl drainLine s

/-- Bytes enter the core's combining buffer: a full buffer drains its oldest line, a full line drains at once. -/
def combine (s : State) (core ctx : Nat) (gid : GroupId) (loc : Loc) (bs : List Byte) (now : Nat) (out : Option WcOut) : State :=
  let s := drainCore s core fun l => l.loc = loc.line && l.out ≠ out
  let new : List (Nat × Byte) := bs.mapIdx fun i b => (loc.addr % 256 + i, b)
  let put (old : List (Nat × Byte)) : List (Nat × Byte) := (old.filter fun p => !new.any fun q => q.1 = p.1) ++ new
  let mine := s.wcb.filter fun l => l.core = core
  let s1 :=
    if mine.any fun l => l.loc = loc.line then
      { s with wcb := s.wcb.map fun l => if l.core = core && l.loc = loc.line then { l with bytes := put l.bytes } else l }
    else
      let s0 := if mine.length < 16 then s else
        match mine.head? with
        | some old => drainLine s old
        | none => s
      { s0 with wcb := s0.wcb ++ [⟨core, ctx, loc.line, now, put [], gid, out⟩] }
  drainCore s1 core fun l => l.bytes.length = 256

/-! ## Reads by a core (R302) -/

/-- Overlays the core's own combining bytes on bytes read from a W page. -/
def overlay (ps : List (Nat × Byte)) (off : Nat) (bs : List Byte) : List Byte :=
  bs.mapIdx fun i b => ((ps.find? fun p => p.1 = off + i).map (·.2)).getD b

/-- A line enters its core's L1, which holds 256 KiB, 1,024 lines; the oldest of a full one leaves (R1, R13, log 8). -/
def addLine (s : State) (x : L1Line) : State :=
  let mine := s.l1.filter fun l => l.core = x.core
  let keep := if mine.length < 1024 then s.l1 else
    match mine.head? with
    | some old => s.l1.erase old
    | none => s.l1
  { s with l1 := keep ++ [x] }

/-- Reads through the L1: a hit returns the line as it was filled, and a line may leave at any time (log 8). -/
def l1Read (s : State) (core : Nat) (loc : Loc) (n : Nat) : List Byte × State :=
  let keep := Config.freeNat 1 s.freeCtr % 2 = 0
  match s.l1.find? fun l => l.core = core && l.loc = loc.line with
  | some l =>
    if keep then (readBytes l.cells loc.addr n, s.fresh)
    else
      let s1 := flushHome s core loc
      let l' : L1Line := ⟨core, loc.line, writeBytes [] loc.line.addr (readLoc s1 loc.line 256), loc.tag s1⟩
      (readLoc s1 loc n, { s1.fresh with l1 := s1.l1.map fun x => if x.core = core && x.loc = loc.line then l' else x })
  | none =>
    let s1 := flushHome s core loc
    (readLoc s1 loc n, addLine s1 ⟨core, loc.line, writeBytes [] loc.line.addr (readLoc s1 loc.line 256), loc.tag s1⟩)

/-- A load's bytes, by the page's memory type: N through the L1, W with the own buffer on top, V and O at the home. A line
whose granule is below final is read again at its home slice and leaves the L1 (R312). -/
def coreRead (s : State) (core : Nat) (mt : Nat) (cached : Bool) (loc : Loc) (n : Nat) : List Byte × State :=
  if mt = 0 && cached then l1Read (flushRange s core loc n) core loc n
  else
  let s1 := flushHome s core loc
  match mt with
  | 0 =>
    (readLoc s1 loc n, { s1 with l1 := s1.l1.filter fun l => !(l.core = core && l.loc = loc.line) })
  | 1 =>
    match s1.wcb.find? fun l => l.core = core && l.loc = loc.line with
    | some l => (overlay l.bytes (loc.addr % 256) (readLoc s1 loc n), s1)
    | none => (readLoc s1 loc n, s1)
  | _ => (readLoc s1 loc n, s1)

/-- An acquire at cluster scope or wider drops the core's L1 lines (R302). -/
def dropL1 (s : State) (core : Nat) : State := { s with l1 := s.l1.filter fun l => l.core != core }

/-! ## The cluster units (R15, R303) -/

/-- The cluster unit writes back the bytes that its atomics changed. -/
def clusterBack (s : State) (cl : Nat) : State :=
  let s1 := (s.cluster.filter fun b => b.cluster = cl).foldl (fun a b => writeLoc a (.device b.pa) [b.value]) s
  { s1 with cluster := s1.cluster.filter fun b => b.cluster != cl }

/-- Bytes as the cluster unit holds them. -/
def clusterRead (s : State) (cl pa n : Nat) : List Byte :=
  (memRead s pa n).mapIdx fun i b => ((s.cluster.find? fun c => c.cluster = cl && c.pa = pa + i).map (·.value)).getD b

def clusterWrite (s : State) (cl pa : Nat) (bs : List Byte) : State :=
  { s with cluster := (s.cluster.filter fun c => !(c.cluster = cl && pa ≤ c.pa && c.pa < pa + bs.length))
      ++ bs.mapIdx fun i b => ⟨cl, pa + i, b⟩ }

/-! ## Granule tags (R311, R314, R315) -/

/-- The bits of a tag (R311). -/
def GTag.bits (t : GTag) : Nat := t.depth * 64 + t.ver * 4 + t.grade

def setTag (s : State) (pa : Nat) (t : GTag) : State :=
  { s with tags := (s.tags.filter fun x => x.1 != pa / 256) ++ if t = GTag.zero then [] else [(pa / 256, t)] }

/-- The granule is open to a run (R314): its mark holds the run's KID; `chip` is 0 for a run of this chip. -/
def isOpen (s : State) (pa chip kid : Nat) : Bool :=
  s.marks.any fun m => m.granule = pa / 256 && m.chip = chip && m.kid = kid

def closeGranule (s : State) (pa : Nat) : State := { s with marks := s.marks.filter fun m => m.granule != pa / 256 }

/-- The granule's mark names a run; a slice with more than 3,072 marks drops its oldest (R314). -/
def markGranule (s : State) (pa chip kid : Nat) : State :=
  let sl := homeSlice s pa
  let rest := s.marks.filter fun m => m.granule != pa / 256
  let keep := if (rest.filter fun m => m.slice = sl).length < 3072 then rest else
    match rest.find? fun m => m.slice = sl with
    | some old => rest.erase old
    | none => rest
  { s with marks := keep ++ [⟨sl, pa / 256, chip, kid⟩] }

/-- The cause with which a store into a granule by a run fails (R315); no home answers for a granule of a lost field (R19). -/
def storeFails (s : State) (pa chip kid : Nat) : Option Nat :=
  let t := tagAt s pa
  if lostRange s pa 1 then none
  else if t.grade = 0 || isOpen s pa chip kid then none
  else if t.grade = 3 then some 0x0B
  else if t.ver = 15 then some 0x0D
  else none

/-- Reads of a granule that have been performed and whose data has not landed (R319): run and input. -/
def earlyReads (s : State) (granule : Nat) : List (Nat × Nat) :=
  let pick (kid : Nat) (r : Option GradeRead) : List (Nat × Nat) :=
    r.elim [] fun x => (x.inputs.filter fun i => i.2.2.2 = granule && (i.2.1 = 1 || i.2.1 = 2)).map fun i => (kid, i.1)
  (s.groups.flatMap fun g => g.ops.flatMap fun o => if o.done then [] else pick g.kid o.read)
    ++ s.engines.flatMap fun e =>
      match e.kind with
      | .copy _ _ _ _ _ reads => reads.flatMap (pick e.kid)
      | _ => []

/-- An amendment's report to the queue controller (R318). -/
def reportGranule (s : State) (ctx granule va depth : Nat) : State :=
  { s with reports := s.reports ++ [⟨ctx, granule, va, depth, earlyReads s granule⟩] }

/-- The granule's new tag, mark and report when a run's store is performed (R315, R318, R320); none in a lost field (R19). -/
def storeGranule (s : State) (ctx chip kid depth grade pa va : Nat) : State :=
  let t := tagAt s pa
  let d := min depth 15
  if lostRange s pa 1 then s
  else if t.grade = 0 || isOpen s pa chip kid then
    markGranule (setTag s pa { t with grade := grade, depth := d }) pa chip kid
  else
    reportGranule (markGranule (setTag s pa ⟨d, t.ver + 1, grade⟩) pa chip kid) ctx (pa / 256) (va / 256 * 256) d

/-- The depth of a group's run (R313). -/
def runDepth (s : State) (kid : Nat) : Nat := (s.kernel? kid).elim 0 (·.depth)

/-- What a graded load by a run read from one granule with the tag `t`: its grade, and its version in each listed input that holds
it. -/
def gradeOfTag (s : State) (kid : Nat) (t : GTag) (pa va : Nat) : GradeRead :=
  let ins := (s.kernel? kid).elim [] (·.launch.inputs)
  { lowest := t.grade
    inputs := ((List.range ins.length).filter fun j =>
      let b := ins.getD j (0, 0)
      decide (b.1 ≤ va) && decide (va < b.1 + b.2)).map fun j => (j, t.grade, t.ver, pa / 256) }

/-- What a read of a granule at its home saw. -/
def gradeOf (s : State) (kid pa va : Nat) : GradeRead := gradeOfTag s kid (tagAt s pa) pa va

/-- Joins what two reads saw. -/
def GradeRead.join (a b : GradeRead) : GradeRead := ⟨min a.lowest b.lowest, a.inputs ++ b.inputs⟩

/-- A run's SEEN takes a read (R317): per input the lowest grade and the highest version. -/
def seenAfter (seen : List (Nat × Nat)) (r : GradeRead) : List (Nat × Nat) :=
  r.inputs.foldl (fun acc x =>
    let old := acc.getD x.1 (0, 0)
    (acc ++ List.replicate (x.1 + 1 - acc.length) (0, 0)).set x.1
      (if old.1 = 0 then (x.2.1, x.2.2.1) else (min old.1 x.2.1, max old.2 x.2.2.1))) seen

/-- The data of a graded load lands (R313, R317). -/
def gradeLands (s : State) (gid : GroupId) (r : GradeRead) : State :=
  match s.group? gid with
  | none => s
  | some g =>
    (s.updGroup gid fun x => { x with outgrade := min x.outgrade r.lowest }).updKernel g.kid fun k =>
      { k with seen := seenAfter k.seen r }

end Sys2Proof.Machine
end

