-- ==== Sys2Proof/Machine/RingEntry.lean ====
section
/-! DEFINITION. Entries of host rings (R142, R143) and the released writes that leave the vestibule (R322, R324). -/

namespace Sys2Proof.Machine

/-- A ring descriptor (R142). -/
structure RingDesc where
  hbase : Nat
  log2n : Nat
  vec : Nat
  cmax : Nat
  tmax : Nat
  head : Nat
  tail : Nat
  deriving DecidableEq, Repr

/-- The descriptor at a device address; `none` when its fields break R142. -/
def ringAt (s : State) (pa : Nat) : Option RingDesc :=
  let bs := memRead s pa 32
  let d : RingDesc := ⟨fieldAt bs 0 8, fieldAt bs 8 1, fieldAt bs 10 2, fieldAt bs 12 2, fieldAt bs 16 4, fieldAt bs 24 4, fieldAt bs 28 4⟩
  if 4 ≤ d.log2n ∧ d.log2n ≤ 16 ∧ d.cmax ≠ 0 ∧ d.hbase % (16 * 2 ^ d.log2n) = 0 ∧ fieldAt bs 9 1 = 0 ∧ fieldAt bs 14 2 = 0
      ∧ fieldAt bs 20 4 = 0 then some d else none

/-- A vestibule entry for a ring. -/
def VestEntry.inRing (e : VestEntry) (pa : Nat) : Bool :=
  match e.what with
  | .ring d _ _ => d.toNat = pa
  | _ => false

/-- The ring is full: written and not consumed, or accepted and not yet written (R142, R147). -/
def ringFull (s : State) (pa : Nat) (d : RingDesc) : Bool :=
  decide (2 ^ d.log2n ≤ (d.tail + 2 ^ 32 - d.head) % 2 ^ 32 + (s.vest.filter fun e => e.inRing pa).length)

/-- Raises a vector of a context's virtual function. -/
def raiseVec (s : State) (ctx vec : Nat) : State := { s with msix := s.msix ++ [((s.ctx? ctx).elim 0 (·.vf), vec)] }

/-- The interrupt count of a ring (R143). -/
def ringState (s : State) (ctx : Nat) (desc : DWord) : RingState :=
  (s.rings.find? fun r => r.ctx = ctx && r.desc = desc).getD ⟨ctx, desc, 0, none⟩

def setRing (s : State) (r : RingState) : State := { s with rings := upsert s.rings (fun x => x.ctx = r.ctx && x.desc = r.desc) r }

/-- An entry is written at TAIL; the CMAX-th since the last interrupt raises the vector (R142, R143). -/
def writeEntry (s : State) (ctx : Nat) (desc payload : DWord) (ids : Nat) (d : RingDesc) : State :=
  let at_ := d.hbase + 16 * (d.tail % 2 ^ d.log2n)
  let s1 := { s with
    hostMem := writeBytes s.hostMem at_ (leBytes payload.toNat 8 ++ leBytes d.tail 4 ++ leBytes ids 4)
    mem := memWrite s (desc.toNat + 28) (leBytes (d.tail + 1) 4) }
  let r := ringState s ctx desc
  if r.since + 1 ≥ d.cmax then raiseVec (setRing s1 { r with since := 0, firstAt := none }) ctx d.vec
  else setRing s1 { r with since := r.since + 1, firstAt := some (r.firstAt.getD s.ptpns) }

/-- A released entry leaves: written as the descriptor now gives, or, when that breaks R142, discarded with the ring's other
released entries under one record. -/
def ringLeave (s : State) (e : VestEntry) (desc payload : DWord) (ids : Nat) : State :=
  match ringAt s desc.toNat with
  | some d => writeEntry s e.ctx desc payload ids d
  | none => engineFault { s with vest := s.vest.filter fun x => !(x.inRing desc.toNat && x.released) } e.ctx 9 desc

/-- A released write leaves: it is performed at its destination. -/
def leaveVest (s : State) (e : VestEntry) : State :=
  let s1 := { s with vest := s.vest.filter fun x => x.seq != e.seq }
  match e.what with
  | .bytes loc data => writeLoc s1 loc data
  | .ring desc payload ids => ringLeave s1 e desc payload ids
  | .send _ _ _ _ => s1

/-- Every released write leaves, in order. -/
def leaveAll (s : State) : State := (s.vest.filter (·.released)).foldl (fun a e => if a.vest.contains e then leaveVest a e else a) s

end Sys2Proof.Machine
end

