-- ==== Sys2Proof/Machine/Access.lean ====
section
/-! DEFINITION. The checks of R306 for global accesses by lanes and by scalars, and how loads, stores and atomics are
performed (R261, R289 to R303, R305 to R310, R312 to R316, R321). -/

namespace Sys2Proof.Machine

/-- One access of an instruction: its lane (`none` for an instruction without lanes), its address. -/
structure Acc where
  lane : Option Nat
  ea : DWord
  deriving DecidableEq, Repr

/-- An access that has translated. -/
structure TAcc where
  acc : Acc
  ent : TlbEntry
  loc : Loc
  deriving DecidableEq, Repr

/-- FINFO of R306: the code and the lane. -/
def accFinfo (a : Acc) (code : Nat) : DWord := BitVec.ofNat 64 (code + a.lane.getD 0 * 256)

/-- Fails for the lowest lane whose access breaks a check. -/
def checkAll (as : List Acc) (cause code : Nat) (ok : Acc → Bool) : Except Stop Unit :=
  match as.find? fun a => !ok a with
  | some a => trapWith cause a.ea (accFinfo a code)
  | none => .ok ()

/-! ## Range locks on global memory (R260, R261) -/

/-- The lock with the lowest index that a predicate selects: the one that FINFO names (log 138). -/
def lowestLock (ls : List Lock) (p : Lock → Bool) : Option Lock :=
  (ls.filter p).foldl (fun acc l =>
    match acc with
    | none => some l
    | some m => if l.index < m.index then some l else some m) none

/-- A held entry of a core that meets a byte range. -/
def Lock.meets (l : Lock) (core : Nat) (r : LockRange) (lo n : Nat) : Bool :=
  l.core = core && l.range = r && overlaps l.lo (l.hi - l.lo) lo n

/-- The entry a thread access traps on: any for a write, a destination in trap mode for a read. -/
def lockTrap (s : State) (core : Nat) (r : LockRange) (lo n : Nat) (write : Bool) : Option Lock :=
  lowestLock s.locks fun l => l.meets core r lo n && (write || (l.dest && !l.parkReads))

/-- The entry a read parks on. -/
def lockPark (s : State) (core : Nat) (r : LockRange) (lo n : Nat) : Option Lock :=
  lowestLock s.locks fun l => l.meets core r lo n && l.dest && l.parkReads

/-- FINFO of cause 0x05 (R261). -/
def lockFinfo (l : Lock) (lane : Nat) (offset : Nat) : DWord :=
  BitVec.ofNat 64 (l.index + (if l.dest then 128 else 0) + lane * 256 + offset % 2 ^ 32 * 2 ^ 32)

/-- The rule of R261 for the accesses of one instruction to global memory. -/
def checkLocks (s : State) (c : Iss) (as : List Acc) (size : Nat) (write : Bool) : Except Stop Unit :=
  let r := LockRange.global c.g.ctx
  match as.findSome? fun a => (lockTrap s c.who.core r a.ea.toNat size write).map fun l => (a, l) with
  | some (a, l) => trapWith 5 a.ea (lockFinfo l (a.lane.getD 0) 0)
  | none =>
    match if write then none else as.findSome? fun a => (lockPark s c.who.core r a.ea.toNat size).map fun l => (a, l) with
    | some (a, l) => .error (.park s (.tile l.owner r a.ea.toNat size))
    | none => .ok ()

/-! ## Translation of every lane before any is performed (R294) -/

/-- The lowest address of an instruction that meets a fault (R296). -/
def lowestFault (s : State) (c : Iss) (kind : Nat) (a : Acc) (rest : List Acc) : DWord :=
  (rest.filter fun b => (translate s c.who.core c.g.ctx b.ea.toNat kind).isNone).foldl (fun m b => if b.ea.toNat < m.toNat then b.ea else m) a.ea

def translateAll (s : State) (c : Iss) (kind : Nat) : List Acc → Except Stop (List TAcc × State)
  | [] => .ok ([], s)
  | a :: rest =>
    match translate s c.who.core c.g.ctx a.ea.toNat kind with
    | none => .error (.fault a.ea kind (lowestFault s c kind a rest) (a.lane.getD 0))
    | some (e, s1) =>
      match translateAll s1 c kind rest with
      | .error x => .error x
      | .ok (ts, s2) => .ok (⟨a, e, e.locate a.ea.toNat⟩ :: ts, s2)

/-- Checks 3 to 6 of R306. -/
def accessChecks (s : State) (c : Iss) (as : List Acc) (size : Nat) (write : Bool) : Except Stop (List TAcc × State) := do
  checkAll as 9 1 fun a => a.ea.toNat < 2 ^ 57
  checkAll as 0x0A 0 fun a => a.ea.toNat % size = 0
  checkLocks s c as size write
  translateAll s c (if write then 1 else 0) as

/-- Fails for the lowest lane whose translated access breaks check 7 (R306). -/
def checkPages (ts : List TAcc) (code : Nat) (ok : TAcc → Bool) : Except Stop Unit :=
  match ts.find? fun t => !ok t with
  | some t => trapWith 9 t.acc.ea (accFinfo t.acc code)
  | none => .ok ()

def notCarveOut (t : TAcc) : Bool := !t.ent.inCarveOut t.acc.ea.toNat

def TAcc.isLocal (t : TAcc) : Bool := t.ent.loc = 0
def TAcc.outward (t : TAcc) : Bool := t.ent.loc ≠ 0
/-- The device address of a local access. -/
def TAcc.pa (t : TAcc) : Nat := t.loc.addr

/-- The walker sets D of every clean page that the accesses write (R292). -/
def dirtyAll (s : State) (ts : List TAcc) : State := ts.foldl (fun a t => setDirty a t.ent) s

/-! ## Loads -/

/-- Waiters that a home slice holds: fragments parked on a grade there, not those that poll (R312). -/
def gradeWaiters (s : State) (slice : Nat) : Nat :=
  (s.groups.flatMap fun g => g.frags.filter fun f =>
    match f.park with
    | some (.grade lo _ _ _ false) =>
      (match walk s g.ctx lo with
      | some e => homeSlice s (e.locate lo).addr = slice
      | none => false)
    | _ => false).length

/-- The line of the core's L1 that serves a graded load: one that is final (R312). -/
def finalLine (s : State) (core : Nat) (t : TAcc) : Option L1Line :=
  if t.ent.graded && t.ent.mt = 0 then s.l1.find? fun l => l.core = core && l.loc = t.loc.line && l.tag.grade = 3 else none

/-- The tag that a graded load meets: that of the line that serves it, else that of its home (R21, R312). -/
def seenTag (s : State) (core : Nat) (t : TAcc) : GTag := (finalLine s core t).elim (tagAt s t.pa) (·.tag)

/-- A line that would serve a graded load may have left the L1 before it (log 8). -/
def lineLeaves (core : Nat) (s : State) (t : TAcc) : State :=
  match finalLine s core t with
  | none => s
  | some l => if Config.freeNat 1 s.freeCtr % 2 = 0 then s.fresh else { s.fresh with l1 := s.l1.erase l }

/-- Check 8 for a load (R312): every granule's grade reaches the floor, or the fragment parks. -/
def checkFloor (s : State) (c : Iss) (ts : List TAcc) (floor : Nat) : Except Stop Unit :=
  match ts.find? fun t => t.ent.graded && decide ((seenTag s c.who.core t).grade < floor) with
  | none => .ok ()
  | some t =>
    let va := t.acc.ea.toNat / 256 * 256
    .error (.park s (.grade va 1 floor false (gradeWaiters s (homeSlice s t.pa) ≥ 512)))

/-- The floor of a load: that of its first issue, when it was parked (R325). -/
def Iss.loadFloor (c : Iss) (own : Nat) : Nat := c.f.keptFloor.getD own

/-- A load's bytes for each access, in lane order, and what it saw of graded granules. -/
def loadAll (s : State) (c : Iss) (size : Nat) : List TAcc → List (Acc × Nat) × Option GradeRead × State
  | [] => ([], none, s)
  | t :: rest =>
    let core := c.who.core
    let (bs, s1) := match finalLine (flushRange s core t.loc size) core t with
      | some l => (readBytes l.cells t.loc.addr size, flushRange s core t.loc size)
      | none => coreRead s core t.ent.mt (!t.ent.graded || decide ((tagAt s t.pa).grade = 3)) t.loc size
    let r : Option GradeRead := if t.ent.graded then some (gradeOfTag s c.g.kid (seenTag s core t) t.pa t.acc.ea.toNat) else none
    let (vs, rs, s2) := loadAll s1 c size rest
    ((t.acc, leNat bs) :: vs, (match r, rs with
      | some a, some b => some (a.join b)
      | some a, none => some a
      | none, x => x), s2)

/-- An extension of a loaded value (R305): bytes and whether signed. -/
def extendTo (w : Nat) (size : Nat) (signed : Bool) (x : Nat) : BitVec w :=
  if signed then (BitVec.ofNat (8 * size) x).signExtend w else BitVec.ofNat w x

/-- Size and signedness of LD's f (R305), and of SLD's (R309). -/
def ldForm (f : Nat) : Nat × Bool :=
  match f with
  | 0 => (1, false)
  | 1 => (1, true)
  | 2 => (2, false)
  | 3 => (2, true)
  | 4 => (4, false)
  | _ => (8, false)

def sldForm (f : Nat) : Nat × Bool :=
  match f with
  | 0 => (1, false)
  | 1 => (1, true)
  | 2 => (2, false)
  | 3 => (2, true)
  | 4 => (4, false)
  | 5 => (4, true)
  | _ => (8, false)

/-! ## Ordering bits and fences (R302, R307, R310) -/

/-- Whether the ord bits acquire (01, 11) and release (10, 11). -/
def ordAcq (o : Nat) : Bool := o % 2 = 1
def ordRel (o : Nat) : Bool := o ≥ 2

/-- A release at a scope (1 .c, 2 .d, 3 .s) by a group: the core's combining buffer drains, and at device scope the
cluster writes its atomics' bytes back (R302, R303). -/
def releaseCore (s : State) (core scope : Nat) : State :=
  let s1 := drainCore s core fun _ => true
  if scope ≥ 2 then clusterBack s1 (coreCluster core) else s1

/-- A release whose access is performed at issue: everything before it is performed first. -/
def releaseNow (s : State) (c : Iss) (scope : Nat) : State := releaseCore (flushCore s c.who.core) c.who.core scope

/-- FENCE: the fragment is held until the group's stores are performed (R310). -/
def fenceAct (s : State) (c : Iss) (scope : Nat) : Act :=
  let s1 := releaseCore s c.who.core scope
  match s1.group? c.who.group with
  | none => .ok s1
  | some g =>
    if g.storesLeft then .error (.park s1 .drain)
    else .ok (finish (if scope ≥ 1 then dropL1 s1 c.who.core else s1) c g)

/-- Type O makes every access acq_rel at system scope (R302); the ord bits that then govern. -/
def typeOrd (ts : List TAcc) (o : Nat) : Nat := if ts.any fun t => t.ent.mt = 3 then 3 else o

/-! ## The issue of a load -/

/-- The group as it stands after the memory operations of an instruction, with what the instruction does to it. -/
def withGroup (s : State) (c : Iss) (f : Group → Group) : State :=
  match s.group? c.who.group with
  | some g => finish s c (f g)
  | none => s

/-- A load is performed at issue (its value is fixed); it lands later and counts on `ctr`. -/
def loadAct (s : State) (c : Iss) (as : List Acc) (size o ctr floor : Nat) (opening : Group → Group)
    (lands : List (Acc × Nat) → List Landing) : Act := do
  let (ts, s0) ← accessChecks s c as size false
  checkPages ts 2 notCarveOut
  let s1 := ts.foldl (lineLeaves c.who.core) s0
  checkFloor s1 c ts floor
  let o' := typeOrd ts o
  let s2 := if ordRel o' then releaseNow s1 c 2 else s1
  let (vs, rd, s3) := loadAll s2 c size ts
  let s4 := if ordAcq o' then dropL1 s3 c.who.core else s3
  .ok (withGroup { s4 with seq := s4.seq + 1 } c fun g =>
    (opening g).addOp { OutOp.mk' ctr s4.seq with lands := lands vs, read := rd })

/-! ## Stores -/

/-- Check 8 for a store (R316): 0x0B before 0x0D, with the lowest faulting lane's address. -/
def checkGrades (s : State) (c : Iss) (ts : List TAcc) : Except Stop Unit :=
  let bad (cause : Nat) (t : TAcc) : Bool := t.ent.graded && storeFails s t.pa 0 c.g.kid = some cause
  match ts.find? (bad 0x0B), ts.find? (bad 0x0D) with
  | some t, _ => trapWith 0x0B t.acc.ea (accFinfo t.acc 0)
  | none, some t => trapWith 0x0D t.acc.ea (accFinfo t.acc 0)
  | none, none => .ok ()

/-- The granules of a store's lanes, each once, by its lowest lane. -/
def granuleLanes : List TAcc → List TAcc
  | [] => []
  | t :: rest => if t.ent.graded then t :: (granuleLanes rest).filter fun x => x.pa / 256 ≠ t.pa / 256 else granuleLanes rest

/-- The home slices have reserved the granules of every lane (R316): those that check 8 has found open keep their marks while the others
take theirs, and each granule takes its new tag once (R315). -/
def storeTags (s : State) (c : Iss) (ts : List TAcc) : State :=
  let gs := granuleLanes ts
  let opened (t : TAcc) : Bool := isOpen s t.pa 0 c.g.kid
  (gs.filter opened ++ gs.filter (!opened ·)).foldl (fun a t =>
    storeGranule a c.g.ctx 0 c.g.kid (runDepth a c.g.kid) c.g.outgrade t.pa t.acc.ea.toNat) s

/-- A store to a local page that is performed at issue, behind the core's earlier stores to that home slice (R17). -/
def storeNow (s : State) (c : Iss) (t : TAcc) (data : List Byte) : State :=
  performBytes (flushHome s c.who.core t.loc) c.who.core t.loc data

/-- What the store of each access leaves to be performed: the state, waiting stores, and the combining lines they went to. -/
def storeAll (s : State) (c : Iss) (part : Nat) : List (TAcc × List Byte) → State × List StoreOp × List Loc
  | [] => (s, [], [])
  | (t, data) :: rest =>
    if t.ent.mt = 1 && !t.ent.graded then
      let out : Option WcOut := if t.outward then some ⟨part, c.g.kid, c.g.outgrade, t.acc.ea - BitVec.ofNat 64 (t.loc.addr % 256)⟩ else none
      let (s1, ops, w) := storeAll (combine s c.who.core c.g.ctx c.who.group t.loc data c.now out) c part rest
      (s1, ops, t.loc.line :: w)
    else if t.outward then
      storeAll (vestPut s c.g.ctx part c.g.kid c.g.outgrade t.acc.ea (.bytes t.loc data)) c part rest
    else if t.ent.graded || decide (t.ent.mt ≥ 2) then storeAll (storeNow s c t data) c part rest
    else
      let (s1, ops, w) := storeAll s c part rest
      (s1, .bytes t.loc data :: ops, w)

/-- Those of some lines that the core's combining buffer still holds. -/
def stillCombining (s : State) (c : Iss) (lines : List Loc) : List Loc :=
  lines.eraseDups.filter fun x => s.wcb.any fun l => l.core = c.who.core && l.loc = x

/-- The partition of a group's context. -/
def Iss.part (c : Iss) (s : State) : Nat := (s.ctx? c.g.ctx).elim 0 (·.part)

/-- Held outward writes need room for what they add, in the vestibule or in the combining buffer on their way there; those that replace
bytes held already for their run add nothing (R323). -/
def checkVest (s : State) (c : Iss) (ts : List TAcc) (size : Nat) : Except Stop Unit :=
  let part := c.part s
  let after := (storeAll s c part ((ts.filter TAcc.outward).map fun t => (t, List.replicate size 0))).1
  let n := vestUse after part - vestUse s part
  if n = 0 || c.g.outgrade = 3 || vestRoom s part n then .ok () else .error (.park s (.vestibule n))

/-- A store that acts when it issues, at its home, in the vestibule or in the combining buffer. -/
def TAcc.acts (t : TAcc) : Bool := t.ent.graded || decide (1 ≤ t.ent.mt) || t.outward

/-- An acquiring store is performed before any access that the group issues after it (R307): with what must precede it, at its home
or out of the combining buffer. -/
def acquireStore (s : State) (c : Iss) (seq : Nat) (lines : List Loc) : State :=
  drainCore (performThose s c.who.core fun w => w.1 = c.who.group && w.2.seq = seq) c.who.core fun l => lines.contains l.loc

/-- A store counts on SC until it is performed (R169). A release that acts at issue has every earlier access performed first
(R307). -/
def storeAct (s : State) (c : Iss) (as : List Acc) (size o : Nat) (data : Acc → List Byte) (upd : Group → Group) : Act := do
  let (ts, s1) ← accessChecks s c as size true
  checkPages ts 2 notCarveOut
  checkGrades s1 c ts
  checkVest s1 c ts size
  let s2 := dirtyAll s1 ts
  let o' := typeOrd ts o
  let s3 := if ordRel o' then (if ts.any TAcc.acts then releaseNow s2 c 2 else releaseCore s2 c.who.core 2) else s2
  let (s4, ops, w) := storeAll (storeTags s3 c ts) c (c.part s) (ts.map fun t => (t, data t.acc))
  let s5 := if ordAcq o' then dropL1 s4 c.who.core else s4
  let s6 := withGroup { s5 with seq := s5.seq + 1 } c fun g =>
    (upd g).addOp { OutOp.mk' 2 s5.seq with stores := ops, combining := stillCombining s5 c w, release := ordRel o' }
  .ok (if ordAcq o' then acquireStore s6 c s5.seq w else s6)

/-! ## Atomics (R303 to R305) -/

/-- The scope rules of R303 for an atomic: 1 .c, 2 .d, 3 .s. -/
def atomicAllowed (scope : Nat) (t : TAcc) : Bool :=
  match scope with
  | 1 => t.ent.loc = 0 && !t.ent.graded && decide (t.ent.mt < 2)
  | 2 => t.ent.loc = 0 && !t.ent.graded
  | _ => t.ent.loc ≠ 2 && !t.ent.graded

/-- One lane's read-modify-write in the unit that serves its scope: the old value, and the state with the new one, if any. Each acts whole
at the home, so that a .d and a .s atomic on one word never lose an update of the other (log 88). A .s atomic on a local page goes
through P0 in F0, which does not answer while that field is lost (R15, R19). -/
def rmw (s : State) (c : Iss) (scope size : Nat) (t : TAcc) (f : Nat → Option Nat) : Nat × State :=
  let core := c.who.core
  let cl := coreCluster core
  let s0 := if scope = 2 then flushHome s core t.loc else flushRange s core t.loc size
  let s1 := drainCore s0 core fun l => l.loc = t.loc.line
  if scope = 3 && t.ent.loc = 0 && fieldLost s1 0 then (Config.freeNat 62 s1.freeCtr % 2 ^ (8 * size), s1.fresh)
  else if scope = 1 then
    let s2 := if Config.freeNat 2 s1.freeCtr % 4 = 1 then clusterBack s1.fresh cl else s1.fresh
    let old := leNat (clusterRead s2 cl t.pa size)
    (old, match f old with
      | some x => clusterWrite s2 cl t.pa (leBytes x size)
      | none => s2)
  else
    let old := leNat (readLoc s1 t.loc size)
    (old, match f old with
      | some x => { writeLoc s1 t.loc (leBytes x size) with l1 := s1.l1.filter fun l => !(l.core = core && l.loc = t.loc.line) }
      | none => { s1 with l1 := s1.l1.filter fun l => !(l.core = core && l.loc = t.loc.line) })

/-- The lanes act in increasing order, each on what the lanes before it left (R305). -/
def rmwAll (s : State) (c : Iss) (scope size : Nat) (f : Acc → Nat → Option Nat) : List TAcc → List (Acc × Nat) × State
  | [] => ([], s)
  | t :: rest =>
    let (old, s1) := rmw s c scope size t (f t.acc)
    let (vs, s2) := rmwAll s1 c scope size f rest
    ((t.acc, old) :: vs, s2)

/-- An atomic with a result: on a remote page the released outward writes leave first (R321, R322). It is performed at issue in its unit, landing on LC. -/
def atomicAct (s : State) (c : Iss) (as : List Acc) (scope size o : Nat) (f : Acc → Nat → Option Nat)
    (opening : Group → Group) (lands : List (Acc × Nat) → List Landing) : Act := do
  let (ts, s1) ← accessChecks s c as size true
  checkPages ts 0 (atomicAllowed scope)
  checkPages ts 2 notCarveOut
  checkPages ts 3 fun t => !(t.ent.loc = 1) || c.g.outgrade = 3
  let s2 := dirtyAll s1 ts
  let o' := typeOrd ts o
  let s3 := if ordRel o' then releaseNow s2 c scope else s2
  let s4 := if ts.any (fun t => t.ent.loc = 1) then leaveAll s3 else s3
  let (vs, s5) := rmwAll s4 c scope size f ts
  let s6 := if ordAcq o' then dropL1 s5 c.who.core else s5
  .ok (withGroup { s6 with seq := s6.seq + 1 } c fun g =>
    (opening g).blockStake.addOp { OutOp.mk' 1 s6.seq with lands := lands vs })

end Sys2Proof.Machine
end

