-- ==== Sys2Proof/Machine/Tiles.lean ====
section
/-! DEFINITION. Tiles: handles and references (R251, R252), shapes (R253, R254), the tile tables and banks (R255 to R257),
thread accesses against range locks (R261), and barrier words (R234 to R240). -/

namespace Sys2Proof.Machine

/-! ## Handles (R251, R252, R254) -/

def Tile.size (t : Tile) : Nat := t.rows * t.rb

/-- The core whose banks or accumulator store hold the tile (R254). -/
def Tile.bankCore (t : Tile) : Nat := t.core / 4 * 4 + t.holder

/-- OFF of a tile or barrier reference (R234, R252). -/
def refOff (r : DWord) : Nat := r.toNat / 2 ^ 16 % 2 ^ 32
def refClean (r : DWord) : Bool := decide (r.toNat < 2 ^ 48)

/-- A tile that an instruction of a core may use at levels that `allow` accepts; an A tile only on its own core (R254). -/
def usableTile (s : State) (core dom handle : Nat) (allow : TileLevel → Bool) : Option Tile :=
  (s.tileOf dom handle).filter fun t => allow t.level && (t.level != .a || t.core = core)

def levelSC (l : TileLevel) : Bool := l != .a
def levelA (l : TileLevel) : Bool := l == .a
def levelAny (_ : TileLevel) : Bool := true

/-- The must-be-zero bits of a reference, a case of 0x01 that comes with the others (R86, R234, R252, log 113). -/
def refOwn (r : DWord) (finfo : DWord := 0) : Except Stop Unit := need (refClean r) 1 r finfo

/-- The tile and offset of a tile reference (R252): cause 0x01 for its must-be-zero bits, then 0x10. -/
def tileRef (s : State) (c : Iss) (r : DWord) (allow : TileLevel → Bool) (finfo : DWord := 0) : Except Stop (Tile × Nat) := do
  need (refClean r) 1 r finfo
  match usableTile s c.who.core (s.domOf c.g) (refHandle r) allow with
  | some t => .ok (t, refOff r)
  | none => trapWith 0x10 r finfo

/-- The scope at which an access to a tile executes: block in the core's own banks, else cluster (R15, R254). -/
def tileScope (c : Iss) (t : Tile) : Nat := if t.bankCore = c.who.core then 0 else 1

/-- A release of a group at block (0), cluster (1) or wider scope: at block scope the core's own reads find every earlier
store, so only the combining buffer drains (R302, R307). -/
def releaseScope (s : State) (c : Iss) (scope : Nat) : State :=
  if scope = 0 then releaseCore s c.who.core 0 else releaseNow s c scope

/-- An acquire drops the core's L1 lines at cluster scope and wider (R302). -/
def acquireScope (s : State) (c : Iss) (scope : Nat) : State := if scope = 0 then s else dropL1 s c.who.core

/-! ## Range locks on tiles (R261) -/

def Tile.range (t : Tile) : LockRange := .tile t.dom t.num

/-- The rule of R261 for a tile access without lanes. -/
def tileLock (s : State) (c : Iss) (t : Tile) (lo n : Nat) (write : Bool) (r : DWord) : Except Stop Unit :=
  match lockTrap s c.who.core t.range lo n write with
  | some l => trapWith 5 r (lockFinfo l 0 0)
  | none =>
    if write then .ok ()
    else
      match lockPark s c.who.core t.range lo n with
      | some l => .error (.park s (.tile l.owner t.range lo n))
      | none => .ok ()

/-- The rule of R261 for a tile access by lanes: each lane with its effective offset. -/
def tileLocks (s : State) (c : Iss) (t : Tile) (as : List (Nat × Nat)) (n : Nat) (write : Bool) (r : DWord) :
    Except Stop Unit :=
  match as.findSome? fun a => (lockTrap s c.who.core t.range a.2 n write).map fun l => (a, l) with
  | some (a, l) => trapWith 5 r (lockFinfo l a.1 a.2)
  | none =>
    match if write then none else as.findSome? fun a => (lockPark s c.who.core t.range a.2 n).map fun l => (a, l) with
    | some (a, l) => .error (.park s (.tile l.owner t.range a.2 n))
    | none => .ok ()

/-- Some lock is held on a byte of the tile. -/
def lockOn (s : State) (t : Tile) : Option Lock := lowestLock s.locks fun l => l.range = t.range

/-! ## Shapes (R253) -/

/-- Element size in bits of a shape word's EF. -/
def shapeBits (ef : Nat) : Option Nat :=
  match ElemFmt.of ef with
  | some e => some e.bits
  | none => if ef = 8 then some 64 else if ef = 9 then some 32 else none

/-- Rows and row size of a shape word given in a scalar; `none` when it breaks R253. -/
def shapeOf (x : DWord) : Option (Nat × Nat) :=
  let w := x.toNat
  let ef := w / 16 % 16
  match shapeBits ef with
  | none => none
  | some b =>
    let bits := (w / 2 ^ 10 % 1024 + 1) * b
    if w ≥ 2 ^ 32 ∨ w / 2 ^ 8 % 4 ≠ 0 ∨ w % 16 ≠ 0 ∨ bits % 8 ≠ 0 then none
    else if [16, 32, 64, 128, 256, 512].contains (bits / 8) then some (w / 2 ^ 20 % 4096 + 1, bits / 8) else none

/-- Whether a shape is allowed at a level (R254): S and C up to 3 MiB; A exactly 32 rows of 32 binary64 elements. -/
def shapeAllowed (level : TileLevel) (x : DWord) (rows rb : Nat) : Bool :=
  match level with
  | .a => rows = 32 && rb = 256 && x.toNat / 16 % 16 = 8
  | _ => decide (rows * rb ≤ 3 * 2 ^ 20)

/-! ## The tile tables and the banks (R255 to R257) -/

/-- A tile that holds an entry in a core's table: its domain has a block on the core, or the core allocated or holds it. -/
def entryOn (s : State) (core : Nat) (t : Tile) : Bool :=
  t.state == .live && (t.core = core || t.bankCore = core || s.blocks.any fun b => b.dom = t.dom && b.core = core)

def tableUse (s : State) (core : Nat) : Nat := (s.tiles.filter (entryOn s core)).length

/-- Cores of a domain. -/
def domCores (s : State) (dom : Nat) : List Nat := ((s.blocks.filter fun b => b.dom = dom).map (·.core)).eraseDups

/-- Tiles that take up banks of a core: live, or still being scrubbed. -/
def inBanks (s : State) (core : Nat) : List Tile :=
  s.tiles.filter fun t => t.bankCore = core && t.level != .a && t.state != .saved

def inStore (s : State) (core : Nat) : List Tile :=
  s.tiles.filter fun t => t.bankCore = core && t.level == .a && t.state != .saved

/-- Whether two tiles at given windows meet in a chunk: at bank address A a tile of `w` banks begins at bank
(A − BASE + PHASE) mod 32. -/
def windowsMeet (b1 p1 w1 r1 b2 p2 w2 r2 : Nat) : Bool :=
  let d := (((p2 : Int) - b2 - p1 + b1) % 32).toNat
  overlaps b1 r1 b2 r2 && (decide (d < w1) || decide (d + w2 > 32))

def windowFree (ts : List Tile) (base phase w rows : Nat) : Bool :=
  ts.all fun t => !windowsMeet t.base t.phase (t.rb / 16) t.rows base phase w rows

/-- The first free window at or after window number `i`, in the order of bank address and phase. -/
def findWindow (ts : List Tile) (w rows total : Nat) : Nat → Nat → Option (Nat × Nat)
  | 0, _ => none
  | n + 1, i =>
    let base := i % total / (32 / w)
    let phase := i % total % (32 / w) * w
    if windowFree ts base phase w rows then some (base, phase) else findWindow ts w rows total n (i + 1)

/-- A free window of a core's banks; which one is not defined (R257). -/
def takeWindow (s : State) (core rb rows : Nat) : Option (Nat × Nat) :=
  let w := rb / 16
  let total := (6145 - rows) * (32 / w)
  findWindow (inBanks s core) w rows total total (Config.freeNat 3 s.freeCtr % total)

/-- The lowest free accumulator tile of a core. -/
def takeAcc (s : State) (core : Nat) : Option Nat :=
  (List.range 64).find? fun k => !(inStore s core).any fun t => t.base = k

/-- The lowest tile number that is free in a domain (R251). -/
def freeNumber (s : State) (dom : Nat) : Option Nat :=
  ((List.range 4095).map (· + 1)).find? fun n => !s.tiles.any fun t => t.dom = dom && t.num = n && t.state != .scrubbing

/-- The present GEN of a tile number. -/
def genOf (s : State) (dom num : Nat) : Nat :=
  ((s.gens.find? fun g => g.1 = dom && g.2.1 = num).map (·.2.2)).getD 0

/-- A landing bound to a word of the tile becomes unbound (R438). -/
def unbindTile (t : Tile) (l : LandSlot) : LandSlot :=
  match l.bound with
  | some (r, dom, _) => if dom = t.dom && refHandle r = t.gen * 4096 + t.num then { l with bound := none } else l
  | none => l

/-- A tile's entries are invalidated, GEN advances and its space is scrubbed (R256). -/
def freeTile (s : State) (t : Tile) : State :=
  { s with
    tiles := s.tiles.map fun x => if x.id = t.id then { x with state := .scrubbing } else x
    gens := (s.gens.filter fun g => !(g.1 = t.dom && g.2.1 = t.num)) ++ [(t.dom, t.num, (genOf s t.dom t.num + 1) % 16)]
    contexts := s.contexts.map fun c => { c with landings := c.landings.map (unbindTile t) } }

/-- Why a TALLOC is refused (R266), or the place of the new tile: holder, bank address or accumulator number, phase. -/
def placeTile (s : State) (core dom : Nat) (level : TileLevel) (k rows rb : Nat) : Except Nat (Nat × Nat × Nat × Nat) :=
  let holder := (core % 4 + (if level = .c then k else 0)) % 4
  let bank := core / 4 * 4 + holder
  match freeNumber s dom with
  | none => .error 1
  | some num =>
    if (core :: bank :: domCores s dom).any fun x => tableUse s x ≥ 4096 then .error 1
    else
      match level with
      | .a =>
        (match takeAcc s core with
        | some k => .ok (num, holder, k, 0)
        | none => .error 3)
      | _ =>
        (match takeWindow s bank rb rows with
        | some (b, p) => .ok (num, holder, b, p)
        | none => .error 2)

/-! ## Barrier words (R234 to R240) -/

structure BarWord where
  count : Nat
  target : Nat
  gen : Nat
  kind : Nat
  mbz : Nat
  deriving DecidableEq, Repr

def BarWord.read (bs : List Byte) : BarWord :=
  ⟨fieldAt bs 0 4, fieldAt bs 4 4, fieldAt bs 8 4, fieldAt bs 12 1, fieldAt bs 13 3⟩

def BarWord.bytes (w : BarWord) : List Byte :=
  leBytes w.count 4 ++ leBytes w.target 4 ++ leBytes w.gen 4 ++ leBytes w.kind 1 ++ leBytes w.mbz 3

/-- The word in [127:96] that FINFO holds (R236). -/
def BarWord.head (w : BarWord) : Nat := w.mbz * 256 + w.kind

/-- A generation has passed (R237). -/
def genPassed (gen g : Nat) : Bool :=
  let d := (gen + 2 ^ 32 - g % 2 ^ 32) % 2 ^ 32
  decide (1 ≤ d) && decide (d ≤ 2 ^ 31)

/-- GEN := GEN + 1. -/
def BarWord.advance (w : BarWord) : BarWord := { w with gen := (w.gen + 1) % 2 ^ 32 }

/-- BARA's row of R238 for a word that is open; one whose COUNT a store has left beyond TARGET counts on (log 128). -/
def BarWord.arrive (w : BarWord) : BarWord :=
  if w.count + 1 = w.target then { w.advance with count := 0 } else { w with count := (w.count + 1) % 2 ^ 32 }

/-- BARX's row of R238. -/
def BarWord.leave (w : BarWord) : BarWord :=
  if w.target - 1 = w.count then { w.advance with target := w.target - 1, count := 0 } else { w with target := w.target - 1 }

/-- BART's rows of R239. -/
def BarWord.arm (w : BarWord) (n : Nat) : BarWord :=
  if w.count ≥ w.target + n then { w.advance with count := w.count - (w.target + n), target := 0 }
  else { w with target := w.target + n }

/-- A count of `b` bytes (R239), without the limit on COUNT. -/
def BarWord.add (w : BarWord) (b : Nat) : BarWord :=
  if w.target > 0 ∧ w.count + b ≥ w.target then { w.advance with count := w.count + b - w.target, target := 0 }
  else { w with count := w.count + b }

/-- The word at a barrier reference: the lowest of the codes 0x01, 0x0A and 0x10 that apply (R234). -/
def barRef (s : State) (c : Iss) (r : DWord) (finfo : DWord := 0) : Except Stop (Tile × Nat) := do
  need (refClean r) 1 r finfo
  need (refOff r % 16 = 0) 0x0A r finfo
  match usableTile s c.who.core (s.domOf c.g) (refHandle r) levelSC with
  | some t => if refOff r + 16 ≤ t.size then .ok (t, refOff r) else trapWith 0x10 r finfo
  | none => trapWith 0x10 r finfo

def wordAt (s : State) (t : Tile) (off : Nat) : BarWord := BarWord.read (readLoc s (.tile t.id off) 16)

/-- A change of GEN to `gen` passes the generation that a fragment waits for at the word: what it waits for has happened, whatever the
word holds after (R237). -/
def Fragment.passes (s : State) (g : Group) (t : Tile) (off gen : Nat) (f : Fragment) : Fragment :=
  match f.park with
  | some (.word r x bytes arrived) =>
    if genPassed gen x && refOff r = off && (s.tileOf (s.domOf g) (refHandle r)).any (·.id = t.id) then { f with park := some (.passed r x bytes arrived) }
    else f
  | _ => f

/-- A barrier word is written; a change of its GEN wakes those that it lets pass. -/
def putWord (s : State) (t : Tile) (off : Nat) (w : BarWord) : State :=
  let s1 := writeLoc s (.tile t.id off) w.bytes
  if (wordAt s t off).gen = w.gen then s1
  else { s1 with groups := s1.groups.map fun g => { g with frags := g.frags.map (Fragment.passes s g t off w.gen) } }

/-- The place and value of a word for a barrier instruction: its KIND must be one that the instruction accepts, and its range may not be
locked (R236). The core's own stores to it are performed first. -/
def openWord (s : State) (c : Iss) (r : DWord) (kinds : List Nat) : Except Stop (State × Tile × Nat × BarWord) := do
  let (t, off) ← barRef s c r
  let s1 := flushRange s c.who.core (.tile t.id off) 16
  let w := wordAt s1 t off
  need (w.mbz = 0 && kinds.contains w.kind) 9 r (BitVec.ofNat 64 w.head)
  tileLock s1 c t off 16 true r
  .ok (s1, t, off, w)

/-- Bytes counted by an engine into the word that a reference names in a domain (R239, R240). A word of another KIND, and a
count beyond the limit, are reported with cause 0x09; so is a reference that no longer names a word. A saved tile's word counts, as its
handle stays valid (R256). -/
def countBytes (s : State) (ctx dom : Nat) (r : DWord) (n : Nat) : State :=
  match (s.keptTile dom (refHandle r)).filter fun t => levelSC t.level && decide (refOff r + 16 ≤ t.size) with
  | none => engineFault s ctx 9 r (kindFlags 1)
  | some t =>
    let w := wordAt s t (refOff r)
    if w.kind ≠ 2 then engineFault s ctx 9 r (kindFlags 1)
    else
      let w' := w.add n
      if w'.count ≥ 2 ^ 32 then engineFault (putWord s t (refOff r) { w' with count := 2 ^ 32 - 1 }) ctx 9 r (kindFlags 1)
      else putWord s t (refOff r) w'

/-! ## Held instructions that a unit answers (R115, R266) -/

/-- An answer in s[d] that a program may read in the next slot: written at once and counted as complete. -/
def Group.answer (g : Group) (sl : BitVec 8) (ctr seq n : Nat) (x : DWord) : Group :=
  let g1 := (g.blockS n).overrule sl n
  (({ g1 with
      sregs := g1.sregs.setIfInBounds n x
      pend := g1.pend.filter fun p => p.name != .s n
      board := g1.board.filter fun b => b.name != .s n } : Group).addOp { OutOp.mk' ctr seq with done := true }).prune

/-- An answer without a register. -/
def Group.answered (g : Group) (ctr seq : Nat) : Group := (g.addOp { OutOp.mk' ctr seq with done := true }).prune

/-- A variable-latency scalar result on UC, landing later (R69, R169). -/
def Group.scalarLater (g : Group) (c : Iss) (seq d : Nat) (x : DWord) : Group :=
  (g.openS c 3 d).addOp { OutOp.mk' 3 seq with lands := [.scalar d x] }

end Sys2Proof.Machine
end

