-- ==== Sys2Proof/Machine/Barrier.lean ====
section
/-! DEFINITION. Barrier-word instructions (R238 to R243), the block barrier (R244, R245) and PHASE (R247 to R249). -/

namespace Sys2Proof.Machine

/-! ## Barrier words (R241) -/

/-- BARI: g = 01 initialises a byte-count word, else an arrive word with n = s[b]. -/
def bariAct (i : Instr) (s : State) (a b : BitVec 6) (bytes : Bool) : Out :=
  runIssue s fun c => do
    let r := c.sv a.toNat
    c.prepOwn i true (uniUses (.s a.toNat :: if bytes then [] else [.s b.toNat]) []) (refOwn r)
    let (t, off) ← barRef s c r
    tileLock s c t off 16 true r
    let n := (c.sv b.toNat).toNat
    need (bytes || (decide (1 ≤ n) && decide (n < 2 ^ 32))) 9 r
    let s1 := flushRange s c.who.core (.tile t.id off) 16
    let w : BarWord := if bytes then ⟨0, 0, 0, 2, 0⟩ else ⟨0, n, 0, 1, 0⟩
    .ok (withGroup (putWord s1 t off w) c Group.blockStake)

def execBari (a b : BitVec 6) (s : State) : Out := bariAct (.bari a b) s a b false

def execBariBytes (a : BitVec 6) (s : State) : Out := bariAct (.bariBytes a) s a 0 true

/-- The wait of BARW for a generation of a word, or of a BARA.w whose arrival was counted before it was withdrawn (R237, R243). Counted
bytes are ordered before what follows (R242). -/
def waitWord (s : State) (c : Iss) (r : DWord) (gen : Nat) (arrived : Bool) : Act := do
  let (s1, t, _, w) ← openWord s c r [1, 2]
  if genPassed w.gen gen then
    .ok (withGroup (acquireScope s1 c (if w.kind = 2 then 1 else tileScope c t)) c id)
  else .error (.park s1 (.word r gen (w.kind = 2) arrived))

/-- BARA: the group's earlier accesses come before the arrival (R242); with g = 01 the fragment then waits for the old
generation, and its arrival stands: withdrawn, it waits by BARW when it next runs, and arrives no more (R243). -/
def execBara (d a : BitVec 6) (g : BitVec 2) (s : State) : Out :=
  runIssue s fun c =>
  match c.f.arrived with
  | some (ref, gen) => waitWord s c ref gen true
  | none => do
    let r := c.sv a.toNat
    c.prepOwn (.bara d a g) true (uniUses [.s a.toNat] [.s d.toNat]) (refOwn r)
    c.room s 3
    let (s1, t, off, w) ← openWord s c r [1]
    need (w.target ≠ 0) 9 r
    let scope := tileScope c t
    let s2 := releaseScope s1 c scope
    let w' := w.arrive
    let s3 := putWord { s2 with seq := s2.seq + 1 } t off w'
    let later (x : Group) : Group := x.blockStake.scalarLater c s2.seq d.toNat (BitVec.ofNat 64 w.gen)
    if g.toNat = 0 then .ok (withGroup s3 c later)
    else if genPassed w'.gen w.gen then .ok (withGroup (acquireScope s3 c scope) c later)
    else
      match s3.group? c.who.group with
      | some x => .ok (holdAt s3 c (later x) (.word r w.gen false true))
      | none => .ok s3

/-- BARX (R238). -/
def execBarx (a : BitVec 6) (s : State) : Out :=
  runIssue s fun c => do
    let r := c.sv a.toNat
    c.prepOwn (.barx a) true (uniUses [.s a.toNat] []) (refOwn r)
    let (s1, t, off, w) ← openWord s c r [1]
    need (w.target ≠ 0) 9 r
    let s2 := releaseScope s1 c (tileScope c t)
    .ok (withGroup (putWord s2 t off w.leave) c Group.blockStake)

/-- BARW: waits until the generation s[b][31:0] has passed. -/
def execBarw (a b : BitVec 6) (s : State) : Out :=
  runIssue s fun c => do
    let r := c.sv a.toNat
    c.prepOwn (.barw a b) true (uniUses [.s a.toNat, .s b.toNat] []) (refOwn r)
    waitWord s c r ((c.sv b.toNat).toNat % 2 ^ 32) false

/-- BART (R239). -/
def execBart (d a b : BitVec 6) (g : BitVec 2) (s : State) : Out :=
  runIssue s fun c => do
    let r := c.sv a.toNat
    c.prepOwn (.bart d a b g) true (uniUses [.s a.toNat, .s b.toNat] (if g.toNat = 1 then [.s d.toNat] else [])) (refOwn r)
    if g.toNat = 1 then c.room s 3 else .ok ()
    let (s1, t, off, w) ← openWord s c r [2]
    let n := (c.sv b.toNat).toNat
    need (decide (1 ≤ n) && decide (w.target + n < 2 ^ 32)) 9 r
    let s2 := putWord { s1 with seq := s1.seq + 1 } t off (w.arm n)
    .ok (withGroup s2 c fun x => if g.toNat = 1 then x.scalarLater c s1.seq d.toNat (BitVec.ofNat 64 w.gen) else x)

/-! ## The block barrier (R244, R245) -/

/-- Group indexes of a block whose groups have not retired. -/
def liveGids (s : State) (kid linear : Nat) : List Nat :=
  (s.groups.filter fun g => g.kid = kid && g.block = linear && g.state != .tracked).map (·.gid)

/-- The members of a block's phase: fixed at its first arrival (R244). -/
def openMembers (s : State) (b : Block) : Block :=
  if b.barb = [] ∧ b.phase = [] ∧ b.coll = [] then { b with members := liveGids s b.kid b.linear } else b

/-- The arrivals of a phase that is over go; those for the next phase open it, and fix its members (R244). -/
def endPhase (s : State) (b : Block) : Block :=
  let later (as : List Arrival) : List Arrival := as.filter fun x => !b.members.contains x.gid
  let b' := { b with barb := later b.barb, phase := later b.phase, coll := later b.coll }
  if b'.barb = [] ∧ b'.phase = [] ∧ b'.coll = [] then b' else { b' with members := liveGids s b.kid b.linear }

/-- A PHASE that is given up no longer counts on UC (R247, R169). -/
def Group.dropPhase (g : Group) (x : Arrival) : Group :=
  ({ g with
      ops := g.ops.filter fun o => !(o.counter = 3 && o.index = x.opIndex && o.external)
      uncovered := g.uncovered.filter fun u => !(u.counter = 3 && u.index = x.opIndex && u.name = .s x.dest) } : Group).prune

/-- Every group of a block that stands at a barrier, PHASE or COLL, when another arrives at a different one, traps with cause 0x07 and
FINFO = 2 (R247, R379). -/
def mixedTrap (s : State) (b : Block) : State :=
  let s1 := s.updBlock b.kid b.linear fun b => { b with barb := [], phase := [], coll := [] }
  (b.barb ++ b.phase ++ b.coll).foldl (fun a x =>
    match (a.group? x.who.group).bind fun g => g.frag? x.who.index with
    | some f => takeTrap (a.updGroup x.who.group fun g =>
        (if b.phase.contains x then g.dropPhase x else g).updFrag x.who.index fun f => { f with park := none })
        x.who 7 (openAddr s) 2 f.pc f.pc
    | none => a) s1

/-- The arrival of the issuing fragment. -/
def Iss.arrival (c : Iss) (level dest opIndex : Nat) : Arrival := ⟨c.g.gid, c.who, level, [], dest, opIndex⟩

/-- BARB. -/
def execBarb (s : State) : Out :=
  runIssue s fun c => do
    c.prepOwn .barb true (uniUses [] []) (need (c.g.frags.length = 1) 1)
    match s.groupBlock? c.g with
    | none => .ok (finish s c c.g.blockStake)
    | some b =>
      if b.phase ++ b.coll ≠ [] then .ok (takeTrap (mixedTrap s.fresh b) c.who 7 (openAddr s) 2 c.pc c.pc)
      else
        let s1 := s.updBlock b.kid b.linear fun b =>
          let b' := openMembers s b
          { b' with barb := b'.barb ++ [c.arrival 0 0 0] }
        .ok (holdAt s1 c c.g.blockStake .blockBarrier)

/-- The member groups of a set of arrivals have all arrived or retired. -/
def allArrived (s : State) (b : Block) (as : List Arrival) : Bool :=
  as ≠ [] && (b.members.filter (liveGids s b.kid b.linear).contains).all fun m => as.any fun x => x.gid = m

/-- Every access of a group before its arrival is performed at a scope (R244, R249). -/
def settleGroup (s : State) (scope : Nat) (gid : GroupId) : State :=
  let s1 := if scope = 0 then
      performThose s gid.core fun w => w.1 = gid && w.2.stores.any fun x =>
        match x.loc with
        | .tile _ _ => true
        | _ => false
    else flushCore s gid.core
  releaseCore s1 gid.core scope

/-- A fragment that waits goes on at the slot after its own; in a group that pre-emption has stopped it stays parked, and what it
waited for stands (R250); in a block that is halted that is latched (R408). -/
def resumeFrag (s : State) (w : FragId) : State :=
  s.updGroup w.group fun g => g.updFrag w.index fun f =>
    if blockHalted s g then { f with latch := some (.goOn []) }
    else if g.stopped || g.state == .saved then { f with park := some .released }
    else f.resume (nextSlot f.pc false) (s.cycleOf w.core)

/-- The release of a drained block barrier (R244): BPC advances and every arriver goes on. -/
def releaseBarb (s : State) (b : Block) : State :=
  let s1 := (b.barb.map (·.who.group)).foldl (fun a g => settleGroup a 0 g) s
  let s2 := s1.updBlock b.kid b.linear fun b => endPhase s1 { b with bpc := b.bpc + 1 }
  ((b.barb.filter fun x => b.members.contains x.gid).map (·.who)).foldl resumeFrag s2

/-! ## PHASE (R247 to R249) -/

/-- The LEVELS byte of a level of a group's kernel; 0xFF when it is not declared (R123). -/
def levelByte (s : State) (kid level : Nat) : Nat := nth ((s.kernel? kid).elim [] (·.launch.levels)) level 0xFF

/-- The instance of a level's domain that holds a block (R22, R128, R247). -/
def levelInstance (b : Block) (byte part : Nat) : Nat :=
  match byte / 16 with
  | 4 => b.dom
  | 5 => coreField b.core
  | 6 => 0
  | 7 => part
  | _ => b.linear

/-- The scope bound to a level: 0 block, 1 cluster, 2 device, 3 system; the default is the domain's (R22, R123). -/
def levelScope (byte : Nat) : Nat :=
  match byte % 16 with
  | 3 => 1
  | 4 => 2
  | 5 => 3
  | 15 =>
    (match byte / 16 with
    | 4 => 1
    | 5 => 2
    | 6 => 2
    | 7 => 3
    | _ => 0)
  | _ => 0

/-- Whether the partition owns a port on the chip (R249). -/
def ownsPort (s : State) (part : Nat) : Bool := (s.part? part).elim false (·.ports ≠ 0)

/-! ## The phase tree (R248) -/

/-- Blocks of a kernel in an instance of a level's domain, a saved one in that of the core that it left (log 129). -/
def levelBlocks (s : State) (kid level inst part : Nat) : List Nat :=
  (s.blocks.filter fun b => b.kid = kid && levelInstance b (levelByte s kid level) part = inst && liveGids s kid b.linear ≠ []).map
    (·.linear)

/-- Blocks of an instance that stand at PHASE of a level with every member arrived. -/
def levelArrived (s : State) (kid level inst part : Nat) : List Block :=
  s.blocks.filter fun b => b.kid = kid && levelInstance b (levelByte s kid level) part = inst
    && (b.phase.all fun x => x.level = level || !b.members.contains x.gid) && allArrived s b b.phase

/-- The node's members have all arrived or retired (R248). -/
def nodeGathered (s : State) (n : PhaseNode) : Bool :=
  let there := (levelArrived s n.kid n.level n.inst n.part).map (·.linear)
  there ≠ [] && (n.members.filter (levelBlocks s n.kid n.level n.inst n.part).contains).all there.contains

/-- The reports of an L7 phase. -/
def phaseReportsOf (s : State) (part key phase : Nat) : List PhaseReport :=
  s.phaseReports.filter fun r => r.part = part && r.key = key && r.phase = phase

/-- Chips that have reported an L7 phase. -/
def phaseChips (s : State) (part key phase : Nat) : Nat := ((phaseReportsOf s part key phase).map (·.chip)).eraseDups.length

/-- The window of the last arrival at a node: at L7 that of the last report (R248). -/
def PhaseNode.lastWindow (s : State) (n : PhaseNode) : Nat :=
  if n.level = 7 then (phaseReportsOf s n.part n.key n.phase).foldl (fun w r => max w r.window) n.window else n.window

/-- This chip's number for its next L7 phase of a key. -/
def nextPhase (s : State) (part key : Nat) : Nat :=
  (s.phaseReports.filter fun r => r.part = part && r.key = key && r.chip = s.chipid).length

/-- A block that has arrived opens its node, which fixes the members (R248). Key and K are those of its first member
arrival (log 137). -/
def openPhase (s : State) (b : Block) : State :=
  match b.phase.find? fun x => b.members.contains x.gid with
  | none => s
  | some x =>
    let part := (s.ctx? b.ctx).elim 0 (·.part)
    let inst := levelInstance b (levelByte s b.kid x.level) part
    if !allArrived s b b.phase || s.phases.any fun n => n.kid = b.kid && n.level = x.level && n.inst = inst then s
    else
      let key := x.quad.headD 0
      { s with phases := s.phases ++ [⟨b.kid, x.level, inst, part, 0, key.toNat % 2 ^ 16, key.toNat / 2 ^ 16, levelBlocks s b.kid x.level inst part, false, 0⟩] }

/-- A gathered node notes its window; at L7 this chip reports to the partition. -/
def gatherPhase (s : State) (n : PhaseNode) : State :=
  if n.gathered || !nodeGathered s n then s
  else
    let num := nextPhase s n.part n.key
    let n' := { n with gathered := true, window := s.window n.part, phase := num }
    let s1 := { s with phases := s.phases.map fun x => if x.kid = n.kid && x.level = n.level && x.inst = n.inst then n' else x }
    if n.level = 7 then { s1 with phaseReports := s1.phaseReports ++ [⟨n.part, n.key, num, s.chipid, s.window n.part, []⟩] } else s1

/-- After an arrival or a retirement, nodes open and gather. -/
def advancePhases (s : State) : State :=
  let s1 := s.blocks.foldl openPhase s
  s1.phases.foldl gatherPhase s1

/-- PHASE (R249). -/
def execPhase (f : BitVec 4) (d a : BitVec 6) (s : State) : Out :=
  runIssue s fun c => do
    let level := f.toNat
    c.prepOwn (.phase f d a) true (uniUses (if level = 7 then [.s a.toNat] else []) [.s d.toNat]) (need (c.g.frags.length = 1) 1)
    c.room s 3
    let key := (c.sv a.toNat).toNat
    let k := key / 2 ^ 16
    need (levelByte s c.g.kid level ≠ 0xFF) 9
    need (level ≠ 7 || (decide (key < 2 ^ 32) && decide (1 ≤ k) && decide (k ≤ 4096) && ownsPort s (c.part s))) 9
    match s.groupBlock? c.g with
    | none => .ok (finish s c c.g.blockStake)
    | some b =>
      if b.barb ++ b.coll ≠ [] ∨ b.phase.any fun x => x.level ≠ level then
        .ok (takeTrap (mixedTrap s.fresh b) c.who 7 (openAddr s) 2 c.pc c.pc)
      else
        let x : Arrival := { c.arrival level d.toNat (c.g.nextIndex 3) with
          quad := [BitVec.ofNat 64 (if level = 7 then key else 0)] }
        let s1 := s.updBlock b.kid b.linear fun b =>
          let b' := openMembers s b
          { b' with phase := b'.phase ++ [x] }
        let g := ((c.g.blockStake).openS c 3 d.toNat).addOp { OutOp.mk' 3 s1.seq with lands := [.scalar d.toNat 0], external := true }
        .ok (advancePhases (holdAt { s1 with seq := s1.seq + 1 } c g (.phase level)))

/-- A group's BPC, result and fragment when its level completes (R247, R249); a result that another fragment's later write has
overruled is not written (R179). -/
def releaseMember (s : State) (b : Block) (x : Arrival) : State :=
  let s1 := s.updGroup x.who.group fun g =>
    { g with ops := g.ops.map fun o =>
        if o.counter = 3 && o.index = x.opIndex then
          { o with lands := o.lands.map fun _ => .scalar x.dest ((b.bpc + 1).setWidth 64), external := false } else o }
  resumeFrag s1 x.who

/-- A block's release from PHASE. -/
def releasePhaseBlock (s : State) (scope : Nat) (b : Block) : State :=
  let here := b.phase.filter fun x => b.members.contains x.gid
  let s1 := (here.map (·.who.group)).foldl (fun a g => dropL1 (settleGroup a scope g) g.core) s
  let s2 := here.foldl (fun a x => releaseMember a b x) s1
  s2.updBlock b.kid b.linear fun b => endPhase s2 { b with bpc := b.bpc + 1 }

end Sys2Proof.Machine
end

