-- ==== Sys2Proof/Machine/Engines.lean ====
section
/-! DEFINITION. Engine operations: range-lock entries and admission (R260, R261), global accesses by an engine (R265, R312,
R315, R323), and copies (R262 to R265, R386). -/

namespace Sys2Proof.Machine

/-! ## Entries (R260, R261) -/

/-- Cores that hold a group of a context. -/
def ctxCores (s : State) (ctx : Nat) : List Nat :=
  ((s.groups.filter fun g => g.ctx = ctx && (g.state == .allocated || g.state == .running)).map (·.at_.core)).eraseDups

/-- A range of one side joins the hull of that side, if there is one. -/
def addHull : List Hull → Hull → List Hull
  | [], h => [h]
  | x :: t, h =>
    if x.core = h.core ∧ x.range = h.range ∧ x.dest = h.dest then { x with lo := min x.lo h.lo, hi := max x.hi h.hi } :: t
    else x :: addHull t h

/-- A destination waits for any held entry it overlaps, a source for a held destination. -/
def hullBlocked (s : State) (h : Hull) : Bool :=
  s.locks.any fun l => l.meets h.core h.range h.lo (h.hi - h.lo) && (h.dest || l.dest)

/-- Free entries of a table; the parts that are left of one entry share its index. -/
def tableFree (s : State) (core : Nat) : Nat :=
  64 - ((s.locks.filter fun l => l.core = core).map (·.index)).eraseDups.length

/-- Entries that a list of hulls needs in one table. -/
def hullNeed (hs : List Hull) (core : Nat) : Nat := (hs.filter fun h => h.core = core).length

/-- No operation may need more than 64 entries of a table. -/
def hullsFit (hs : List Hull) : Bool := hs.all fun h => hullNeed hs h.core ≤ 64

/-- Whether the entries of an operation can be registered now. -/
def canAdmit (s : State) (hs : List Hull) : Bool :=
  !hs.any (hullBlocked s) && hs.all fun h => hullNeed hs h.core ≤ tableFree s h.core

/-- Registers one entry at the lowest free index of its table. -/
def registerHull (owner : Nat) (s : State) (h : Hull) : State :=
  match (List.range 64).find? fun k => !s.locks.any fun l => l.core = h.core && l.index = k with
  | some k => { s with locks := s.locks ++ [⟨h.core, k, owner, h.range, h.dest, h.parkReads, h.lo, h.hi⟩] }
  | none => s

def registerHulls (s : State) (owner : Nat) (hs : List Hull) : State := hs.foldl (registerHull owner) s

/-- The owner of an operation's entry: the destination of a matrix instruction is the entry of its accumulator tile's chain (R281). -/
def Engine.owner (e : Engine) (h : Hull) : Nat :=
  match e.kind with
  | .mma acc _ _ _ _ _ _ _ => if h.dest then chainOwner acc else e.id
  | _ => e.id

/-- The entries that an operation has still to register: a chain's entry that is held is joined (R281). -/
def Engine.toRegister (s : State) (e : Engine) (hs : List Hull) : List Hull :=
  hs.filter fun h => e.owner h = e.id || !s.locks.any fun l => l.owner = e.owner h

/-- An operation registers its entries. -/
def registerAll (s : State) (e : Engine) (hs : List Hull) : State := (e.toRegister s hs).foldl (fun a h => registerHull (e.owner h) a h) s

/-- What is left of a lock's range when `[lo, hi)` is released. -/
def Lock.without (l : Lock) (lo hi : Nat) : List Lock :=
  (if l.lo < min lo l.hi then [{ l with hi := min lo l.hi }] else []) ++ (if max hi l.lo < l.hi then [{ l with lo := max hi l.lo }] else [])

/-- Part of an operation's destination entries is released (R343, R381). -/
def releaseRange (s : State) (owner : Nat) (r : LockRange) (lo hi : Nat) : State :=
  { s with locks := s.locks.flatMap fun l => if l.owner = owner && l.dest && l.range = r then l.without lo hi else [l] }

/-- The cores' entries for a global range of a context (R343, R369, R380). -/
def globalHulls (s : State) (ctx : Nat) (dest parkReads : Bool) (lo hi : Nat) : List Hull :=
  (ctxCores s ctx).map fun k => ⟨k, .global ctx, dest, parkReads, lo, hi⟩

/-! ## Global accesses by an engine -/

/-- Why an engine's access does not proceed: a translation fault, a grade below the floor, no vestibule room, or a cause that
stops the operation, with FLAGS of its record (R102). -/
inductive EngineStop where
  | fault (va : DWord) (kind : Nat)
  | grade
  | room
  | fail (cause : Nat) (va : DWord) (flags : Nat)
  deriving DecidableEq, Repr

/-- The entry that an engine's access to a virtual address uses. -/
def engineEntry (s : State) (core ctx : Nat) (va : DWord) (kind : Nat) : Except EngineStop (TlbEntry × State) :=
  if va.toNat ≥ 2 ^ 57 then .error (.fail 9 va (kindFlags kind))
  else
    match translate s core ctx va.toNat kind with
    | none => .error (.fault va kind)
    | some (e, s1) => if e.inCarveOut va.toNat then .error (.fail 9 va (kindFlags kind)) else .ok (e, s1)

/-- Bytes of one beat that an engine reads at device scope, under a floor (R312). A read of the host or of another chip comes behind the
released writes (R322, R431). -/
def engineRead (s : State) (core ctx kid floor : Nat) (va : DWord) (n : Nat) :
    Except EngineStop (List Byte × Option GradeRead × State) :=
  match engineEntry s core ctx va 0 with
  | .error x => .error x
  | .ok (e, s1) =>
    let loc := e.locate va.toNat
    if e.graded then
      if (tagAt s1 loc.addr).grade < floor then .error .grade
      else .ok (readLoc s1 loc n, some (gradeOf s1 kid loc.addr va.toNat), s1)
    else
      let s2 := if e.loc = 0 then s1 else leaveAll s1
      .ok (readLoc s2 loc n, none, s2)

/-- What an engine's write carries: its context, partition, run and output grade. -/
structure Origin where
  core : Nat
  ctx : Nat
  part : Nat
  kid : Nat
  outgrade : Nat
  deriving DecidableEq, Repr

/-- One beat that an engine writes: to a graded granule by R315, outward through the vestibule (R321, R323), else at its
home, where `f` combines it with the bytes there, unless the home's field is lost (R19). A graded granule that refuses it gives its own address (R320). -/
def engineWrite (s : State) (o : Origin) (va : DWord) (n : Nat) (reduce : Bool) (f : List Byte → List Byte) :
    Except EngineStop State :=
  match engineEntry s o.core o.ctx va 1 with
  | .error x => .error x
  | .ok (e, s1) =>
    let loc := e.locate va.toNat
    if reduce && (e.loc ≠ 0 || e.graded) then .error (.fail 9 va (kindFlags 1))
    else if e.loc ≠ 0 then
      if o.outgrade = 3 || mayHold s1 o.part n (·.covers o.kid loc n) then
        .ok (vestPut (setDirty s1 e) o.ctx o.part o.kid o.outgrade va (.bytes loc (f [])))
      else .error .room
    else
      match if e.graded then storeFails s1 loc.addr 0 o.kid else none with
      | some cause => .error (.fail cause (BitVec.ofNat 64 (va.toNat / 256 * 256)) (kindFlags 1))
      | none =>
        let s2 := setDirty s1 e
        let s3 := if e.graded then
          storeGranule s2 o.ctx 0 o.kid (runDepth s2 o.kid) o.outgrade loc.addr va.toNat else s2
        .ok (if lostRange s3 loc.addr n then s3 else performBytes s3 o.core loc (f (readLoc s3 loc n)))

/-! ## Copy records (R262, R263) -/

def CopyRec.read (bs : List Byte) : CopyRec :=
  { kind := fieldAt bs 0 1, op := fieldAt bs 1 1 % 16, ef := fieldAt bs 1 1 / 16, rows := fieldAt bs 2 2,
    len := fieldAt bs 4 4, src := BitVec.ofNat 64 (fieldAt bs 8 8), dst := BitVec.ofNat 64 (fieldAt bs 16 8),
    gstride := fieldAt bs 24 4, bar := fieldAt bs 28 4 }


/-- The barrier reference that BAR stands for (R262). -/
def CopyRec.barRef (r : CopyRec) : DWord := BitVec.ofNat 64 (r.bar % 65536 + r.bar / 65536 * 16 * 65536)

/-- A side's address or reference is aligned and clean. -/
def sideAligned (tile : Bool) (x : DWord) : Bool := if tile then refClean x && refOff x % 16 = 0 else x.toNat % 16 = 0

/-- The limits of R262 that need no tile. -/
def CopyRec.legal (r : CopyRec) : Bool :=
  decide (r.kind ≤ 3) && decide (r.op ≤ 6) && (decide (r.op < 1 ∨ 3 < r.op) || (decide (1 ≤ r.ef) && decide (r.ef ≤ 5)))
    && r.rows ≠ 0 && r.len ≠ 0 && r.len % 16 = 0 && r.gstride % 16 = 0
    && sideAligned r.srcTile r.src && sideAligned r.dstTile r.dst

/-- The tile of a side, if the side is a tile. -/
def sideTile (s : State) (dom : Nat) (tile : Bool) (x : DWord) : Except Nat (Option Tile) :=
  if tile then
    match (s.tileOf dom (refHandle x)).filter fun t => levelSC t.level with
    | some t => .ok (some t)
    | none => .error 0x10
  else .ok none

/-- The run of a tile side lies in its tile. -/
def sideInside (t : Option Tile) (x : DWord) (n : Nat) : Bool := t.all fun t => decide (refOff x + n ≤ t.size)

/-- The cause with which a record fails at issue (R268). -/
def CopyRec.check (s : State) (dom : Nat) (r : CopyRec) : Except Nat Unit :=
  if !r.legal then .error 9
  else
    match sideTile s dom r.srcTile r.src, sideTile s dom r.dstTile r.dst, sideTile s dom (r.bar ≠ 0) r.barRef with
    | .ok a, .ok b, .ok w =>
      if sideInside a r.src (r.rows * r.len) && sideInside b r.dst (r.rows * r.len) && sideInside w r.barRef 16 then .ok ()
      else .error 0x0F
    | _, _, _ => .error 0x10

/-- The hull of one side of a record; a global side's entry is held by the core whose engine runs it. -/
def sideHull (s : State) (core ctx dom : Nat) (r : CopyRec) (dest : Bool) : Option Hull :=
  let tile := if dest then r.dstTile else r.srcTile
  let x := if dest then r.dst else r.src
  if tile then
    (s.tileOf dom (refHandle x)).map fun t => ⟨t.bankCore, t.range, dest, false, refOff x, refOff x + r.rows * r.len⟩
  else some ⟨core, .global ctx, dest, false, x.toNat, x.toNat + (r.rows - 1) * r.gstride + r.len⟩

def copyHulls (s : State) (core ctx dom : Nat) (recs : List CopyRec) : List Hull :=
  (recs.flatMap fun r => (sideHull s core ctx dom r false).toList ++ (sideHull s core ctx dom r true).toList).foldl addHull []

/-- One element of a reduction (R263). -/
def reduceElement (op ef : Nat) (dst src : Nat) : Nat :=
  let fl (f : Fmt) : Nat := if op = 1 then fadd f .rne dst src else fminmaxIn f (op = 3) dst src
  match ef with
  | 1 => (if op = 1 then BitVec.ofNat 32 dst + BitVec.ofNat 32 src
      else if op = 2 then minMode 0 (BitVec.ofNat 32 dst) (BitVec.ofNat 32 src)
      else maxMode 0 (BitVec.ofNat 32 dst) (BitVec.ofNat 32 src) : Word).toNat
  | 2 => fl fmt32
  | 3 => fl fmtBf
  | 4 => fl fmt16
  | _ => fl fmt64

/-- Bytes of an element of a reduce record. -/
def reduceSize (ef : Nat) : Nat :=
  match ef with
  | 1 => 4
  | 2 => 4
  | 3 => 2
  | 4 => 2
  | _ => 8

/-- dst := op(dst, src) over a beat (R263). -/
def combineBytes (op ef : Nat) (src dst : List Byte) : List Byte :=
  match op with
  | 0 => src
  | 4 => (dst.zip src).map fun p => p.1 &&& p.2
  | 5 => (dst.zip src).map fun p => p.1 ||| p.2
  | 6 => (dst.zip src).map fun p => p.1 ^^^ p.2
  | _ =>
    let z := reduceSize ef
    (List.range (src.length / z)).flatMap fun k => leBytes (reduceElement op ef (fieldAt dst (k * z) z) (fieldAt src (k * z) z)) z

/-! ## Moving beats (R264, R386) -/

def CopyRec.beats (r : CopyRec) : Nat := r.rows * (r.len / 16)

def tileLoc (s : State) (dom : Nat) (x : DWord) (off : Nat) : Loc :=
  .tile (((s.tileOf dom (refHandle x)).map (·.id)).getD 0) (refOff x + off)

/-- One beat of a record moves. -/
def moveBeat (s : State) (o : Origin) (dom floor : Nat) (r : CopyRec) (j : Nat) :
    Except EngineStop (Option GradeRead × State) := do
  let at_ := r.at_ r.srcTile r.src j
  let (data, rd, s1) ←
    if r.srcTile then
      (.ok (readLoc s (tileLoc s dom r.src at_.toNat) 16, none, s) : Except EngineStop _)
    else engineRead s o.core o.ctx o.kid floor at_ 16
  let target := r.at_ r.dstTile r.dst j
  if r.dstTile then
    let l := tileLoc s1 dom r.dst target.toNat
    .ok (rd, writeLoc s1 l (combineBytes r.op r.ef data (readLoc s1 l 16)))
  else
    match engineWrite s1 o target 16 (r.op ≠ 0) (fun old => combineBytes r.op r.ef data (if old = [] then data else old)) with
    | .ok s2 => .ok (rd, s2)
    | .error x => .error x

/-- Joins what a record has read so far. -/
def joinRead : Option GradeRead → Option GradeRead → Option GradeRead
  | some a, some b => some { a.join b with inputs := (a.join b).inputs.eraseDups }
  | some a, none => some a
  | none, x => x

/-- Every graded granule that the beats from `j` on read reaches the floor (R312); a page that cannot be read is left to its beat. -/
def CopyRec.reaches (s : State) (o : Origin) (floor : Nat) (r : CopyRec) (j : Nat) : Bool :=
  r.srcTile || (List.range (r.beats - j)).all fun k =>
    let va := (r.at_ false r.src (j + k)).toNat
    (walk s o.ctx va).all fun e => !e.graded || decide (floor ≤ (tagAt s (e.locate va).addr).grade)

/-- Moves up to `n` beats of a record from beat `j`: the next beat, what was read, the state, and what stopped it. -/
def moveBeats (o : Origin) (dom floor : Nat) (r : CopyRec) :
    Nat → Nat → Option GradeRead → State → Nat × Option GradeRead × State × Option EngineStop
  | 0, j, rd, s => (j, rd, s, none)
  | n + 1, j, rd, s =>
    if j ≥ r.beats then (j, rd, s, none)
    else
      match moveBeat s o dom floor r j with
      | .error x => (j, rd, s, some x)
      | .ok (rd', s') => moveBeats o dom floor r n (j + 1) (joinRead rd rd') s'

/-! ## An engine operation's waits and end -/

/-- A translation fault of an engine's access (R265, R295): a record of KIND 0 for the first access, and a wait. -/
def parkEngine (s : State) (id ctx : Nat) (va : DWord) (kind : Nat) : State :=
  let page := va.toNat / 65536
  let here (t : Tracked) : Bool := t.ctx = ctx && t.page = page && t.kind = kind
  if s.tracker.any here then
    { s with tracker := s.tracker.map fun t => if here t then { t with waiters := t.waiters ++ [.engine id va] } else t }
  else if trackerRoom s then
    pushFault { s with tracker := s.tracker ++ [⟨ctx, page, kind, [.engine id va]⟩] } ctx
      ⟨va, 0, 8, 0, 0xFFFF, 0xFF, 2 + kindFlags kind, 0⟩
  else s

/-- A waiter is an access of an engine operation. -/
def Waiter.ofEngine (id : Nat) : Waiter → Bool
  | .engine n _ => n = id
  | _ => false

/-- An engine operation that waits for a fault to be resolved, or for its turn to replay. -/
def engineParked (s : State) (id : Nat) : Bool := s.waitsFault (·.ofEngine id)

/-- A node of a graph changes. -/
def State.updNode (s : State) (ctx : Nat) (gbase : DWord) (n : Nat) (f : NodeInfo → NodeInfo) : State :=
  s.updGraph ctx gbase fun g => { g with nodes := g.nodes.map fun x => if x.node = n then f x else x }

/-- The node that an operation runs for has failed. -/
def failNode (s : State) (e : Engine) : State :=
  match e.node with
  | some (gb, n) => s.updNode e.ctx gb n fun x => { x with failed := true }
  | none => s

/-- An entry of the list that later records still need covers bytes of a record's destination: the entry of either side, whole until
the last record in it completes (R265). -/
def laterCovers (s : State) (e : Engine) (later : List CopyRec) (r : CopyRec) : Bool :=
  match sideHull s e.core e.ctx e.dom r true with
  | none => false
  | some d =>
    e.hulls.any fun h => h.core = d.core && h.range = d.range && overlaps h.lo (h.hi - h.lo) d.lo (d.hi - d.lo)
      && later.any fun x => (sideHull s e.core e.ctx e.dom x h.dest).any fun y => y.core = h.core && y.range = h.range

/-- A performed record is counted: OUTGRADE and SEEN take what it read (R313, R317), and its word its bytes (R265). -/
def countRecord (s : State) (e : Engine) (r : CopyRec) (rd : Option GradeRead) : State :=
  let s1 := match rd, e.group with
    | some x, some g => gradeLands s g x
    | some x, none => s.updKernel e.kid fun k => { k with seen := seenAfter k.seen x }
    | none, _ => s
  if r.bar = 0 then s1 else countBytes s1 e.ctx e.dom r.barRef (r.rows * r.len)

/-- The performed records of a copy that have not been counted, since an entry over their destination is held for a later record. -/
def uncounted (s : State) (e : Engine) : List (CopyRec × Option GradeRead) :=
  match e.kind with
  | .copy recs k _ _ _ reads =>
    ((recs.take k).zipIdx.filter fun p => laterCovers s e (recs.drop k) p.1).map fun p => (p.1, reads.getD p.2 none)
  | _ => []

/-- A complete operation keeps only the items that wait for room (R121). -/
def endOrItems (s : State) (id : Nat) : State :=
  match s.engine? id with
  | some e => if e.items = [] then endEngine s id else (releaseLocks s id).updEngine id fun x => { x with kind := .items }
  | none => s

/-- The operation stops with a fault record of kind 1; its entries are released, but items that wait for room still enter (R121), and with them the records performed before
are counted (R265). -/
def failEngine (s : State) (e : Engine) (cause : Nat) (va : DWord) (flags : Nat := 0) : State :=
  (uncounted s e).foldl (fun a p => countRecord a e p.1 p.2) (endOrItems (failNode (engineFault s e.ctx cause va flags) e) e.id)

/-- What a stop of an engine's access comes to. -/
def stopEngine (s : State) (e : Engine) : EngineStop → State
  | .fault va kind => parkEngine s e.id e.ctx va kind
  | .fail cause va flags => failEngine s e cause va flags
  | _ => s

/-- Bytes that an engine reads at device scope from memory that is not graded, by beats. -/
def engineBytes (core ctx : Nat) : Nat → State → DWord → Except EngineStop (List Byte × State)
  | 0, s, _ => .ok ([], s)
  | n + 1, s, va =>
    match engineRead s core ctx 0 0 va 16 with
    | .error x => .error x
    | .ok (bs, _, s1) =>
      match engineBytes core ctx n s1 (va + 16) with
      | .error x => .error x
      | .ok (rest, s2) => .ok (bs ++ rest, s2)

/-- Bytes that an engine writes, by beats. -/
def enginePut (o : Origin) : Nat → State → DWord → List Byte → Except EngineStop State
  | 0, s, _, _ => .ok s
  | n + 1, s, va, bs =>
    match engineWrite s o va 16 false (fun _ => bs.take 16) with
    | .error x => .error x
    | .ok s1 => enginePut o n s1 (va + 16) (bs.drop 16)

def Engine.origin (e : Engine) (outgrade : Nat) : Origin := ⟨e.core, e.ctx, e.part, e.kid, outgrade⟩

/-! ## Copies -/

/-- Entries of an operation that no record from `next` on needs are released (R265). -/
def releaseHulls (s : State) (e : Engine) (rest : List CopyRec) : State :=
  let needed (l : Lock) : Bool := rest.any fun r =>
    match sideHull s e.core e.ctx e.dom r l.dest with
    | some h => h.core = l.core && h.range = l.range
    | none => false
  { s with locks := s.locks.filter fun l => l.owner != e.id || needed l }

/-- Sets element `i` of a list, padding with `none`. -/
def setRead (l : List (Option GradeRead)) (i : Nat) (x : Option GradeRead) : List (Option GradeRead) :=
  (l ++ List.replicate (i + 1 - l.length) none).set i x

/-- The records counted when record `k` is performed: itself and those that have waited for an entry, once no entry over their
destination is held (R265). -/
def countedNow (s : State) (e : Engine) (recs : List CopyRec) (k : Nat) : List Nat :=
  (List.range (k + 1)).filter fun i => (recs[i]?).any fun r =>
    !laterCovers s e (recs.drop (k + 1)) r && (i = k || laterCovers s e (recs.drop k) r)

/-- Record `k` of a copy is performed: entries are released, records counted, and the list goes on or ends. -/
def finishRecord (s : State) (e : Engine) (recs : List CopyRec) (k : Nat) (r : CopyRec) (floor og : Nat)
    (reads : List (Option GradeRead)) : State :=
  let now := countedNow s e recs k
  let s1 := releaseHulls s e (recs.drop (k + 1))
  let s2 := now.foldl (fun a i => countRecord a e (recs.getD i r) (reads.getD i none)) s1
  if k + 1 = recs.length then s2.dropEngine e.id
  else s2.updEngine e.id fun y => { y with kind := .copy recs (k + 1) 0 floor og reads }

/-- Moves up to `n` beats of a copy's present record, which waits while a granule that it still reads lies below the floor. -/
def advanceCopy (s : State) (e : Engine) (n : Nat) : State :=
  match e.kind with
  | .copy recs k beats floor og reads =>
    match recs[k]? with
    | none => s
    | some r =>
      if !r.reaches s (e.origin og) floor beats then s
      else
      let (j, rd, s1, stop) := moveBeats (e.origin og) e.dom floor r n beats (reads.getD k none) s
      let reads' := setRead reads k rd
      let s2 := s1.updEngine e.id fun y => { y with kind := .copy recs k j floor og reads' }
      match stop with
      | some x => stopEngine s2 e x
      | none => if j < r.beats then s2 else finishRecord s2 e recs k r floor og reads'
  | _ => s

/-! ## The order of admission (R91, R261) -/

/-- An entry's core after its tile or its context's groups have moved. -/
def rehull (s : State) (ctx : Nat) (h : Hull) : List Hull :=
  match h.range with
  | .tile dom num =>
    (match s.tiles.find? fun t => t.dom = dom && t.num = num && t.state == .live with
    | some t => [{ h with core := t.bankCore }]
    | none => [h])
  | .global _ => (ctxCores s ctx).map fun k => { h with core := k }

/-- The entries that a suspended operation registers again, in the tables of the cores that now hold the context's groups. -/
def Engine.rehulled (s : State) (e : Engine) : List Hull := (e.hulls.flatMap (rehull s e.ctx)).eraseDups

/-- The tiles that an operation's entries name are live. -/
def hullsLive (s : State) (e : Engine) : Bool :=
  e.hulls.all fun h =>
    match h.range with
    | .tile dom num => s.tiles.any fun t => t.dom = dom && t.num = num && t.state == .live
    | .global _ => true

/-- A suspended operation of a context that runs again, whose blocks and tiles are back. -/
def Engine.resumes (s : State) (e : Engine) : Bool :=
  e.suspended && ((s.ctx? e.ctx).any fun c => c.state = 2 && c.result ≠ 4) && !(s.blocks.any fun b => b.ctx = e.ctx && b.saved)
    && hullsLive s e

/-- The entries that an operation waits to register: at issue, or again at RESUME. -/
def Engine.asks (s : State) (e : Engine) : List Hull :=
  if e.suspended then (if e.resumes s then e.rehulled s else []) else if e.admitted then [] else e.hulls

/-- An operation that has issued earlier waits on one of the tables (R261). -/
def waitsBefore (s : State) (id : Nat) (hs : List Hull) : Bool :=
  s.engines.any fun x => decide (x.id < id) && (x.asks s).any fun k => hs.any fun h => h.core = k.core

/-- Accepts an engine operation at issue (R261): its entries are registered now when they can be and no earlier operation
waits on a table it needs; else it waits. -/
def startEngine (s : State) (e : Engine) (hs : List Hull) : State × Bool :=
  if canAdmit s (e.toRegister s hs) && !waitsBefore s e.id hs then
    (registerAll { s with engines := s.engines ++ [{ e with admitted := true }] } e hs, true)
  else ({ s with engines := s.engines ++ [{ e with admitted := false }] }, false)

end Sys2Proof.Machine
end

