-- ==== Sys2Proof/Machine/Copy.lean ====
section
/-! DEFINITION. CPYK (R268), the performing of copy records (R265), and the admission of engine operations that wait at
issue (R261). -/

namespace Sys2Proof.Machine

/-- A new engine operation of the issuing group. -/
def Iss.engine (c : Iss) (s : State) (kind : EngineKind) (hs : List Hull) : Engine :=
  { id := s.nextEngine, core := c.who.core, ctx := c.g.ctx, part := c.part s, kid := c.g.kid, dom := s.domOf c.g,
    group := some c.who.group, kind := kind, hulls := hs, admitted := false, suspended := false, items := [], node := none }

/-- Issues an engine operation: the fragment goes on when its entries are registered, and is held until then. -/
def issueEngine (s : State) (c : Iss) (e : Engine) (f : Group → Group) : State :=
  let (s1, now) := startEngine { s with nextEngine := s.nextEngine + 1 } e e.hulls
  match s1.group? c.who.group with
  | some g => if now then finish s1 c (f g) else holdAt s1 c (f g) (.engine e.id)
  | none => s1

/-- The first record of a list that fails, with its cause and index (R268). -/
def firstBad (s : State) (dom : Nat) : Nat → List CopyRec → Option (Nat × Nat)
  | _, [] => none
  | k, r :: rs =>
    match r.check s dom with
    | .error cause => some (cause, k)
    | .ok _ => firstBad s dom (k + 1) rs

/-- The records of a list of `n` at a place. -/
def readRecords (s : State) (loc : Loc) (n : Nat) : List CopyRec :=
  (List.range n).map fun k => CopyRec.read (readLoc s (loc.add (32 * k)) 32)

/-- CPYK. The group's earlier accesses come before the engine's, at device scope (R264). -/
def execCpyk (a b : BitVec 6) (s : State) : Out :=
  runIssue s fun c => do
    let r := c.sv a.toNat
    c.prepOwn (.cpyk a b) true (uniUses [.s a.toNat, .s b.toNat] []) (refOwn r)
    let (t, off) ← tileRef s c r levelSC
    need (off % 32 = 0) 0x0A r
    let n := (c.sv b.toNat).toNat
    need (decide (1 ≤ n) && decide (n ≤ 256)) 9 r
    need (decide (off + 32 * n ≤ t.size)) 0x0F r
    let s1 := flushRange s c.who.core (.tile t.id off) (32 * n)
    let recs := readRecords s1 (.tile t.id off) n
    match firstBad s1 (s.domOf c.g) 0 recs with
    | some (cause, k) => trapWith cause none (BitVec.ofNat 64 k)
    | none =>
      let hs := copyHulls s1 c.who.core c.g.ctx (s.domOf c.g) recs
      need (hullsFit hs) 9
      let s2 := releaseCore (flushCore s1 c.who.core) c.who.core 2
      .ok (issueEngine s2 c (c.engine s2 (.copy recs 0 0 c.g.floor c.g.outgrade []) hs) Group.blockStake)

/-- Whether an engine operation may go on: registered, not suspended, and not waiting for a fault. -/
def engineLive (s : State) (e : Engine) : Bool := e.admitted && !e.suspended && !engineParked s e.id

/-- COPY_RECORD_DONE: the present record of a copy is performed, as far as no fault, grade or room stops it. -/
def execCopyRecordDone (id : Nat) (s : State) : Out :=
  match s.engine? id with
  | none => .next s
  | some e =>
    match e.kind with
    | .copy recs k _ _ _ _ => if engineLive s e then .next (advanceCopy s e (recs.getD k (CopyRec.read [])).beats) else .next s
    | _ => .next s

/-- Whether an operation that waits at issue may register its entries: no earlier one waits on a table it needs. -/
def mayAdmit (s : State) (e : Engine) : Bool :=
  !e.admitted && canAdmit s (e.toRegister s e.hulls) && !waitsBefore s e.id e.hulls

/-- The fragment that an engine operation holds at issue goes on. -/
def releaseHeld (id now : Nat) (f : Fragment) : Fragment :=
  if f.park = some (.engine id) ∨ f.park = some (.collStart id) then f.resume (nextSlot f.pc false) now else f

def resumeHeld (s : State) (id : Nat) : State :=
  { s with groups := s.groups.map fun g => { g with frags := g.frags.map (releaseHeld id (s.cycleOf g.at_.core)) } }

/-- An operation as it is when it is accepted. -/
def Engine.accept (e : Engine) (now : Nat) : Engine :=
  { e with
    admitted := true
    kind := match e.kind with
      | .send src dst global len left dest dctx graded grade depth waves land lbar held _ =>
        .send src dst global len left dest dctx graded grade depth waves land lbar held now
      | k => k }

/-- An operation that waits at issue registers its entries when it may, and is accepted then: behind those accepted before it
(R281, R367). -/
def admitEngine (s : State) (e : Engine) : State :=
  if mayAdmit s e then
    let s1 := registerAll s e e.hulls
    resumeHeld { s1 with engines := (s1.engines.filter fun x => x.id != e.id) ++ [e.accept s.ptpns] } e.id
  else s

end Sys2Proof.Machine
end

