-- ==== Sys2Proof/Machine/Graded.lean ====
section
/-! DEFINITION. Instructions on grades and tags: GFLOOR, GCAP, GREAD, GWAIT, AMEND, GSTAT (R325 to R331). -/

namespace Sys2Proof.Machine

/-- GFLOOR. -/
def execGfloor (i : BitVec 14) (s : State) : Out :=
  uniIssue (.gfloor i) s (fun _ => uniUses [] []) fun _ g => { g with floor := i.toNat }

/-- GCAP. -/
def execGcap (i : BitVec 14) (s : State) : Out :=
  uniIssue (.gcap i) s (fun _ => uniUses [] []) fun _ g => { g with outgrade := min g.outgrade i.toNat }

/-! ## Byte ranges (R326) -/

/-- The first address of a range in each 64 KiB page it meets. -/
def pageStarts (va n : Nat) : List Acc :=
  (List.range ((va + n - 1) / 65536 + 1 - va / 65536)).map fun k => ⟨none, BitVec.ofNat 64 (max va ((va / 65536 + k) * 65536))⟩

/-- A granule of a range, translated: its virtual and device addresses. -/
structure Granule where
  va : Nat
  pa : Nat
  ent : TlbEntry
  deriving DecidableEq, Repr

/-- The granules of a range, given the entry of each of its pages. -/
def granulesOf (va n : Nat) (ts : List TAcc) : List Granule :=
  (List.range ((va + n - 1) / 256 + 1 - va / 256)).filterMap fun k =>
    let a := (va / 256 + k) * 256
    (ts.find? fun t => t.acc.ea.toNat / 65536 = a / 65536).map fun t => ⟨a, t.ent.frame + (a - t.ent.vbase), t.ent⟩

/-- The checks of R326 for GWAIT and AMEND: the granules of the range, and the state after translation. -/
def rangeChecks (s : State) (c : Iss) (a n least align : Nat) (write : Bool) : Except Stop (List Granule × State) := do
  let va := BitVec.ofNat 64 a
  need (decide (least ≤ n) && decide (n ≤ 0x1000000)) 9 va 5
  need (decide (a + n ≤ 2 ^ 57)) 9 va 1
  need (a % align = 0 && n % align = 0) 0x0A va
  let pages := pageStarts a n
  checkLocks s c [⟨none, va⟩] n write
  let (ts, s1) ← translateAll s c (if write then 1 else 0) pages
  let gs := granulesOf a n ts
  match gs.find? fun g => g.ent.inCarveOut g.va, ts.find? fun t => !t.ent.graded with
  | some g, _ => trapWith 9 (BitVec.ofNat 64 g.va) 2
  | none, some t => trapWith 9 t.acc.ea 4
  | none, none => .ok (gs, s1)

/-- GREAD: the tag of the granule, as its home slice holds it (R327). -/
def execGread (d a : BitVec 6) (s : State) : Out :=
  runIssue s fun c => do
    c.prep (.gread d a) true (uniUses [.s a.toNat] [.s d.toNat])
    c.room s 3
    let as : List Acc := [⟨none, c.sv a.toNat⟩]
    let (ts, s1) ← accessChecks s c as 1 false
    checkPages ts 2 notCarveOut
    let s2 := ts.foldl (fun a t => flushHome a c.who.core t.loc) s1
    let x : DWord := match ts with
      | t :: _ => if t.ent.graded then BitVec.ofNat 64 (tagAt s2 t.pa).bits else BitVec.ofNat 64 (2 ^ 63)
      | [] => 0
    .ok (withGroup { s2 with seq := s2.seq + 1 } c fun g => g.answer c.f.slices 3 s2.seq d.toNat x)

/-- GWAIT: parks until every granule of the range reaches f, then acquires at device scope (R328). -/
def execGwait (f : BitVec 4) (a b : BitVec 6) (s : State) : Out :=
  runIssue s fun c => do
    c.prep (.gwait f a b) true (uniUses [.s a.toNat, .s b.toNat] [])
    let va := (c.sv a.toNat).toNat
    let n := (c.sv b.toNat).toNat
    let (gs, s1) ← rangeChecks s c va n 1 1 false
    if gs.all fun g => decide (f.toNat ≤ (tagAt s1 g.pa).grade) then .ok (withGroup (dropL1 s1 c.who.core) c id)
    else .error (.park s1 (.grade va n f.toNat true false))

/-- One granule of an AMEND at a grade and depth (R329): an amendment, closed and reported. Nothing reaches one of a lost field (R19). -/
def amendGranule (ctx grade depth : Nat) (s : State) (g : Granule) : State :=
  let t := tagAt s g.pa
  let d := min depth 15
  if lostRange s g.pa 1 then s
  else reportGranule (closeGranule (setTag s g.pa ⟨d, t.ver + 1, grade⟩) g.pa) ctx (g.pa / 256) g.va d

/-- A reset granule: tag 0, closed, no report. -/
def resetGranule (s : State) (g : Granule) : State :=
  if lostRange s g.pa 1 then s else closeGranule (setTag s g.pa GTag.zero) g.pa

/-- The fault of an amendment of a range: 0x0B for a final granule before 0x0D for version 15. -/
def amendFault (s : State) (gs : List Granule) : Option (Nat × Nat) :=
  let here (g : Granule) : Bool := !lostRange s g.pa 1
  match gs.find? fun g => here g && (tagAt s g.pa).grade = 3, gs.find? fun g => here g && (tagAt s g.pa).ver = 15 with
  | some g, _ => some (0x0B, g.va)
  | none, some g => some (0x0D, g.va)
  | none, none => none

/-- AMEND (R329). -/
def execAmend (f : BitVec 4) (a b : BitVec 6) (s : State) : Out :=
  runIssue s fun c => do
    c.prep (.amend f a b) true (uniUses [.s a.toNat, .s b.toNat] [])
    let va := (c.sv a.toNat).toNat
    let n := (c.sv b.toNat).toNat
    let (gs, s1) ← rangeChecks s c va n 256 256 true
    let s2 := releaseNow s1 c 2
    if f.toNat = 0 then .ok (withGroup (gs.foldl resetGranule s2) c Group.blockStake)
    else
      match amendFault s2 gs with
      | some (cause, x) => trapWith cause (BitVec.ofNat 64 x)
      | none =>
        .ok (withGroup (gs.foldl (amendGranule c.g.ctx (min f.toNat c.g.outgrade) (runDepth s2 c.g.kid + 1)) s2) c
          Group.blockStake)

/-! ## GSTAT (R331) -/

/-- The node information of a run. -/
def nodeOf (s : State) (kid : Nat) : Option NodeInfo :=
  match s.kernel? kid with
  | none => none
  | some k =>
    match k.node with
    | none => none
    | some (gbase, n) => (s.graph? k.ctx gbase).bind fun g => g.nodes.find? fun x => x.node = n

/-- The SEEN bytes of a run (R136, R317). -/
def seenBytes (seen : List (Nat × Nat)) : List Byte :=
  (List.range 8).map fun j => let p := nth seen j (0, 0); BitVec.ofNat 8 (p.1 * 16 + p.2)

/-- GSTAT's word. -/
def gstatWord (s : State) (g : Group) : DWord :=
  let super := (nodeOf s g.kid).elim false fun n => n.st = 4
  let held := min 255 (s.vest.filter fun e => e.kid = g.kid && !e.released).length
  BitVec.ofNat 64 ((if super then 2 ^ 24 else 0) + held * 2 ^ 16 + runDepth s g.kid * 2 ^ 8 + g.outgrade * 4 + g.floor)

def execGstat (f : BitVec 4) (d : BitVec 6) (s : State) : Out :=
  runIssue s fun c => do
    c.prep (.gstat f d) true (uniUses [] [.s d.toNat])
    c.room s 3
    let x : DWord := if f.toNat = 1 then
        BitVec.ofNat 64 (leNat (seenBytes ((s.kernel? c.g.kid).elim [] (·.seen))))
      else gstatWord s c.g
    .ok (withGroup { s with seq := s.seq + 1 } c fun g => g.scalarLater c s.seq d.toNat x)

end Sys2Proof.Machine
end

