-- ==== Sys2Proof/Machine/Keccak.lean ====
section
/-! DEFINITION. SHAKE256 (R112, R420): the Keccak permutation over 25 lanes of 64 bits, and the sponge of rate 136 bytes. -/

namespace Sys2Proof.Machine

/-- The 25 lanes of the state, lane (x, y) at place x + 5 y. -/
abbrev Keccak := List DWord

def Keccak.at_ (a : Keccak) (x y : Nat) : DWord := a.getD (x % 5 + 5 * (y % 5)) 0
def Keccak.of (f : Nat → Nat → DWord) : Keccak := (List.range 25).map fun i => f (i % 5) (i / 5)

/-- Rotation offsets by place. -/
def rhoOffsets : List Nat :=
  [0, 1, 62, 28, 27, 36, 44, 6, 55, 20, 3, 10, 43, 25, 39, 41, 45, 15, 21, 8, 18, 2, 61, 56, 14]

def roundConstants : List DWord :=
  [0x0000000000000001, 0x0000000000008082, 0x800000000000808A, 0x8000000080008000, 0x000000000000808B, 0x0000000080000001,
   0x8000000080008081, 0x8000000000008009, 0x000000000000008A, 0x0000000000000088, 0x0000000080008009, 0x000000008000000A]
  ++ [0x000000008000808B, 0x800000000000008B, 0x8000000000008089, 0x8000000000008003, 0x8000000000008002, 0x8000000000000080,
   0x000000000000800A, 0x800000008000000A, 0x8000000080008081, 0x8000000000008080, 0x0000000080000001, 0x8000000080008008]

/-- One round. -/
def keccakRound (a : Keccak) (rc : DWord) : Keccak :=
  let c : Keccak := (List.range 5).map fun x => a.at_ x 0 ^^^ a.at_ x 1 ^^^ a.at_ x 2 ^^^ a.at_ x 3 ^^^ a.at_ x 4
  let d (x : Nat) : DWord := c.getD ((x + 4) % 5) 0 ^^^ (c.getD ((x + 1) % 5) 0).rotateLeft 1
  let t : Keccak := Keccak.of fun x y => a.at_ x y ^^^ d x
  -- lane (x, y) moves, rotated, to (y, 2x + 3y)
  let b : Keccak := Keccak.of fun x y => (t.at_ (x + 3 * y) x).rotateLeft (rhoOffsets.getD ((x + 3 * y) % 5 + 5 * x) 0)
  Keccak.of fun x y => (b.at_ x y ^^^ (~~~b.at_ (x + 1) y &&& b.at_ (x + 2) y)) ^^^ (if x = 0 ∧ y = 0 then rc else 0)

def keccakF (a : Keccak) : Keccak := roundConstants.foldl keccakRound a

/-- The padding of a message: suffix 0x1F, and the last bit of a block of 136 bytes. -/
def shakePad (n : Nat) : List Byte :=
  if n % 136 = 135 then [0x9F] else [0x1F] ++ List.replicate (134 - n % 136) 0 ++ [0x80]

/-- A block is taken in: the first 17 lanes. -/
def shakeAbsorb (a : Keccak) (block : List Byte) : Keccak :=
  keccakF (Keccak.of fun x y => a.at_ x y ^^^ (if x + 5 * y < 17 then BitVec.ofNat 64 (fieldAt block (8 * (x + 5 * y)) 8) else 0))

/-- The first 64 bytes of SHAKE256 of a message. -/
def shake256 (m : List Byte) : List Byte :=
  let a := (List.range (m.length / 136 + 1)).foldl (fun a k => shakeAbsorb a (((m ++ shakePad m.length).drop (136 * k)).take 136))
    (Keccak.of fun _ _ => 0)
  (a.take 8).flatMap fun l => leBytes l.toNat 8

/-- The low 16 bits of SHAKE256: the first two bytes of its output, little-endian (R112, log 90). -/
def shake256Low (m : List Byte) : Nat := fieldAt (shake256 m) 0 2

end Sys2Proof.Machine
end

