-- ==== Sys2Proof/Machine/Queues.lean ====
section
/-! DEFINITION. Hardware queues: capabilities (R112, R113), the order of operations and the parked ones (R110, R114 to R117),
items of engines (R121). -/

namespace Sys2Proof.Machine

/-! ## Capabilities (R112, R113) -/

def capQnum (c : DWord) : Nat := c.toNat % 65536
def capEpoch (c : DWord) : Nat := bitsAt c.toNat 16 16
/-- A right: 0 ENQ, 1 DEQ, 2 STEAL. -/
def capRight (c : DWord) (k : Nat) : Bool := c.getLsbD (32 + k)
def capCtx (c : DWord) : Nat := bitsAt c.toNat 40 8

/-- CHECK (R112): the low 16 bits of SHAKE256 over the key of the present start and the word's low 48 bits. -/
def capCheck (keyNumber low : Nat) : Nat :=
  shake256Low (leBytes (Config.queueKey keyNumber).toNat 32 ++ leBytes low 6)

/-- The low 48 bits with their CHECK, which rests on the key of the present start. -/
def mintCap (s : State) (low : Nat) : DWord :=
  BitVec.ofNat 64 (low % 2 ^ 48 + capCheck s.keyNumber (low % 2 ^ 48) * 2 ^ 48)

def newCap (s : State) (num epoch ctx rights : Nat) : DWord := mintCap s (num + epoch * 2 ^ 16 + rights * 2 ^ 32 + ctx * 2 ^ 40)

def Queue.occ (q : Queue) : Nat := q.tail - q.head
def Queue.capacity (q : Queue) : Nat := 2 ^ q.log2cap
/-- Bytes of an item. -/
def Queue.itemBytes (q : Queue) : Nat := 8 * 2 ^ q.size

/-- The first check of R113 that fails: the right, item size and kind of the operation are given where they matter. -/
def capReason (s : State) (ctx : Nat) (c : DWord) (right size : Option Nat) (enq : Bool) : Option Nat :=
  if mintCap s c.toNat ≠ c ∨ bitsAt c.toNat 35 5 ≠ 0 then some 1
  else if capCtx c ≠ ctx then some 2
  else
    match s.queue? (capQnum c) with
    | none => some 3
    | some q =>
      if q.state = .free ∨ q.epoch.toNat ≠ capEpoch c then some 3
      else if right.any fun k => !capRight c k then some 4
      else if size.any fun z => z ≠ q.size then some 5
      else if enq ∧ q.state = .sealed then some 6
      else none

/-- FINFO of cause 0x0E. -/
def capInfo (reason : Nat) (c : DWord) : DWord := BitVec.ofNat 64 (reason + capQnum c * 65536)

/-- Traps with cause 0x0E when a check fails. -/
def needCap (s : State) (ctx : Nat) (c : DWord) (right size : Option Nat) (enq : Bool) : Except Stop Unit :=
  match capReason s ctx c right size enq with
  | some r => trapWith 0x0E (some 0) (capInfo r c)
  | none => .ok ()

/-! ## Items (R114) -/

def Queue.place (q : Queue) (k : Nat) : Nat := q.base + k % q.capacity * q.itemBytes

/-- An item enters at the tail. -/
def pushItem (s : State) (q : Queue) (bytes : List Byte) : State :=
  { s with mem := memWrite s (q.place q.tail) (bytes.take q.itemBytes) }.updQueue q.num fun x => { x with tail := x.tail + 1 }

def headItem (s : State) (q : Queue) : List Byte := memRead s (q.place q.head) q.itemBytes

def popItem (s : State) (q : Queue) : State := s.updQueue q.num fun x => { x with head := x.head + 1 }

/-- The item in s[d] to s[d + n − 1]. -/
def itemOf (g : Group) (d n : Nat) : List Byte := (List.range n).flatMap fun k => leBytes (g.sNew (d + k)).toNat 8

/-- A scalar that an answer to the fragment of slices `sl` writes, readable in the next slot. -/
def Group.setAnswer (g : Group) (sl : BitVec 8) (n : Nat) (x : DWord) : Group :=
  let g1 := (g.blockS n).overrule sl n
  { g1 with
    sregs := g1.sregs.setIfInBounds n x
    pend := g1.pend.filter fun p => p.name != .s n
    board := g1.board.filter fun b => b.name != .s n }

/-- Several scalars from item bytes. -/
def Group.setItem (g : Group) (sl : BitVec 8) (d : Nat) (bytes : List Byte) : Group :=
  (List.range (bytes.length / 8)).foldl (fun g k => g.setAnswer sl (d + k) (BitVec.ofNat 64 (fieldAt bytes (8 * k) 8))) g

/-! ## Parked operations (R110, R116) -/

/-- The earlier accesses of a group come before an item it enqueues; what follows a received item comes after it (R117). -/
def beforeItem (s : State) (gid : GroupId) : State := releaseCore (flushCore s gid.core) gid.core 2
def afterItem (s : State) (gid : GroupId) : State := dropL1 s gid.core

/-- A parked queue operation: its item registers and their number, the stall count of its slot, its index on QC, and the slices of
its fragment. -/
structure ParkedOp where
  d : Nat
  n : Nat
  stall : Nat
  op : Nat
  slices : BitVec 8
  deriving DecidableEq, Repr

def parkedOp (s : State) (w : FragId) : Option ParkedOp :=
  ((s.group? w.group).bind fun g => g.frag? w.index).bind fun f =>
    match f.park with
    | some (.queue _ _ d n stall op) => some ⟨d, n, stall, op, f.slices⟩
    | _ => none

/-- The item that a parked QDEQ receives: scalars that another fragment has written since keep what it wrote (R179). -/
def Group.takeItem (g : Group) (p : ParkedOp) (bytes : List Byte) : Group :=
  let mine (n : Nat) : Bool := g.ops.any fun o => o.counter = 4 && o.index = p.op && o.lands.any fun l =>
    match l with
    | .scalar k _ => k = n
    | .lane _ _ _ => false
  ((List.range (bytes.length / 8)).filter fun k => mine (p.d + k)).foldl (fun g k =>
    g.setAnswer p.slices (p.d + k) (BitVec.ofNat 64 (fieldAt bytes (8 * k) 8))) g

/-- A parked queue operation is answered: QC may fall, the slot's stall count applies from now on, to the scoreboard as well (R67,
R70), and its rewind is blocked (R117). -/
def answerParked (s : State) (w : FragId) (p : ParkedOp) (f : Group → Group) : State :=
  s.updGroup w.group fun g =>
    let g1 := (f g).blockStake.completeOp 4 p.op
    ({ g1 with board := ageBoard p.slices p.stall g1.board } : Group).updFrag w.index fun x =>
      { (x.resume (nextSlot x.pc false) (s.cycleOf w.core)).notBefore (s.cycleOf w.core + 1 + p.stall) with class4 := false }

/-- The answer to a parked operation, with the bytes of the item it receives: in a halted block it is latched (R408). -/
def answerOrLatch (s : State) (w : FragId) (p : ParkedOp) (bytes : List Byte) : State :=
  if (s.group? w.group).any (blockHalted s) then latchFrag s w (.goOn bytes)
  else answerParked s w p fun g => g.takeItem p bytes

/-- The oldest parked QDEQ takes the head item. -/
def serveDeq (s : State) (q : Queue) (w : FragId) (rest : List FragId) : State :=
  let s1 := s.updQueue q.num fun x => { x with deqWait := rest }
  match parkedOp s w with
  | none => s1
  | some p =>
    let bytes := headItem s1 q
    answerOrLatch (afterItem (popItem s1 q) w.group) w p bytes

/-- The oldest parked QENQ puts its item. -/
def serveEnq (s : State) (q : Queue) (w : FragId) (rest : List FragId) : State :=
  let s1 := beforeItem (s.updQueue q.num fun x => { x with enqWait := rest }) w.group
  match parkedOp s w, s1.group? w.group with
  | some p, some g => answerOrLatch (pushItem s1 q (itemOf g p.d p.n)) w p []
  | _, _ => s1

/-- A waiting fragment stands at its slot again, and its queue operation, if that is what it waits for, counts no more. -/
def unpark (s : State) (w : FragId) : State :=
  let op := (parkedOp s w).map (·.op)
  s.updGroup w.group fun g =>
    ({ g with ops := g.ops.filter fun o => !(o.counter = 4 && some o.index = op) } : Group).updFrag w.index fun x =>
      { x with park := none, latch := none }

/-- A waiting fragment takes a handler trap at its slot; in a halted block the trap is latched (R408). -/
def trapWaiting (s : State) (w : FragId) (cause : Nat) (faddr finfo : DWord) : State :=
  match s.group? w.group with
  | none => s
  | some g =>
    if blockHalted s g then latchFrag s w (.trap cause faddr finfo)
    else (g.frag? w.index).elim s fun f => takeTrap (unpark s w) w cause faddr finfo f.pc f.pc

/-- What a latch has kept happens (R408). -/
def applyLatch (resumed : State → FragId → State) (s : State) (w : FragId) : State :=
  match ((s.group? w.group).bind fun g => g.frag? w.index).bind (·.latch), parkedOp s w with
  | some (.goOn bytes), some p => answerParked s w p fun g => g.takeItem p bytes
  | some (.goOn _), none => resumed s w
  | some (.trap cause faddr finfo), _ => trapWaiting s w cause faddr finfo
  | none, _ => s

/-- A parked operation takes a handler trap with cause 0x0E; a fragment that no longer waits does not. -/
def refuseParked (reason : Nat) (num : Nat) (s : State) (w : FragId) : State :=
  match parkedOp s w with
  | some _ => trapWaiting s w 0x0E 0 (BitVec.ofNat 64 (reason + num * 65536))
  | none => s

/-- Parked operations of a queue trap: of those of one group, the lowest index (R99). -/
def refuseAll (reason num : Nat) (ws : List FragId) (s : State) : State := (byIndex ws).foldl (refuseParked reason num) s

/-- A sealed queue without items refuses its parked QDEQs. -/
def sealDry (s : State) (num : Nat) : State :=
  match s.queue? num with
  | some q =>
    if q.state = .sealed ∧ q.occ = 0 then
      refuseAll 6 num q.deqWait (s.updQueue num fun x => { x with deqWait := [] })
    else s
  | none => s

/-- After an operation, parked ones that can proceed do so, oldest first, enqueues before dequeues (R116). -/
def serveParked (num : Nat) : Nat → State → State
  | 0, s => sealDry s num
  | n + 1, s =>
    match s.queue? num with
    | none => s
    | some q =>
      match q.enqWait, q.deqWait with
      | w :: ws, _ =>
        if q.state = .opened ∧ q.occ < q.capacity then serveParked num n (serveEnq s q w ws)
        else
          (match q.deqWait with
          | v :: vs => if q.occ > 0 then serveParked num n (serveDeq s q v vs) else sealDry s num
          | [] => sealDry s num)
      | [], v :: vs => if q.occ > 0 then serveParked num n (serveDeq s q v vs) else sealDry s num
      | [], [] => sealDry s num

def afterQueueOp (s : State) (num : Nat) : State :=
  match s.queue? num with
  | some q => serveParked num (q.enqWait.length + q.deqWait.length + 1) s
  | none => s

/-! ## Items of engines (R121) -/

/-- The fault record of a refused enqueue that names no group. -/
def enqueueFault (s : State) (ctx reason : Nat) (c : DWord) : State := engineFault s ctx 0x0E (capInfo reason c)

/-- Why a queue no longer takes the items of an operation whose capability was checked at issue: 3 it is free or its number has
been used again, 6 it is sealed. -/
def itemReason (s : State) (c : DWord) : Option Nat :=
  match s.queue? (capQnum c) with
  | none => some 3
  | some q => if q.state = .free ∨ q.epoch.toNat ≠ capEpoch c then some 3 else if q.state = .sealed then some 6 else none

/-- Enters the first waiting item of an operation: what is left, and the state. A queue that is no longer open takes the
item with a fault record, in the queue of the context for which the operation works (log 124). -/
def engineEnqueue (s : State) (ctx : Nat) (c item : DWord) : Option State :=
  match itemReason s c with
  | some r => some (enqueueFault s ctx r c)
  | none =>
    match s.queue? (capQnum c) with
    | none => some s
    | some q => if q.occ < q.capacity then some (afterQueueOp (pushItem s q (leBytes item.toNat 8)) q.num) else none

/-- Enters held items in order until a queue is full. -/
def enqueueItems (ctx : Nat) : List (DWord × DWord) → State → List (DWord × DWord) × State
  | [], s => ([], s)
  | (c, x) :: rest, s =>
    match engineEnqueue s ctx c x with
    | some s1 => enqueueItems ctx rest s1
    | none => ((c, x) :: rest, s)

/-- The item of R121. -/
def arrivalItem (kind id tile : Nat) : DWord := BitVec.ofNat 64 (kind * 2 ^ 60 + id % 65536 * 2 ^ 32 + tile % 2 ^ 32)

/-- An engine's item goes behind those it still holds. -/
def sendItem (s : State) (id : Nat) (c item : DWord) : State :=
  match s.engine? id with
  | none => s
  | some e =>
    let (left, s1) := enqueueItems e.ctx (e.items ++ [(c, item)]) s
    s1.updEngine id fun x => { x with items := left }

end Sys2Proof.Machine
end

