-- ==== Sys2Proof/Machine/Launcher.lean ====
section
/-! DEFINITION. The launcher: launch records and their checks (R122 to R126), accepting a kernel (R131, R132), and the
placement of blocks (R20, R128 to R130). -/

namespace Sys2Proof.Machine

/-- One of the numbers below `n` that are not taken; the manual does not say which (log 3). -/
def pickFree (s : State) (use n : Nat) (taken : Nat → Bool) : Option Nat :=
  let r := Config.freeNat use s.freeCtr
  (List.range n).findSome? fun k => if taken ((r + k) % n) then none else some ((r + k) % n)

/-- The core whose TLBs serve the controllers in F2 (R440). -/
def ctlCore : Nat := 32

/-! ## The launch record (R122 to R125) -/

def roleAt (bs : List Byte) (k : Nat) : Role :=
  let o := 32 + 8 * k
  { regs := fieldAt bs o 1, prio := fieldAt bs (o + 1) 1 % 4, queue := fieldAt bs (o + 1) 1 / 4 % 4,
    init := fieldAt bs (o + 2) 1, entry := fieldAt bs (o + 4) 4 }

/-- The fields of a record; its two lists are read apart. -/
def LaunchRec.read (bs : List Byte) : LaunchRec :=
  { code := BitVec.ofNat 64 (fieldAt bs 0 8)
    gridX := fieldAt bs 8 2
    gridY := fieldAt bs 10 2
    gridZ := fieldAt bs 12 2
    groups := fieldAt bs 14 1
    roles := (List.range (min 4 (fieldAt bs 15 1))).map (roleAt bs)
    levels := (List.range 8).map fun n => fieldAt bs (16 + n) 1
    clblk := fieldAt bs 24 1
    chk := fieldAt bs 25 1 % 2 = 1
    floor := fieldAt bs 26 1
    cap := fieldAt bs 27 1
    bamps := fieldAt bs 28 2
    sqcap := (List.range 4).map fun k => BitVec.ofNat 64 (fieldAt bs (64 + 8 * k) 8)
    arg := BitVec.ofNat 64 (fieldAt bs 96 8)
    inputs := []
    tensors := []
    ghi := fieldAt bs 120 2
    glo := fieldAt bs 122 2 }

def LaunchRec.blocks (l : LaunchRec) : Nat := l.gridX * l.gridY * l.gridZ

/-- The role of each group of a block, in the order of the roles (R124). -/
def LaunchRec.roster (l : LaunchRec) : List Nat :=
  (List.range l.roles.length).flatMap fun r => List.replicate (l.roles.getD r ⟨8, 0, 0, 0, 0⟩).init r

def LaunchRec.regsOf (l : LaunchRec) (role : Nat) : Nat := (l.roles.getD role ⟨8, 0, 0, 0, 0⟩).regs

/-- The default scope code of a domain (R22, R123). -/
def defaultScope (domain : Nat) : Nat := nth [0, 1, 1, 2, 3, 4, 4, 5] domain 5

/-- LEVELS keeps R123. -/
def levelsOk (ls : List Nat) : Bool :=
  (List.range 8).all fun n =>
    let b := nth ls n 0xFF
    if b = 0xFF then decide (4 ≤ n)
    else
      decide (b / 16 ≤ 7) && (decide (4 ≤ n) || b / 16 = n)
        && (b % 16 = 15 || (decide (b % 16 ≤ 5) && decide (defaultScope (b / 16) ≤ b % 16)))
        && (List.range n).all fun m => nth ls m 0xFF = 0xFF || decide (nth ls m 0xFF / 16 ≤ b / 16)

/-- A slot address that breaks R64; the content of a bundle that cannot be read is left to the fetch (R297). -/
def entryBad (s : State) (core ctx : Nat) (target : DWord) : Bool :=
  let t := target.toNat
  if t % 4 ≠ 0 ∨ t % 16 = 0 ∨ t ≥ 2 ^ 57 then true
  else
    match fetchBundle s core ctx (t / 16 * 16) with
    | .got b _ => !slotOk b t
    | _ => false

/-- Registers that the groups of a block take in each quarter, when group 0 goes to quarter `q`. -/
def quarterNeed (l : LaunchRec) (q k : Nat) : List Nat :=
  (List.range l.roster.length).filterMap fun g => if (q + g) % 4 = k then some (l.regsOf (l.roster.getD g 0)) else none

def sumOf (l : List Nat) : Nat := l.foldl (· + ·) 0

/-- An empty core holds one block (R129): 256 slots and 8,192 registers in a quarter (R12). -/
def emptyCoreHolds (l : LaunchRec) : Bool :=
  (List.range 4).all fun k => decide ((quarterNeed l 0 k).length ≤ 256) && decide (sumOf (quarterNeed l 0 k) ≤ 8192)

/-- The clusters of a partition. -/
def PartEntry.clusterList (p : PartEntry) : List Nat := (List.range 24).filter p.clusters.testBit

/-- A graded input lies on present pages with G = 1 of the partition (R125, R126). -/
def gradedBuffer (s : State) (ctx base n : Nat) : Bool :=
  base % 256 = 0 && n % 256 = 0 && decide (base + n ≤ 2 ^ 57)
    && (n = 0 || (pageStarts base n).all fun a => (walk s ctx a.ea.toNat).any (·.graded))

/-- The graded-input list, if it can be read. -/
def inputsOf (s : State) (core ctx ptr n : Nat) : Option (List (Nat × Nat)) :=
  if n = 0 then some []
  else if ptr + 16 * n > 2 ^ 57 then none
  else (readVirtual s core ctx ptr (16 * n)).map fun bs => (List.range n).map fun k => (fieldAt bs (16 * k) 8, fieldAt bs (16 * k + 8) 8)

/-- The tensor list; one that cannot be read names no tensor. -/
def tensorsOf (s : State) (core ctx ptr n : Nat) : List Nat :=
  if n = 0 ∨ ptr + 2 * n > 2 ^ 57 then []
  else ((readVirtual s core ctx ptr (2 * n)).map fun bs => (List.range n).map fun k => fieldAt bs (2 * k) 2).getD []

/-- Must-be-zero fields and the limits of reason 5. -/
def recordClean (bs : List Byte) (l : LaunchRec) : Bool :=
  decide (1 ≤ l.floor) && decide (l.floor ≤ 3) && decide (1 ≤ l.cap) && decide (l.cap ≤ 3)
    && !(l.ghi ≠ 0 && decide (l.ghi ≤ l.glo))
    && fieldAt bs 25 1 / 2 = 0 && fieldAt bs 124 4 = 0
    && (List.range 4).all fun k =>
      if k < l.roles.length then fieldAt bs (32 + 8 * k + 1) 1 / 16 = 0 && fieldAt bs (32 + 8 * k + 3) 1 = 0
      else fieldAt bs (32 + 8 * k) 8 = 0

/-- The checks of R126 in their order: the reason, or the record with its lists. -/
def checkLaunch (s : State) (core : Nat) (c : Context) (va : DWord) (bs : List Byte) : Except Nat LaunchRec :=
  let l := LaunchRec.read bs
  let ngin := fieldAt bs 30 1
  let ntens := fieldAt bs 31 1
  let ginptr := fieldAt bs 104 8
  let clusters := (s.part? c.part).elim [] PartEntry.clusterList
  let lists : Option (List (Nat × Nat)) := if ngin > 8 ∨ ntens > 8 then none else inputsOf s core c.id ginptr ngin
  if va.toNat % 128 ≠ 0 ∨ l.code.toNat % 16 ≠ 0 ∨ (ngin ≠ 0 ∧ ginptr % 16 ≠ 0)
      ∨ l.roles.any fun r => entryBad s core c.id (l.code + BitVec.ofNat 64 r.entry) then .error 1
  else if l.blocks = 0 ∨ l.groups = 0 ∨ l.groups > 32 ∨ fieldAt bs 15 1 = 0 ∨ fieldAt bs 15 1 > 4
      ∨ sumOf (l.roles.map (·.init)) ≠ l.groups then .error 2
  else if !levelsOk l.levels then .error 3
  else if (l.roles.any fun r => decide (r.regs < 8) || decide (128 < r.regs)) ∨ clusters = [] ∨ !emptyCoreHolds l then .error 4
  else if !recordClean bs l then .error 5
  else
    match lists with
    | none => .error 6
    | some ins =>
      if ins.any fun b => !gradedBuffer s c.id b.1 b.2 then .error 6
      else if l.sqcap.any fun x => x ≠ 0 && (capReason s c.id x (some 1) none false).isSome then .error 7
      else if clusters.all fun k => decide ((s.field (k / 4)).limit < l.bamps * l.clblk) then .error 8
      else if l.clblk = 0 ∨ l.clblk > 4 ∨ (l.clblk > 1 ∧ nth l.levels 4 0xFF / 16 ≠ 4) ∨ l.blocks % l.clblk ≠ 0 then .error 9
      else .ok { l with inputs := ins, tensors := tensorsOf s core c.id (fieldAt bs 112 8) ntens }

/-! ## Accepting a kernel (R131, R132) -/

/-- No kernel number is free. -/
def launcherFull (s : State) : Bool := decide (1024 ≤ s.kernels.length)

/-- A kernel enters `placing` under a free kernel number. -/
def acceptKernel (s : State) (ctx : Nat) (va : DWord) (l : LaunchRec) (completion : DWord) (node : Option (DWord × Nat))
    (depth : Nat) : Nat × State :=
  let kid := (pickFree s 6 1024 fun n => s.kernels.any fun k => k.kid = n).getD 0
  let k : Kernel :=
    { kid := kid, ctx := ctx, record := va, launch := l, state := .placing, placed := 0, completion := completion,
      node := node, depth := depth, seen := [], waitedSince := (s.field 2).cycle, starved := false, order := s.nextOrder }
  (kid, { s.fresh with kernels := s.kernels ++ [k], nextOrder := s.nextOrder + 1 })

/-! ## Room (R129, R130, R166) -/

/-- Physical registers that a group reserves: REGS while it holds its slot, and then those with a write outstanding. -/
def Group.reserved (g : Group) : Nat :=
  match g.state with
  | .saved => 0
  | .tracked => ((g.ops.flatMap fun o => o.lands.filterMap fun l =>
      match l with
      | .lane n _ _ => some n
      | .scalar _ _ => none).eraseDups).length
  | _ => g.regs

/-- Groups that hold a slot of a quarter. -/
def slotted (s : State) (core q : Nat) : List Group :=
  s.groups.filter fun g => g.at_.core = core && g.at_.quarter = q && g.state != .tracked && g.state != .saved

def freeSlots (s : State) (core q : Nat) : Nat := 256 - (slotted s core q).length

def freeRegs (s : State) (core q : Nat) : Nat :=
  8192 - sumOf ((s.groups.filter fun g => g.at_.core = core && g.at_.quarter = q).map Group.reserved)

def coreSlots (s : State) (core : Nat) : Nat := sumOf ((List.range 4).map (freeSlots s core))

/-- The quarter with the most free slots, the lowest among equals. -/
def firstQuarter (s : State) (core : Nat) : Nat :=
  (List.range 4).foldl (fun best q => if freeSlots s core q > freeSlots s core best then q else best) 0

/-- The core can hold a block: each quarter has the slots and registers for the groups it receives. -/
def coreHolds (s : State) (core : Nat) (regs : List Nat) : Bool :=
  let q0 := firstQuarter s core
  (List.range 4).all fun q =>
    let mine := (List.range regs.length).filterMap fun g => if (q0 + g) % 4 = q then some (regs.getD g 0) else none
    decide (mine.length ≤ freeSlots s core q) && decide (sumOf mine ≤ freeRegs s core q)

/-- BAMPS of the blocks placed in a field whose reservation has not been returned. -/
def fieldTaken (s : State) (f : Nat) : Nat :=
  sumOf ((s.blocks.filter fun b => coreField b.core = f && !b.saved).map fun b =>
    (s.kernel? b.kid).elim 0 (·.launch.bamps))

/-- Headroom that is left in a field; below 0 when the field has been measured again since it was given out. -/
def fieldRoom (s : State) (f : Nat) : Int := (s.field f).head - fieldTaken s f

/-- A field can take a set of `n` blocks that draw `bamps` each. -/
def fieldTakes (s : State) (f bamps n : Nat) : Bool := (s.field f).up && decide (((bamps * n : Nat) : Int) ≤ fieldRoom s f)

/-! ## Choosing cores (R128, R130) -/

/-- The better of two cores: more headroom in its field, then more free slots, then the lower number. -/
def betterCore (s : State) (a b : Nat) : Bool :=
  let ra := fieldRoom s (coreField a)
  let rb := fieldRoom s (coreField b)
  if ra ≠ rb then decide (ra > rb)
  else if coreSlots s a ≠ coreSlots s b then decide (coreSlots s a > coreSlots s b)
  else decide (a < b)

def insertCore (s : State) (x : Nat) : List Nat → List Nat
  | [] => [x]
  | y :: t => if betterCore s x y then x :: y :: t else y :: insertCore s x t

/-- The cores of a cluster that hold the block, best first. -/
def clusterCores (s : State) (cl : Nat) (regs : List Nat) : List Nat :=
  (((List.range 4).map (cl * 4 + ·)).filter fun k => coreHolds s k regs).foldr (insertCore s) []

/-- The cores for a set of `n` blocks of one shape, best cluster first. -/
def chooseCores (s : State) (part : Nat) (bamps n : Nat) (regs : List Nat) : Option (List Nat) :=
  let able := ((s.part? part).elim [] PartEntry.clusterList).filterMap fun cl =>
    let cs := clusterCores s cl regs
    if fieldTakes s (cl / 4) bamps n && decide (n ≤ cs.length) then some (cs.take n) else none
  able.foldl (fun best cs =>
    match best with
    | none => some cs
    | some b => if betterCore s (cs.headD 0) (b.headD 0) then some cs else some b) none

/-! ## Placing (R127 to R130) -/

/-- A free slot of a quarter. -/
def takeSlot (s : State) (core q : Nat) : Nat := (pickFree s 9 256 fun n => (slotted s core q).any fun g => g.at_.slot = n).getD 0

/-- Group `gid` of a block enters its quarter. -/
def placeGroup (k : Kernel) (linear core q0 : Nat) (s : State) (gid : Nat) : State :=
  let q := (q0 + gid) % 4
  let role := k.launch.roster.getD gid 0
  { s.fresh with
    groups := s.groups ++ [Group.start k.launch k.record k.ctx k.kid linear gid role ⟨core, q, takeSlot s core q⟩ (s.cycleOf core)] }

/-- One block is placed on a core. What its start is ordered after, the writes of a run that made its node ready (R139) or of the
group that launched it (R145), no older line of the core's L1 hides. -/
def placeBlock (k : Kernel) (dom : Nat) (s : State) (p : Nat × Nat) : State :=
  let (linear, core) := p
  let q0 := firstQuarter s core
  let s1 := (List.range k.launch.groups).foldl (placeGroup k linear core q0) (dropL1 s core)
  resyncTrace { s1 with blocks := s1.blocks ++ [Block.start k.kid k.ctx linear core dom k.launch.groups] } k.ctx k.kid linear

/-- The tile domain of a set: its kernel and first block (R251). -/
def setDomain (kid linear : Nat) : Nat := kid * 2 ^ 32 + linear

/-- The cores that the next set of a kernel goes to, if it fits now. -/
def nextSet (s : State) (k : Kernel) : Option (List Nat) :=
  let part := (s.ctx? k.ctx).elim 0xFFFF (·.part)
  chooseCores s part k.launch.bamps k.launch.clblk (k.launch.roster.map k.launch.regsOf)

/-- The next set of a kernel is placed in one cycle. -/
def placeSet (s : State) (k : Kernel) (cores : List Nat) : State :=
  let s1 := ((List.range cores.length).map fun i => (k.placed + i, cores.getD i 0)).foldl (placeBlock k (setDomain k.kid k.placed)) s
  let n := k.placed + cores.length
  s1.updKernel k.kid fun x =>
    { x with placed := n, state := if n = x.launch.blocks then .resident else .placing, waitedSince := (s.field 2).cycle, starved := false }

end Sys2Proof.Machine
end

