-- ==== Sys2Proof/Machine/Shards.lean ====
section
/-! DEFINITION. The geometry of a distributed tensor (R333 to R336) and what each conversion step computes (R338, R339,
R342). -/

namespace Sys2Proof.Machine

/-! ## Placement words (R334) -/

/-- The state byte of an axis. -/
def axisByte (w a : Nat) : Nat := w / 2 ^ (8 * a) % 256
/-- 0 R, 1 S, 2 P. -/
def axisKind (w a : Nat) : Nat := axisByte w a / 64
/-- The dimension of S, or the operation of P. -/
def axisArg (w a : Nat) : Nat := axisByte w a / 16 % 4
def setAxis (w a b : Nat) : Nat := w - axisByte w a * 2 ^ (8 * a) + b * 2 ^ (8 * a)

def axisOk (w a : Nat) : Bool :=
  match axisKind w a with
  | 0 => axisByte w a = 0
  | 1 => decide (axisArg w a ≤ 1) && axisByte w a % 16 = 0
  | 2 => decide (axisArg w a ≤ 2) && axisByte w a % 16 = 0
  | _ => false

/-- The word keeps the layout of R334 for a tensor of `nax` axes. -/
def placeOk (w nax : Nat) : Bool :=
  decide (w < 2 ^ 24) && (List.range 3).all fun a => if a < nax then axisOk w a else axisByte w a = 0

/-! ## Element formats (R336) -/

def tensorZ (ef : Nat) : Nat :=
  match ef with
  | 0 => 4
  | 1 => 2
  | 8 => 8
  | 9 => 4
  | _ => 0

def tensorFmt (ef : Nat) : Fmt :=
  match ef with
  | 0 => fmt32
  | 1 => fmtBf
  | _ => fmt64

/-- The identity of an operation: 0 add, 1 min, 2 max (R338). -/
def identityOf (ef op : Nat) : Nat :=
  match op with
  | 0 => 0
  | 1 => if ef = 9 then 0x7FFFFFFF else (tensorFmt ef).infBits
  | _ => if ef = 9 then 0x80000000 else (tensorFmt ef).withSign true (tensorFmt ef).infBits

/-! ## Shards (R335) -/

/-- Mesh extents as a tensor counts them: 1 for the axes that it does not use. -/
def tensorMesh (s : State) (part nax : Nat) : List Nat := (List.range 3).map fun a => if a < nax then partExtent s part a else 1

/-- First index and length of a shard along dimension `k`, of `n` indices, on the chip at coordinates `cs`. -/
def shardSpan (ns cs : List Nat) (w k n : Nat) : Nat × Nat :=
  let axes := (List.range 3).filter fun a => axisKind w a = 1 && axisArg w a = k
  let num := axes.foldl (fun x a => x * nth ns a 1 + nth cs a 0) 0
  let len := n / axes.foldl (fun x a => x * nth ns a 1) 1
  (num * len, len)

def TensorDesc.z (d : TensorDesc) : Nat := tensorZ d.ef
def TensorDesc.tileBytes (d : TensorDesc) : Nat := d.tr * d.tc * d.z

/-- A shard: first row and rows, first column and columns. -/
structure Span where
  r0 : Nat
  rows : Nat
  c0 : Nat
  cols : Nat
  deriving DecidableEq, Repr

def TensorDesc.span (d : TensorDesc) (ns cs : List Nat) (w : Nat) : Span :=
  let r := shardSpan ns cs w 0 d.d0
  let c := shardSpan ns cs w 1 d.d1
  ⟨r.1, r.2, c.1, c.2⟩

def Span.count (p : Span) : Nat := p.rows * p.cols
def Span.has (p : Span) (i j : Nat) : Bool :=
  decide (p.r0 ≤ i) && decide (i < p.r0 + p.rows) && decide (p.c0 ≤ j) && decide (j < p.c0 + p.cols)

/-- Tiles of a shard. -/
def TensorDesc.tiles (d : TensorDesc) (p : Span) : Nat := p.rows / d.tr * (p.cols / d.tc)
def TensorDesc.shardBytes (d : TensorDesc) (p : Span) : Nat := p.count * d.z

/-- Row and column of the element that a shard stores as number `e`: tile by tile, and row by row in a tile. -/
def TensorDesc.element (d : TensorDesc) (p : Span) (e : Nat) : Nat × Nat :=
  let t := e / (d.tr * d.tc)
  let k := e % (d.tr * d.tc)
  (p.r0 + t / (p.cols / d.tc) * d.tr + k / d.tc, p.c0 + t % (p.cols / d.tc) * d.tc + k % d.tc)

/-- The number at which a shard stores an element. -/
def TensorDesc.index (d : TensorDesc) (p : Span) (i j : Nat) : Nat :=
  ((i - p.r0) / d.tr * (p.cols / d.tc) + (j - p.c0) / d.tc) * (d.tr * d.tc) + (i - p.r0) % d.tr * d.tc + (j - p.c0) % d.tc

/-! ## Folds (R339, R342) -/

/-- An input that halts a step: a NaN, or opposite infinities in an add. -/
def foldHalts (f : Fmt) (op : Nat) (acc : Option Fp) (x : Nat) : Bool :=
  match f.unpack x, acc with
  | .nan _ _ _, _ => true
  | .inf n, some (.inf m) => op = 0 && n != m
  | _, _ => false

/-- The fold of float values in increasing coordinate, in binary64: the value, or the coordinate that halts it. -/
def foldFloats (f : Fmt) (op : Nat) : Nat → Option Nat → List Nat → Except Nat Nat
  | _, acc, [] => .ok (convertFloat fmt64 f .rne false (acc.getD 0))
  | k, acc, x :: rest =>
    if foldHalts f op (acc.map fmt64.unpack) x then .error k
    else
      let y := convertFloat f fmt64 .rne false x
      foldFloats f op (k + 1) (some (match acc with
        | none => y
        | some a => if op = 0 then fadd fmt64 .rne a y else fminmaxIn fmt64 (op = 2) a y)) rest

/-- The fold of a reduction step over the chips of an axis group. -/
def foldElement (ef op : Nat) (xs : List Nat) : Except Nat Nat :=
  if ef = 9 then
    .ok ((xs.tail.foldl (fun (a : Word) x =>
      let y := BitVec.ofNat 32 x
      if op = 0 then a + y else if op = 1 then minMode 0 a y else maxMode 0 a y) (BitVec.ofNat 32 (xs.headD 0))).toNat)
  else foldFloats (tensorFmt ef) op 0 none xs

/-! ## One step (R338) -/

/-- What a step works on: the tensor, the mesh and this chip's coordinates, the placement before, the axis and its new byte,
and the shards at hand, this chip's first. -/
structure StepIn where
  d : TensorDesc
  ns : List Nat
  cs : List Nat
  place : Nat
  axis : Nat
  dest : Nat
  shards : List (List Nat × List Byte)
  deriving DecidableEq, Repr

def StepIn.after (x : StepIn) : Nat := setAxis x.place x.axis x.dest

/-- A chip holds the same values of G as this one where it holds any: its coordinates agree on every other axis under P. -/
def StepIn.peer (x : StepIn) (cs : List Nat) : Bool :=
  (List.range 3).all fun b => b = x.axis || axisKind x.place b ≠ 2 || nth cs b 0 = nth x.cs b 0

/-- An element as a chip at coordinate `k` of the axis holds it, or any chip for `none`. -/
def StepIn.value (x : StepIn) (k : Option Nat) (i j : Nat) : Option Nat :=
  x.shards.findSome? fun h =>
    let p := x.d.span x.ns h.1 x.place
    if x.peer h.1 && k.all (fun n => nth h.1 x.axis 0 = n) && p.has i j then
      some (fieldAt h.2 (x.d.index p i j * x.d.z) x.d.z) else none

/-- This chip's own value of an element, if its shard has it. -/
def StepIn.own (x : StepIn) (i j : Nat) : Option Nat :=
  let p := x.d.span x.ns x.cs x.place
  if p.has i j then some (fieldAt ((x.shards.head?.map (·.2)).getD []) (x.d.index p i j * x.d.z) x.d.z) else none

/-- The values of an element along the axis; `none` while one is missing. -/
def StepIn.column (x : StepIn) (i j : Nat) : Option (List Nat) :=
  let vs := (List.range (nth x.ns x.axis 1)).map fun k => x.value (some k) i j
  if vs.all (·.isSome) then some (vs.filterMap id) else none

/-- The coordinates of a mesh. -/
def meshCoords (ns : List Nat) : List (List Nat) :=
  (List.range (nth ns 0 1)).flatMap fun x => (List.range (nth ns 1 1)).flatMap fun y => (List.range (nth ns 2 1)).map fun z => [x, y, z]

/-- The element lies at this chip's position along the axis: some chip with its coordinate there holds it, this one or one that another
axis of the same dimension puts elsewhere. -/
def StepIn.holds (x : StepIn) (i j : Nat) : Bool :=
  (meshCoords x.ns).any fun cs =>
    decide (nth cs x.axis 0 = nth x.cs x.axis 0) && x.peer cs && (x.d.span x.ns cs x.place).has i j

/-- The new value of an element; `none` while a shard that it needs is missing. A spread writes what lies at the chip's own position
along the axis, and the identity everywhere else, so that the state after it satisfies R335 also where a second axis shards the same
dimension (log 57). -/
def StepIn.result (x : StepIn) (i j : Nat) : Option Nat :=
  if x.dest / 64 = 2 then
    let id := identityOf x.d.ef (x.dest / 16 % 4)
    if axisKind x.place x.axis = 0 then (if nth x.cs x.axis 0 = 0 then x.own i j else some id)
    else
      match x.own i j with
      | some v => some v
      | none => if x.holds i j then x.value (some (nth x.cs x.axis 0)) i j else some id
  else if axisKind x.place x.axis = 2 then
    match x.column i j with
    | some vs =>
      (match foldElement x.d.ef (axisArg x.place x.axis) vs with
      | .ok v => some v
      | .error _ => none)
    | none => none
  else
    match x.own i j with
    | some v => some v
    | none => x.value none i j

/-- The element and the coordinate whose contribution halts a reduction step: the first in the order of the shard. -/
def StepIn.halt (x : StepIn) : Option (Nat × Nat) :=
  if axisKind x.place x.axis = 2 && x.dest / 64 ≠ 2 then
    let p := x.d.span x.ns x.cs x.place
    (List.range p.count).findSome? fun e =>
      let ij := x.d.element p e
      match x.column ij.1 ij.2 with
      | some vs =>
        (match foldElement x.d.ef (axisArg x.place x.axis) vs with
        | .ok _ => none
        | .error k => some (e, k))
      | none => none
  else none

/-- The shard after the step. -/
def StepIn.bytes (x : StepIn) : Option (List Byte) :=
  let p := x.d.span x.ns x.cs x.after
  let vs := (List.range p.count).map fun e => let ij := x.d.element p e; x.result ij.1 ij.2
  if vs.all (·.isSome) then some ((vs.filterMap id).flatMap fun v => leBytes v x.d.z) else none

end Sys2Proof.Machine
end

