-- ==== Sys2Proof/Machine/Tensor.lean ====
section
/-! DEFINITION. The placement unit: the placement table (R336, R337), demands (R340), the start, steps, arrivals and end of
conversions (R341 to R345, R388), and PLD copies (R350). -/

namespace Sys2Proof.Machine

/-! ## Descriptors (R336) -/

def TensorDesc.read (bs : List Byte) : TensorDesc :=
  { tid := fieldAt bs 0 2, ef := fieldAt bs 2 1, nax := fieldAt bs 3 1, place := BitVec.ofNat 32 (fieldAt bs 4 4),
    d0 := fieldAt bs 8 4, d1 := fieldAt bs 12 4, tr := fieldAt bs 16 2, tc := fieldAt bs 18 2,
    base0 := BitVec.ofNat 64 (fieldAt bs 24 8), base1 := BitVec.ofNat 64 (fieldAt bs 32 8), ssize := fieldAt bs 40 8 }

/-- A descriptor without BASE0 and BASE1, as chips compare it (R337). -/
def descKey (bs : List Byte) : List Byte := bs.take 24 ++ (bs.drop 40).take 24

/-- A buffer lies on local pages of type N with G = 0. -/
def bufferLocal (s : State) (ctx va n : Nat) : Bool :=
  decide (va + n ≤ 2 ^ 57) && (pageStarts va n).all fun a =>
    match translate s ctlCore ctx a.ea.toNat 0 with
    | some (e, _) => e.loc = 0 && e.mt = 0 && !e.graded
    | none => false

/-- The limits of R336. -/
def TensorDesc.ok (d : TensorDesc) (s : State) (part ctx : Nat) (bs : List Byte) : Bool :=
  let prod := (tensorMesh s part d.nax).foldl (· * ·) 1
  let zero (lo n : Nat) : Bool := ((bs.drop lo).take n).all (· = 0)
  d.tid ≠ 0 && d.z ≠ 0 && decide (1 ≤ d.nax) && decide (d.nax ≤ 3) && placeOk d.place.toNat d.nax && decide (1 ≤ d.tr)
    && decide (d.tr ≤ 4096) && [16, 32, 64, 128, 256, 512].contains (d.tc * d.z) && d.d0 ≠ 0 && d.d0 % (d.tr * prod) = 0
    && d.d1 ≠ 0 && d.d1 % (d.tc * prod) = 0 && zero 20 4 && zero 48 16 && d.base0.toNat % 256 = 0 && d.base1.toNat % 256 = 0
    && decide (d.d0 * d.d1 * d.z ≤ d.ssize) && !overlaps d.base0.toNat d.ssize d.base1.toNat d.ssize
    && bufferLocal s ctx d.base0.toNat d.ssize && bufferLocal s ctx d.base1.toNat d.ssize

/-- Why a PDECL is refused (R348). -/
def declareReason (s : State) (part ctx : Nat) (bs : List Byte) : Option Nat :=
  let d := TensorDesc.read bs
  if 1024 ≤ s.tensors.length then some 1
  else if !d.ok s part ctx bs then some 2
  else if (s.tensor? part d.tid).isSome then some 3
  else none

/-- An accepted entry. -/
def Tensor.declared (part ctx : Nat) (bs : List Byte) : Tensor :=
  let d := TensorDesc.read bs
  { part := part, ctx := ctx, desc := d, key := descKey bs, state := .declaring, committed := d.place, commitAt := [], commits := [],
    tail := d.place, buf := 0, nextSeq := 1, lastSeq := 0, pending := [] }

/-- Chips of a partition. -/
def partChips (s : State) (part : Nat) : Nat := partExtent s part 0 * partExtent s part 1 * partExtent s part 2

/-- Descriptors of a tensor that have reached this chip. -/
def descsOf (s : State) (part tid : Nat) : List PeerDesc := s.descriptors.filter fun x => x.part = part && x.tid = tid

def dropDescs (s : State) (part tid : Nat) : State :=
  { s with descriptors := s.descriptors.filter fun x => !(x.part = part && x.tid = tid) }

/-- A declaring entry becomes failed by a different descriptor, or ready by every chip's. -/
def settleDecl (s : State) (part tid : Nat) : State :=
  match s.tensor? part tid with
  | none => s
  | some t =>
    let ds := descsOf s part tid
    if t.state ≠ .declaring then s
    else if ds.any fun x => x.key ≠ t.key then
      engineFault ((dropDescs s part tid).updTensor part tid fun y => { y with state := .failed }) t.ctx 0x11 (BitVec.ofNat 64 tid)
    else if partChips s part ≤ ds.length then (dropDescs s part tid).updTensor part tid fun y => { y with state := .ready }
    else s

/-- PLACEMENT_DESCRIPTOR_ARRIVAL: a chip's descriptor arrives; this chip's own is the one that its entry holds. -/
def execPlacementDescriptorArrival (part chip : Nat) (bytes : List Byte) (s : State) : Out :=
  let d : PeerDesc := ⟨part, chip, (TensorDesc.read bytes).tid, descKey bytes⟩
  let own := (s.tensor? part d.tid).any fun t => t.state == .declaring && t.key = d.key
  if (s.part? part).isNone ∨ (chip = s.chipid ∧ !own) then .next s
  else
    .next (settleDecl { s with
      descriptors := upsert s.descriptors (fun x => x.part = part && x.chip = chip && x.tid = d.tid) d } part d.tid)

/-! ## Conversions -/

def Tensor.base (t : Tensor) (buf : Nat) : DWord := if buf % 2 = 0 then t.desc.base0 else t.desc.base1
def Tensor.mesh (s : State) (t : Tensor) : List Nat := tensorMesh s t.part t.desc.nax
def Tensor.spanOf (s : State) (t : Tensor) (w : Word) : Span := t.desc.span (Tensor.mesh s t) s.mesh w.toNat

/-- Axes whose state differs, in the order X, Y, Z (R338). -/
def changedAxes (nax : Nat) (a b : Word) : List Nat :=
  (List.range nax).filter fun k => axisByte a.toNat k ≠ axisByte b.toNat k

/-- A demand with a step from P to another P (R338). -/
def illegalDemand (t : Tensor) (w : Word) : Bool :=
  (changedAxes t.desc.nax t.tail w).any fun a => axisKind t.tail.toNat a = 2 && axisKind w.toNat a = 2

/-- The first pending conversion becomes an engine operation in a context that runs: it registers its entries, or waits for
room (R343). -/
def startConversion (s : State) (part tid : Nat) : State :=
  match s.tensor? part tid with
  | none => s
  | some t =>
    match t.pending with
    | [] => s
    | c :: rest =>
      if c.engine ≠ 0 ∨ !((s.ctx? t.ctx).any fun x => x.state = 2 && x.result ≠ 4) then s
      else
        let src := (t.base t.buf).toNat
        let dst := (t.base (t.buf + 1)).toNat
        let hs := globalHulls s t.ctx false false src (src + t.desc.shardBytes (t.spanOf s c.source))
          ++ globalHulls s t.ctx true true dst (dst + t.desc.shardBytes (t.spanOf s c.target))
        let e : Engine :=
          { id := s.nextEngine, core := ctlCore, ctx := t.ctx, part := part, kid := c.kid, dom := c.dom
            group := none, kind := .conv tid c.sequence, hulls := hs, admitted := false, suspended := false, items := []
            node := none }
        let s1 := (startEngine { s with nextEngine := s.nextEngine + 1 } e hs).1
        s1.updTensor part tid fun y => { y with pending := { c with engine := e.id } :: rest }

/-- Conversions of a context that wait to start do so. -/
def startConversions (s : State) (ctx : Nat) : State :=
  (s.tensors.filter fun t => t.ctx = ctx).foldl (fun a t => startConversion a t.part t.desc.tid) s

/-- A demand that differs from the tail is queued (R340). -/
def demand (s : State) (t : Tensor) (w : Word) (cap : Option DWord) (kid dom : Nat) : State :=
  let c : Conversion :=
    { sequence := t.nextSeq.toNat, source := t.tail, target := w, cap := cap, kid := kid, dom := dom, engine := 0,
      axes := changedAxes t.desc.nax t.tail w, work := [], place := t.tail, stepsDone := false, arrived := [] }
  startConversion (s.updTensor t.part t.desc.tid fun y =>
    { y with state := .converting, tail := w, nextSeq := y.nextSeq + 1, pending := y.pending ++ [c] }) t.part t.desc.tid

/-- The committed placement in a window: each changes at the start of window N + 2 (R345). -/
def Tensor.committedIn (t : Tensor) (window : Nat) : Word :=
  t.commits.foldl (fun w p => if p.1 + 2 ≤ window then p.2 else w) t.committed

/-- The pending conversions before a sequence number: of a past one none, of one not yet demanded all. -/
def Tensor.before (t : Tensor) (q : Nat) : List Conversion :=
  t.pending.takeWhile fun c => c.sequence ≠ q && decide ((q + 65536 - c.sequence) % 65536 < 32768)

/-- A conversion halts (R337, R342): the entry fails, that conversion and the later ones go with their locks, the tail is the present
placement with those that are kept applied, and the record, a cause with ADDR and FLAGS, is written. -/
def haltKeeping (s : State) (t : Tensor) (keep : List Conversion) (record : Option (Nat × DWord × Nat)) : State :=
  let s1 := (t.pending.drop keep.length).foldl (fun a c => if c.engine = 0 then a else endOrItems a c.engine) s
  let s2 := s1.updTensor t.part t.desc.tid fun y =>
    { y with state := .failed, pending := keep, tail := (keep.getLast?).elim t.present (·.target) }
  match record with
  | some (cause, addr, flags) => engineFault s2 t.ctx cause addr flags
  | none => s2

/-- The first pending conversion halts. -/
def haltConversion (s : State) (t : Tensor) (record : Option (Nat × DWord × Nat)) : State := haltKeeping s t [] record

/-- The record for a conversion that a peer has halted: none for cause 0x12, whose writer is the contributor; none for a cause that no
halt has (R7, R341, R342). -/
def haltNotice (tid cause : Nat) : Option (Nat × DWord × Nat) :=
  if cause = 8 ∨ cause = 9 ∨ cause = 0x11 then some (cause, BitVec.ofNat 64 tid, 0) else none

/-- The shard that the first step reads: the present buffer's (R338). -/
def stepSource (s : State) (t : Tensor) (c : Conversion) : Except EngineStop (List Byte × State) :=
  if c.place = c.source && c.work = [] then engineBytes ctlCore t.ctx (t.desc.shardBytes (t.spanOf s c.source) / 16) s (t.base t.buf)
  else .ok (c.work, s)

def stepInput (s : State) (t : Tensor) (c : Conversion) (a : Nat) (own : List Byte) (peers : List Shard) : StepIn :=
  { d := t.desc, ns := t.mesh s, cs := s.mesh, place := c.place.toNat, axis := a, dest := axisByte c.target.toNat a,
    shards := (s.mesh, own) :: peers.map fun p => (p.coords, p.bytes) }

/-- Every other chip of the axis group has reached the step. -/
def groupReady (x : StepIn) (peers : List Shard) : Bool :=
  (List.range (nth x.ns x.axis 1)).all fun k => k = nth x.cs x.axis 0 || peers.any fun p => p.coords = x.cs.set x.axis k

/-- One step on an axis. The element that halts it lies in the shard that the step reads: the present buffer's, or after an earlier
step the other buffer's (log 56). -/
def convStep (s : State) (t : Tensor) (c : Conversion) (e : Engine) (a : Nat) (axes : List Nat) (peers : List Shard) : State :=
  match stepSource s t c with
  | .error (.fail cause va flags) => haltConversion s t (some (cause, va, flags))
  | .error x => stopEngine s e x
  | .ok (own, s1) =>
    let x := stepInput s1 t c a own peers
    if !groupReady x peers then s
    else
      match x.halt with
      | some (k, who) =>
        let shard := t.base (if c.work = [] then t.buf else t.buf + 1)
        haltConversion s1 t (if who = nth x.cs a 0 then some (0x12, shard + BitVec.ofNat 64 (k * t.desc.z), 0) else none)
      | none =>
        match x.bytes with
        | none => s
        | some bs =>
          let c' := { c with axes := axes, work := bs, place := BitVec.ofNat 32 x.after, stepsDone := axes.isEmpty }
          s1.updTensor t.part t.desc.tid fun y => { y with pending := c' :: y.pending.tail }

/-- What peers bring that halts a conversion: a notice of theirs, or a demand of the same sequence number with another placement
(R341); the sequence number and the record. -/
def peerHalt (t : Tensor) (peers : List Shard) : Option (Nat × Option (Nat × DWord × Nat)) :=
  match peers.find? fun p => p.halted.isSome with
  | some p => some (p.sequence, haltNotice t.desc.tid (p.halted.getD 0))
  | none =>
    (peers.find? fun p => t.pending.any fun c => c.sequence = p.sequence && c.target != p.place).map fun p =>
      (p.sequence, some (0x11, BitVec.ofNat 64 t.desc.tid, 0))

/-- CONVERSION_STEP: a halt takes effect whether or not this chip has come to that conversion. In an entry that has failed the
conversions before the one that halted go on (R337); there only what halts one of them counts. -/
def execConversionStep (part tid : Nat) (peers : List Shard) (s : State) : Out :=
  match s.tensor? part tid with
  | none => .next s
  | some t =>
    if t.state ≠ .ready ∧ t.state ≠ .converting ∧ ¬(t.state = .failed ∧ t.pending ≠ []) then .next s
    else
      match (peerHalt t peers).filter fun p => t.state ≠ .failed || t.before p.1 ≠ t.pending, t.pending with
      | some (q, record), _ => .next (haltKeeping s t (t.before q) record)
      | none, [] => .next s
      | none, c :: _ =>
        match s.engine? c.engine, c.axes with
        | some e, a :: axes =>
          if engineLive s e then .next (convStep s t c e a axes (peers.filter fun p => p.sequence = c.sequence)) else .next s
        | _, _ => .next s

/-! ## PLD copies (R350) -/

/-- The tile of a PLD has arrived, or its conversion is over. -/
def pldReady (t : Tensor) (sequence tile : Nat) : Bool :=
  (t.pending.find? fun c => c.sequence = sequence).all fun c => c.arrived.contains tile

/-- The bytes of the shard's tile are copied; the entry is released; an item of its own is enqueued. -/
def pldCopy (s : State) (e : Engine) : State :=
  match e.kind with
  | .pld tid tile _ ref cap ownItem sequence buffer =>
    match s.tensor? e.part tid, s.tileOf e.dom (refHandle ref) with
    | some t, some dst =>
      if !pldReady t sequence tile then s
      else
        (match engineBytes e.core t.ctx (t.desc.tileBytes / 16) s (t.base buffer + BitVec.ofNat 64 (tile * t.desc.tileBytes)) with
        | .error (.fault va kind) => parkEngine s e.id t.ctx va kind
        | .error x => stopEngine s e x
        | .ok (bs, s1) =>
          let s2 := releaseLocks (writeLoc s1 (.tile dst.id (refOff ref)) bs) e.id
          endOrItems (if ownItem then sendItem s2 e.id cap (arrivalItem 2 tid tile) else s2) e.id)
    | _, _ => endEngine s e.id
  | _ => s

/-- PLD_COPY_DONE. -/
def execPldCopyDone (id : Nat) (s : State) : Out :=
  match s.engine? id with
  | some e => if engineLive s e then .next (pldCopy s e) else .next s
  | none => .next s

/-- Copies from a buffer by PLDs of an earlier placement, which come before a later conversion's bytes there (R350): those that wait
for no conversion that is still pending. -/
def earlierCopies (s : State) (t : Tensor) (buffer : Nat) : List Engine :=
  s.engines.filter fun e =>
    match e.kind with
    | .pld tid _ _ _ _ _ q b => e.part = t.part && tid = t.desc.tid && b % 2 = buffer % 2 && !t.pending.any fun c => c.sequence = q
    | _ => false

/-- Outstanding copies of a tensor. -/
def copiesLeft (s : State) (part tid : Nat) : Bool :=
  s.engines.any fun e =>
    match e.kind with
    | .pld k _ _ _ _ _ _ _ => e.part = part && k = tid
    | _ => false

/-! ## Arrival and completion (R343 to R345) -/

/-- A tile's final bytes are performed in the destination buffer, its part of the entry is released, its item enqueued. -/
def arriveTile (s : State) (t : Tensor) (c : Conversion) (e : Engine) (tile : Nat) : State :=
  let tb := t.desc.tileBytes
  let at_ := t.base (t.buf + 1) + BitVec.ofNat 64 (tile * tb)
  match enginePut ⟨ctlCore, t.ctx, t.part, c.kid, 3⟩ (tb / 16) s at_ ((c.work.drop (tile * tb)).take tb) with
  | .error (.fail cause va flags) => haltConversion s t (some (cause, va, flags))
  | .error x => stopEngine s e x
  | .ok s1 =>
    let s2 := releaseRange s1 e.id (.global t.ctx) at_.toNat (at_.toNat + tb)
    let s3 := s2.updTensor t.part t.desc.tid fun y =>
      { y with pending := { c with arrived := c.arrived ++ [tile] } :: y.pending.tail }
    match c.cap with
    | some cap => sendItem s3 e.id cap (arrivalItem 2 t.desc.tid tile)
    | none => s3

/-- CONVERSION_TILE_ARRIVAL. -/
def execConversionTileArrival (part tid tile : Nat) (s : State) : Out :=
  match s.tensor? part tid with
  | none => .next s
  | some t =>
    match t.pending with
    | [] => .next s
    | c :: _ =>
      match s.engine? c.engine with
      | none => .next s
      | some e =>
        if !c.stepsDone ∨ t.desc.tiles (t.spanOf s c.target) ≤ tile ∨ c.arrived.contains tile ∨ !engineLive s e then .next s
        else
          let s1 := (earlierCopies s t (t.buf + 1)).foldl (fun a x => if engineLive a x then pldCopy a x else a) s
          if (earlierCopies s1 t (t.buf + 1)).isEmpty then .next (arriveTile s1 t c e tile) else .next s1

/-- CONVERSION_COMPLETE: the present buffer changes and the next conversion may start. -/
def execConversionComplete (part tid : Nat) (s : State) : Out :=
  match s.tensor? part tid with
  | none => .next s
  | some t =>
    match t.pending with
    | [] => .next s
    | c :: rest =>
      if !c.stepsDone ∨ c.arrived.length < t.desc.tiles (t.spanOf s c.target) then .next s
      else
        let s1 := (endOrItems s c.engine).updTensor part tid fun y =>
          { y with
            pending := rest
            state := if y.state = .failed then .failed else if rest = [] then .ready else .converting
            buf := (y.buf + 1) % 2
            lastSeq := BitVec.ofNat 16 c.sequence
            commitAt := y.commitAt ++ [(s.window part, c.target)] }
        .next (startConversion s1 part tid)

/-- Placements whose window has come are committed. -/
def Tensor.settle (t : Tensor) (window : Nat) : Tensor :=
  { t with committed := t.committedIn window, commits := t.commits.filter fun p => !decide (p.1 + 2 ≤ window) }

/-- The last chip of the partition has completed the first conversion that waits for that, in window `last`, which is no earlier
than this chip's own. -/
def Tensor.overIn (t : Tensor) (last : Nat) : Tensor :=
  match t.commitAt with
  | (n, w) :: rest => if n ≤ last then { t with commitAt := rest, commits := t.commits ++ [(last, w)] } else t
  | [] => t

def placementOver (s : State) (part tid last : Nat) : State := s.updTensor part tid fun t => t.overIn last

/-- PLACEMENT_COMMIT: at the start of window N + 2 the placement that was complete on every chip in window N is the committed one. -/
def execPlacementCommit (part tid : Nat) (s : State) : Out :=
  .next (s.updTensor part tid fun t => t.settle (s.window part))

/-! ## Instructions (R347 to R352) -/

/-- The tensor that a TID names for a group. -/
def Iss.tensor (c : Iss) (s : State) (x : DWord) : Option Tensor := s.tensor? (c.part s) (x.toNat % 65536)

/-- PDECL. -/
def execPdecl (d a : BitVec 6) (s : State) : Out :=
  runIssue s fun c => do
    c.prep (.pdecl d a) true (uniUses [.s a.toNat] [.s d.toNat])
    c.room s 3
    let as : List Acc := [⟨none, c.sv a.toNat⟩]
    let (ts, s1) ← accessChecks s c as 64 false
    checkPages ts 2 notCarveOut
    match ts with
    | [] => .ok s1
    | t :: _ =>
      let s2 := flushRange s1 c.who.core t.loc 64
      let bs := readLoc s2 t.loc 64
      let part := c.part s
      match declareReason s2 part c.g.ctx bs with
      | some r => .ok (withGroup { s2 with seq := s2.seq + 1 } c fun g =>
          g.blockStake.answer c.f.slices 3 s2.seq d.toNat (BitVec.ofNat 64 (2 ^ 63 + r)))
      | none =>
        .ok (withGroup { s2 with seq := s2.seq + 1, tensors := s2.tensors ++ [Tensor.declared part c.g.ctx bs] } c fun g =>
          g.blockStake.answer c.f.slices 3 s2.seq d.toNat 0)

/-- The first check of R349, with those of R86: the placement word, and the bits marked zero of s[a], for `pair` of the
capability in s[a+1] (R112), and for `ref` of a tile reference (R252). FADDR holds s[a]. -/
def Iss.demandPrep (c : Iss) (s : State) (i : Instr) (u : Uses) (x w : DWord) (bits : Nat) (pair ref : Option DWord) : Except Stop Unit :=
  c.prepWith i true u (some x) (need (placeOk w.toNat ((c.tensor s x).elim 3 (·.desc.nax)) && decide (x.toNat < 2 ^ bits)
    && pair.all (fun k => bitsAt k.toNat 35 5 = 0) && ref.all refClean) 1 x) 0

/-- Checks 2 and 3 of R349: the tensor and the capability. -/
def demandChecks (s : State) (c : Iss) (x w : DWord) (cap : Option DWord) : Except Stop Tensor := do
  match c.tensor s x with
  | none => trapWith 0x11 x
  | some t =>
    need ((t.state == .ready || t.state == .converting) && !illegalDemand t (w.setWidth 32)) 0x11 x
    match cap.bind fun k => (capReason s c.g.ctx k (some 0) (some 0) true).map fun r => (k, r) with
    | some (k, r) => trapWith 0x0E x (capInfo r k)
    | none => .ok t

/-- PCONV. The group's earlier accesses come before the conversion's reads (R388). -/
def execPconv (d a b : BitVec 6) (g : BitVec 2) (s : State) : Out :=
  runIssue s fun c => do
    let w := c.sv b.toNat
    let cap := if g.toNat = 1 then some (c.sv d.toNat) else none
    c.demandPrep s (.pconv d a b g) (uniUses ([.s a.toNat, .s b.toNat] ++ if g.toNat = 1 then [.s d.toNat] else []) []) (c.sv a.toNat) w 16 none none
    let t ← demandChecks s c (c.sv a.toNat) w cap
    let s1 := withGroup (beforeItem s c.who.group) c Group.blockStake
    .ok (if t.tail = w.setWidth 32 then s1 else demand s1 t (w.setWidth 32) cap c.g.kid (s.domOf c.g))

/-- The conversion that a PLD's copy waits for, and the buffer it reads (R350). -/
def pldSource (t : Tensor) : Nat × Nat :=
  match t.pending.getLast? with
  | some c => (c.sequence, (t.buf + t.pending.length) % 2)
  | none => (0x10000, t.buf)

/-- PLD. A TID that the kernel's tensor list does not name is loaded as any other: R125 says which tensors a PLD may use, and no rule
gives a check or a cause for it (log 96). -/
def execPld (d a b : BitVec 6) (g : BitVec 2) (s : State) : Out :=
  runIssue s fun c => do
    let q : Bool := g.toNat = 1
    let x := c.sv a.toNat
    let w := c.sv b.toNat
    let ref := c.sv d.toNat
    let cap := if q then some (c.sv (a.toNat + 1)) else none
    c.demandPrep s (.pld d a b g) (uniUses ([.s a.toNat, .s b.toNat, .s d.toNat] ++ if q then [.s (a.toNat + 1)] else []) []) x w 48 cap (some ref)
    let t ← demandChecks s c x w cap
    match usableTile s c.who.core (s.domOf c.g) (refHandle ref) levelSC with
    | none => trapWith 0x10 x
    | some dst =>
      let tb := t.desc.tileBytes
      let tile := x.toNat / 65536
      need (refOff ref % 16 = 0) 0x0A x
      need (decide (refOff ref + tb ≤ dst.size)) 0x0F x
      need (decide (tile < t.desc.tiles (t.spanOf s (w.setWidth 32)))) 9 x 6
      let asks : Bool := t.tail ≠ w.setWidth 32
      let s1 := beforeItem s c.who.group
      let s2 := if asks then demand s1 t (w.setWidth 32) cap c.g.kid (s.domOf c.g) else s1
      let src := pldSource ((s2.tensor? t.part t.desc.tid).getD t)
      let hull : Hull := ⟨dst.bankCore, dst.range, true, true, refOff ref, refOff ref + tb⟩
      .ok (issueEngine s2 c (c.engine s2 (.pld t.desc.tid tile (w.setWidth 32) ref (cap.getD 0) (q && !asks) src.1 src.2) [hull]) id)

/-- PSTAT's word (R351). -/
def pstatWord (t : Tensor) (window : Nat) (tail : Bool) : DWord :=
  let st : Nat := match t.state with
    | .declaring => 1
    | .ready => 2
    | .converting => 3
    | .failed => 4
  BitVec.ofNat 64 (st * 2 ^ 56 + min 255 t.pending.length * 2 ^ 48 + t.lastSeq.toNat * 2 ^ 32 + t.buf * 2 ^ 24
    + (if tail then t.tail else t.committedIn window).toNat % 2 ^ 24)

/-- PSTAT. -/
def execPstat (f : BitVec 4) (d a : BitVec 6) (s : State) : Out :=
  runIssue s fun c => do
    c.prep (.pstat f d a) true (uniUses [.s a.toNat] [.s d.toNat])
    c.room s 3
    match c.tensor s (c.sv a.toNat) with
    | none => trapWith 0x11
    | some t => .ok (withGroup { s with seq := s.seq + 1 } c fun g => g.answer c.f.slices 3 s.seq d.toNat (pstatWord t (s.window t.part) (f.toNat = 1)))

/-- PFREE. -/
def execPfree (a : BitVec 6) (s : State) : Out :=
  runIssue s fun c => do
    c.prep (.pfree a) true (uniUses [.s a.toNat] [])
    match c.tensor s (c.sv a.toNat) with
    | none => trapWith 0x11
    | some t =>
      need (t.pending = []) 0x11
      if copiesLeft s t.part t.desc.tid then .error (.park (blockRewind s c) (.copies t.part t.desc.tid))
      else .ok (withGroup { s with tensors := s.tensors.filter fun y => !(y.part = t.part && y.desc.tid = t.desc.tid) } c Group.blockStake)

end Sys2Proof.Machine
end

