-- ==== Sys2Proof/Machine/Link.lean ====
section
/-! DEFINITION. Ports and circuits (R353 to R356), the pitch table (R357), topology generations and changes (R358 to R363),
slot plans (R364 to R366). -/

namespace Sys2Proof.Machine

/-! ## Control frames (R362) -/

/-- One bit of the CRC-32 of IEEE 802.3. -/
def crcBit (c : Word) : Word := if c.getLsbD 0 then (c >>> 1) ^^^ 0xEDB88320 else c >>> 1

def crcByte (c : Word) (b : Byte) : Word := (List.range 8).foldl (fun x _ => crcBit x) (c ^^^ b.setWidth 32)

def crc32 (bs : List Byte) : Word := ~~~(bs.foldl crcByte 0xFFFFFFFF)

/-- A frame with its CRC. -/
def frameBytes (type seq part chip gen route pitch : Nat) (arg : List Byte) : List Byte :=
  let body := leBytes type 1 ++ leBytes seq 1 ++ leBytes part 2 ++ leBytes chip 2 ++ leBytes gen 2 ++ leBytes route 4
    ++ leBytes pitch 1 ++ leBytes 0 3 ++ (arg ++ List.replicate (12 - arg.length) 0)
  body ++ leBytes (crc32 body).toNat 4

/-- Sends a frame under the next frame number. -/
def emitFrame (s : State) (type part gen route pitch : Nat) (arg : List Byte) : State :=
  { s with
    frames := s.frames ++ [frameBytes type s.frameSeq part s.chipid gen route pitch arg]
    frameSeq := (s.frameSeq + 1) % 256 }

/-! ## Ports (R355) -/

/-- The partition that owns a port. -/
def portOwner (s : State) (port : Nat) : Option PartEntry := s.parts.find? fun p => p.ports.testBit port

def setPort (s : State) (port : Nat) (x : PortState) : State := { s with ports := s.ports.set port x }

def portIs (s : State) (port : Nat) (x : PortState) : Bool := nth s.ports port .dark == x

/-- Every port of a partition that a predicate selects moves. -/
def movePorts (s : State) (part : Nat) (pick : Nat → PortState → Bool) (x : PortState) : State :=
  let own := (s.part? part).elim 0 (·.ports)
  { s with ports := s.ports.mapIdx fun i y => if own.testBit i && pick i y then x else y }

/-- Some port of a partition is in a state. -/
def anyPort (s : State) (part : Nat) (x : PortState) : Bool :=
  let own := (s.part? part).elim 0 (·.ports)
  (List.range 16).any fun i => own.testBit i && portIs s i x

/-- PORT_TRAINED: the port is idle and HELLO goes to the switch (R355, R363). -/
def execPortTrained (port : Nat) (s : State) : Out :=
  if portIs s port .training then .next (emitFrame (setPort s port .idle) 1 0 0 0 0 []) else .next s

/-- CIRCUIT_UP: an idle port that takes part in the pitch of its owner comes up. -/
def execCircuitUp (port : Nat) (s : State) : Out :=
  match portOwner s port with
  | some p =>
    (match (currentPitch s p.partid).filter fun x => x.ports.testBit port && portIs s port .idle with
    | some x => .next (setPort { s with engines := s.engines.map fun e => if e.sendsTo p.partid (nth x.peers port 0 % 4096) then e.notBefore s.ptpns else e } port .up)
    | none => .next s)
  | none => .next s

/-- A port still carries something of a partition: flits that have left through it and that its peer has not acknowledged (R355, R389);
or, on a pitch, a send for the peer of its circuit that has passed its check, waiting at issue for its entry or in the queue (R360, R361). -/
def portBusy (s : State) (part port : Nat) : Bool :=
  (s.unacked.any fun u => u.part = part && u.port = port) ||
  match (s.link part).mode with
  | .pitch i =>
    s.engines.any fun e => e.part = part &&
      match e.kind with
      | .send _ _ _ _ left dest _ _ _ _ _ _ _ held _ =>
        decide (left > 0) && !held && (s.pitch? i).any fun p => dest = nth p.peers port 0 % 4096
      | _ => false
  | _ => false

/-- A started collective of a partition that has chunks to perform (R360). -/
def collOpen (s : State) (part : Nat) : Bool :=
  s.engines.any fun e => e.part = part &&
    match e.kind with
    | .coll c => (List.range (collChunks c.rec_ c.n)).any fun k => !c.outDone.contains k
    | _ => false

/-- PORT_DRAINED: the last started flit has left; in slot mode flits are cut (R365). -/
def execPortDrained (port : Nat) (s : State) : Out :=
  match portOwner s port with
  | some p =>
    let ends := (s.link p.partid).changes ≠ [] && collOpen s p.partid
    if portIs s port .draining && !portBusy s p.partid port && !ends then .next (setPort s port .idle) else .next s
  | none => if portIs s port .draining then .next (setPort s port .idle) else .next s

/-- PORT_FAULT: acknowledgements of the flits that left through the port are awaited no more; the owner's generation rises, and that of each change it waits for; every context of the owner gets a
record. -/
def execPortFault (port : Nat) (s : State) : Out :=
  if !(portIs s port .up || portIs s port .draining) then .next s
  else
    let s0 := (setPort s port .fault).count .portFault port 0 1
    match portOwner s port with
    | none => .next s0
    | some p =>
      let s1 := { s0 with unacked := s0.unacked.filter fun u => !(u.part = p.partid && u.port = port) }
      let l := s1.link p.partid
      let s2 := s1.setLink { l with tgen := l.tgen + 1, tail := l.tail + 1,
                                    changes := l.changes.map fun c => { c with gen := c.gen + 1 } }
      .next ((s2.contexts.filter fun c => c.part = p.partid).foldl (fun a c => engineFault a c.id 6 (BitVec.ofNat 64 port)) s2)

/-- PORT_RETRAINED. -/
def execPortRetrained (port : Nat) (s : State) : Out :=
  if portIs s port .fault then .next (setPort s port .idle) else .next s

/-! ## The pitch table (R357) -/

def Pitch.read (i : Nat) (bs : List Byte) : Pitch :=
  { index := i, part := fieldAt bs 0 2, ports := fieldAt bs 2 2, route := fieldAt bs 4 4,
    peers := (List.range 16).map fun k => fieldAt bs (16 + 2 * k) 2 }

/-- The limits of an entry. -/
def pitchOk (s : State) (bs : List Byte) (p : Pitch) : Bool :=
  let own := (s.part? p.part).elim 0 (·.ports)
  bs.length = 64 && fieldAt bs 8 8 = 0 && ((bs.drop 48).take 16).all (· = 0)
    && (p.part = 0xFFFF || (List.range 16).all fun k => !p.ports.testBit k || own.testBit k)
    && (List.range 16).all fun k => p.ports.testBit k || nth p.peers k 0 = 0

/-- PITCH_WRITE: refused while a context of the entry's partition runs, or when a limit is broken. -/
def execPitchWrite (i : Nat) (bytes : List Byte) (s : State) : Out :=
  let p := Pitch.read i bytes
  let busy := s.contexts.any fun c => c.state = 2 && (c.part = p.part || (s.pitch? i).any fun q => q.part = c.part)
  if busy || !pitchOk s bytes p then .next s
  else
    .next { s with pitches := (s.pitches.filter fun q => q.index ≠ i) ++ [p] }

/-! ## Topology changes (R358 to R361) -/

/-- The link of a partition changes. -/
def updLink (s : State) (part : Nat) (f : Link → Link) : State := s.setLink (f (s.link part))

/-- The change that is first begins: in circuit mode its ports drain. -/
def beginChange (s : State) (part : Nat) : State :=
  match (s.link part).mode with
  | .pitch _ => movePorts s part (fun _ x => x == .up) .draining
  | _ => s

/-- A change is accepted: the tail generation advances (R360). -/
def acceptChange (s : State) (part : Nat) (kind : ChangeKind) (gid : GroupId) (opIndex dest : Nat) : State :=
  let l := s.link part
  let c : Change := ⟨l.tail + 1, kind, gid, opIndex, dest, 0, [], 0, 0⟩
  let s1 := s.setLink { l with tail := l.tail + 1, changes := l.changes ++ [c] }
  if l.changes = [] then beginChange s1 part else s1

/-- A result of a topology change lands in its issuer's scalar, unless another fragment's later write has overruled it (R179). -/
def answerChange (s : State) (c : Change) (x : DWord) : State :=
  s.updGroup c.group fun g =>
    let own (o : OutOp) : Bool := o.counter = 3 && o.index = c.opIndex && o.lands ≠ []
    let g1 := if g.ops.any own then g.landScalar (s.cycleOf c.group.core) c.dest x else g
    ({ g1 with ops := g1.ops.map fun o => if o.counter = 3 && o.index = c.opIndex then { o with done := true } else o } : Group).prune

/-- The first change of a partition ends: TGEN takes its generation, the mode is `mode`, s[d] takes the result, and the next
change begins. -/
def finishChange (s : State) (part : Nat) (mode : LinkMode) (result : BitVec 16 → DWord) : State :=
  let l := s.link part
  match l.changes with
  | [] => s
  | c :: rest =>
    let s1 := answerChange (s.setLink { l with tgen := c.gen, mode := mode, changes := rest }) c (result c.gen)
    if rest = [] then s1 else beginChange s1 part

def changeDone (g : BitVec 16) : DWord := g.setWidth 64
/-- s[d] of a change that failed: 1 NAK, 2 silence (R360). -/
def changeFailed (reason : Nat) (g : BitVec 16) : DWord := BitVec.ofNat 64 (2 ^ 63 + reason * 2 ^ 16 + g.toNat)

/-- The frame that asks the switch for a change (R362). -/
def changeFrame (s : State) (part : Nat) (c : Change) : State :=
  let route (i : Nat) : Nat := (s.pitch? i).elim 0 (·.route)
  match c.kind with
  | .reconf i => emitFrame s 2 part c.gen.toNat (route i) i []
  | .slots p => emitFrame s 3 part c.gen.toNat (route (nth p.pitches 0 0)) p.nslot (leBytes p.epoch 8 ++ leBytes p.slotns 4)
  | .stopPlan => emitFrame s 4 part c.gen.toNat 0 0 []

/-- The ending configuration carries nothing more: its ports have drained, or its slot has ended (R360, R361). -/
def configurationOver (s : State) (part : Nat) : Bool :=
  !anyPort s part .up && !anyPort s part .draining && !collOpen s part &&
    match (s.link part).mode with
    | .plan _ _ _ stage => stage = 2
    | _ => true

/-- RECONF_DRAINED: no circuit is up any more, and the frame is sent. -/
def execReconfDrained (part : Nat) (s : State) : Out :=
  let l := s.link part
  match l.changes with
  | [] => .next s
  | c :: rest =>
    if c.phase ≠ 0 ∨ !configurationOver s part then .next s
    else
      let s1 := changeFrame s part c
      let c' := { c with phase := 1, since := s.ptpns, frame := s1.frames.getLast?.getD [] }
      .next (s1.setLink { l with mode := .none, changes := c' :: rest })

/-- The first change of a partition that awaits an answer for a generation: a frame's GEN is what its answer names. -/
def awaiting (s : State) (part gen : Nat) : Option Change :=
  ((s.link part).changes.head?).filter fun c => c.phase = 1 && fieldAt c.frame 6 2 = gen

/-- SWITCH_DONE: the pitch's circuits come up (R360). -/
def execSwitchDone (_seq part gen : Nat) (s : State) : Out :=
  match awaiting s part gen with
  | none => .next s
  | some c =>
    match c.kind with
    | .reconf i =>
      let ports := (s.pitch? i).elim 0 (·.ports)
      .next (finishChange (movePorts s part (fun k x => ports.testBit k && x == .idle) .up) part (.pitch i) changeDone)
    | _ => .next s

/-- SWITCH_NAK: no circuit is up, and TGEN advances all the same. -/
def execSwitchNak (_seq part gen _reason : Nat) (s : State) : Out :=
  match awaiting s part gen with
  | none => .next s
  | some _ => .next (finishChange s part .none (changeFailed 1))

/-- SWITCH_PLANOK: a plan waits for EPOCH; the end of plan mode takes effect at once (R366). -/
def execSwitchPlanok (_seq part gen : Nat) (s : State) : Out :=
  match awaiting s part gen with
  | none => .next s
  | some c =>
    match c.kind with
    | .slots _ => .next (updLink s part fun l => { l with changes := { c with phase := 2 } :: l.changes.tail })
    | .stopPlan => .next (finishChange s part .none changeDone)
    | .reconf _ => .next s

/-- SWITCH_TIME: the switch's time, which changes no state that the manual names (R363). -/
def execSwitchTime (_time : DWord) (s : State) : Out := .next s

/-- CONTROL_FRAME_CRC_FAIL: the frame is dropped (R362). -/
def execControlFrameCrcFail (s : State) : Out := .next s

/-- CONTROL_RETRY_TIMEOUT: 10 µs without an answer; three retries, then silence (R360). -/
def execControlRetryTimeout (part : Nat) (s : State) : Out :=
  let l := s.link part
  match l.changes with
  | [] => .next s
  | c :: rest =>
    if c.phase ≠ 1 ∨ s.ptpns < c.since + 10000 then .next s
    else if c.tries < 3 then
      .next { s.setLink { l with changes := { c with tries := c.tries + 1, since := s.ptpns } :: rest } with frames := s.frames ++ [c.frame] }
    else .next (finishChange s part .none (changeFailed 2))

/-! ## Slot plans (R364 to R366) -/

/-- Start of a slot. -/
def Plan.start (p : Plan) (r j : Nat) : Nat := p.epoch + (r * p.nslot + j) * p.slotns

/-- PLAN_EPOCH: slot 0 of rotation 0 begins with its guard. -/
def execPlanEpoch (part : Nat) (s : State) : Out :=
  match (s.link part).changes with
  | [] => .next s
  | c :: _ =>
    match c.kind with
    | .slots p =>
      if c.phase = 2 ∧ p.epoch ≤ s.ptpns then .next (finishChange s part (.plan p 0 0 0) changeDone) else .next s
    | _ => .next s

/-- SLOT_START: the next slot's guard; a plan that a change ends starts none. -/
def execSlotStart (part : Nat) (s : State) : Out :=
  let l := s.link part
  match l.mode with
  | .plan p r j 2 =>
    let (r', j') := if j + 1 < p.nslot then (r, j + 1) else (r + 1, 0)
    if l.changes = [] ∧ p.start r' j' ≤ s.ptpns then .next (s.setLink { l with mode := .plan p r' j' 0 }) else .next s
  | _ => .next s

/-- SLOT_WINDOW_OPEN: the guard is over and the ports of the slot's pitch are up. While a port still drains the window stays shut, and
what could have left in it is not made up for (R437). -/
def execSlotWindowOpen (part : Nat) (s : State) : Out :=
  let l := s.link part
  match l.mode with
  | .plan p r j 0 =>
    if s.ptpns < p.start r j + p.guardns then .next s
    else if anyPort s part .draining then
      .next { s with engines := s.engines.map fun e => if e.part = part then e.notBefore s.ptpns else e }
    else
      let ports := (s.pitch? (nth p.pitches j 0)).elim 0 (·.ports)
      .next ((movePorts s part (fun k x => ports.testBit k && x == .idle) .up).setLink { l with mode := .plan p r j 1 })
  | _ => .next s

def Plan.read (bs : List Byte) : Plan :=
  { nslot := fieldAt bs 0 1, slotns := fieldAt bs 8 4, guardns := fieldAt bs 12 4, epoch := fieldAt bs 16 8,
    pitches := (List.range (min 16 (fieldAt bs 0 1))).map fun k => fieldAt bs (32 + k) 1 }

/-- The limits of R364; EPOCH lies at least 100 µs ahead. -/
def planOk (s : State) (bs : List Byte) (p : Plan) : Bool :=
  let zero (lo n : Nat) : Bool := ((bs.drop lo).take n).all (· = 0)
  decide (1 ≤ p.nslot) && decide (p.nslot ≤ 16) && zero 1 7 && decide (2000 ≤ p.slotns) && decide (p.slotns ≤ 1000000)
    && decide (1000 ≤ p.guardns) && decide (2 * p.guardns ≤ p.slotns) && decide (s.ptpns + 100000 ≤ p.epoch) && zero 24 8
    && zero (32 + p.nslot) (16 - p.nslot) && zero 48 16

/-! ## RECONF and SLOTS (R359, R366) -/

/-- The pitch of an index that a partition owns. -/
def ownPitch (s : State) (part i : Nat) : Bool := (s.pitch? i).any fun p => p.part = part

/-- The change is accepted for the issuing group; its result counts on UC. -/
def changeAct (s : State) (c : Iss) (kind : ChangeKind) (d : BitVec 6) : State :=
  let index := c.g.nextIndex 3
  let s1 := withGroup { s with seq := s.seq + 1 } c fun g =>
    (g.blockStake.openS c 3 d.toNat).addOp { OutOp.mk' 3 s.seq with lands := [.scalar d.toNat 0], external := true }
  acceptChange s1 (c.part s) kind c.who.group index d.toNat

/-- RECONF. -/
def execReconf (d a b : BitVec 6) (s : State) : Out :=
  runIssue s fun c => do
    let i := (c.sv a.toNat).toNat
    let gen := (c.sv b.toNat).toNat
    let part := c.part s
    c.prepOwn (.reconf d a b) true (uniUses [.s a.toNat, .s b.toNat] [.s d.toNat]) (need (decide (i < 256) && decide (gen < 65536)) 1)
    c.room s 3
    need (ownPitch s part i) 9 none 9
    need (gen = (s.link part).tail.toNat) 6
    .ok (changeAct s c (.reconf i) d)

/-- The plan at an address, or its end for address 0. -/
def readPlan (s : State) (c : Iss) (va : DWord) : Except Stop (ChangeKind × State) := do
  if va = 0 then .ok (.stopPlan, s)
  else
    let (ts, s1) ← accessChecks s c [⟨none, va⟩] 64 false
    checkPages ts 2 notCarveOut
    match ts with
    | [] => .ok (.stopPlan, s1)
    | t :: _ =>
      let s2 := flushRange s1 c.who.core t.loc 64
      let bs := readLoc s2 t.loc 64
      let p := Plan.read bs
      need (t.isLocal && planOk s2 bs p && p.pitches.all (ownPitch s2 (c.part s))) 9 (some va) 10
      .ok (.slots p, s2)

/-- SLOTS. -/
def execSlots (d a b : BitVec 6) (s : State) : Out :=
  runIssue s fun c => do
    let gen := (c.sv b.toNat).toNat
    c.prepOwn (.slots d a b) true (uniUses [.s a.toNat, .s b.toNat] [.s d.toNat]) (need (decide (gen < 65536)) 1)
    c.room s 3
    let (kind, s1) ← readPlan s c (c.sv a.toNat)
    need (gen = (s.link (c.part s)).tail.toNat) 6
    .ok (changeAct s1 c kind d)

end Sys2Proof.Machine
end

