-- ==== Sys2Proof/Machine/Rings.lean ====
section
/-! DEFINITION. Host rings (R142, R143): descriptors, the room of a ring, the writing of an entry and its interrupt. -/

namespace Sys2Proof.Machine

/-- RING_TMAX_EXPIRY: TMAX ns after the first uninterrupted entry (R143). -/
def execRingTmaxExpiry (ctx : Nat) (desc : DWord) (s : State) : Out :=
  let r := ringState s ctx desc
  match r.firstAt, ringAt s desc.toNat with
  | some t, some d =>
    if d.tmax ≠ 0 ∧ t + d.tmax ≤ s.ptpns then .next (raiseVec (setRing s { r with since := 0, firstAt := none }) ctx d.vec)
    else .next s
  | _, _ => .next s

end Sys2Proof.Machine
end

