-- ==== Sys2Proof/Machine/Graphs.lean ====
section
/-! DEFINITION. Graphs (R135 to R141, R430, R434, R435, R440): node records, submission, completion, re-arming and
re-fires. -/

namespace Sys2Proof.Machine

/-! ## Node records (R136) -/

def NodeInfo.kind (x : NodeInfo) : Nat := fieldAt x.record 0 1
/-- The 64-bit address at the head of PAYLOAD. -/
def NodeInfo.addr (x : NodeInfo) : DWord := BitVec.ofNat 64 (fieldAt x.record 8 8)
def NodeInfo.succ (x : NodeInfo) : List Nat := (List.range (fieldAt x.record 4 1)).map fun k => fieldAt x.record (48 + 2 * k) 2

def nodeAddr (gbase : DWord) (n : Nat) : DWord := gbase + BitVec.ofNat 64 (64 * n)

def Graph.node? (g : Graph) (n : Nat) : Option NodeInfo := g.nodes.find? fun x => x.node = n

/-- The controller writes bytes of a node record; a page that has gone takes none. -/
def writeNode (s : State) (ctx : Nat) (gbase : DWord) (n off : Nat) (bs : List Byte) : State :=
  (writeVirtual s ctlCore ctx ((nodeAddr gbase n).toNat + off) bs).getD s

/-- A node takes new values, and its STATE, PEND and DEPTH show in its record. -/
def setNode (s : State) (ctx : Nat) (gbase : DWord) (x : NodeInfo) : State :=
  let s1 := s.updNode ctx gbase x.node fun _ => x
  let s2 := writeNode s1 ctx gbase x.node 1 (leBytes x.st 1)
  writeNode (writeNode s2 ctx gbase x.node 3 (leBytes x.pend 1)) ctx gbase x.node 5 (leBytes x.depth 1)

/-- The SEEN bytes of a KERNEL node's record. -/
def writeSeen (s : State) (ctx : Nat) (gbase : DWord) (n : Nat) (seen : List (Nat × Nat)) : State :=
  writeNode s ctx gbase n 16 (seenBytes seen)

/-! ## Reads of the controllers that meet a fault (R440) -/

/-- The first address of a range whose page is absent or forbids the access. -/
def firstAbsent (s : State) (ctx va n kind : Nat) : Option DWord :=
  ((pageStarts va n).find? fun a => (translate s ctlCore ctx a.ea.toNat kind).isNone).map (·.ea)

/-- A controller's operation waits: the first access to meet the fault writes a record of KIND 0. -/
def parkCtl (s : State) (ctx : Nat) (va : DWord) (kind : Nat) (w : CtlWait) : State :=
  let page := va.toNat / 65536
  let here (t : Tracked) : Bool := t.ctx = ctx && t.page = page && t.kind = kind
  if s.tracker.any here then
    { s with tracker := s.tracker.map fun t => if here t then { t with waiters := t.waiters ++ [.ctl w va] } else t }
  else if trackerRoom s then
    pushFault { s with tracker := s.tracker ++ [⟨ctx, page, kind, [.ctl w va]⟩] } ctx
      ⟨va, 0, 8, 0, 0xFFFF, 0xFF, 2 + kindFlags kind, 0⟩
  else s

/-- A waiter is an operation of a controller. -/
def Waiter.ofCtl (w : CtlWait) : Waiter → Bool
  | .ctl x _ => x = w
  | _ => false

def ctlParked (s : State) (ctx : Nat) (w : CtlWait) : Bool :=
  (s.tracker.any fun t => t.ctx = ctx && t.waiters.any (·.ofCtl w))
    || (s.ctx? ctx).any fun c => c.replay.any fun r => r.left.any (·.ofCtl w)

/-! ## Held writes (R322, R434) -/

/-- Held writes of a node's runs. -/
def VestEntry.heldBy (e : VestEntry) (ctx : Nat) (gbase : DWord) (n : Nat) : Bool :=
  e.ctx = ctx && !e.released && e.node = some (gbase, n)

def dropHeld (s : State) (p : VestEntry → Bool) : State := { s with vest := s.vest.filter fun e => !p e }

/-- Discards held writes with one record at the first one's address. -/
def reportHeld (s : State) (ctx : Nat) (p : VestEntry → Bool) : State :=
  match s.vest.find? p with
  | some e => engineFault (dropHeld s p) ctx 9 e.va (kindFlags 1)
  | none => s

/-- The discard of R434 for one node. -/
def haltHeld (ctx : Nat) (gbase : DWord) (s : State) (n : Nat) : State :=
  match s.vest.find? fun e => e.heldBy ctx gbase n with
  | some e => pushFault (dropHeld s fun e => e.heldBy ctx gbase n) ctx ⟨e.va, 0, 9, 1, 0xFFFF, 0xFF, kindFlags 1, BitVec.ofNat 64 n⟩
  | none => s

/-! ## The end of a graph (R139) -/

/-- A node that is `running` or `refire-pending`. -/
def NodeInfo.busy (x : NodeInfo) : Bool := x.st = 3 || x.st = 4
def Graph.idle (g : Graph) : Bool := !g.nodes.any NodeInfo.busy
def Graph.done (g : Graph) : Bool := g.nodes.all fun x => !x.busy && x.st ≠ 1 && x.st ≠ 2

def Graph.isLive (g : Graph) : Bool := g.state != .complete

/-- A SEEN grade is guess or prov. -/
def seenOpen (seen : List (Nat × Nat)) : Bool := seen.any fun p => p.1 = 1 || p.1 = 2

/-- A complete graph still watches (R139, R435). -/
def Graph.watches (g : Graph) : Bool := g.nodes.any fun x => x.kind = 1 && seenOpen x.seen

/-- The graph ends once none of its nodes needs it to go on. -/
def settleGraph (s : State) (ctx : Nat) (gbase : DWord) : State :=
  match s.graph? ctx gbase with
  | none => s
  | some g =>
    match g.state with
    | .live => if g.done then s.updGraph ctx gbase fun g => { g with state := .complete } else s
    | .ending true =>
      if g.idle then
        let s1 := (List.range g.nnodes).foldl (haltHeld ctx gbase) s
        { s1 with graphs := s1.graphs.filter fun x => !(x.ctx = ctx && x.gbase = gbase) }
      else s
    | .ending false => if g.idle then s.updGraph ctx gbase fun g => { g with state := .complete } else s
    | .complete => s

/-- The graph halts (R139). -/
def haltGraph (s : State) (ctx : Nat) (gbase : DWord) : State :=
  settleGraph (s.updGraph ctx gbase fun g => { g with state := .ending true }) ctx gbase

/-! ## Submission (R135, R137, R435) -/

/-- Payload bytes that a kind uses; SEEN of a KERNEL node must be zero at submission (R435). -/
def payloadClean (b : List Byte) : Bool :=
  let zero (lo hi : Nat) : Bool := ((b.drop lo).take (hi - lo)).all (· = 0)
  match fieldAt b 0 1 with
  | 1 => zero 16 48
  | 2 => zero 20 48
  | 3 => zero 16 48
  | 4 => zero 25 26 && zero 30 48
  | _ => zero 24 48

/-- SUCC entries among all records that name a node. -/
def namedBy (bs : List (List Byte)) (i : Nat) : Nat :=
  sumOf (bs.map fun b => ((List.range (min 8 (fieldAt b 4 1))).filter fun k => fieldAt b (48 + 2 * k) 2 = i).length)

/-- A record breaks R137 or R435; an NSUCC above 8 counts among R137's cases (log 125). -/
def nodeBad (bs : List (List Byte)) (i : Nat) : Bool :=
  let b := bs.getD i []
  let n := bs.length
  let kind := fieldAt b 0 1
  kind = 0 || decide (kind > 5) || fieldAt b 1 1 ≠ 0 || fieldAt b 3 1 ≠ 0 || fieldAt b 5 1 ≠ 0 || fieldAt b 6 2 ≠ 0
    || decide (fieldAt b 4 1 > 8) || !payloadClean b
    || (List.range (min 8 (fieldAt b 4 1))).any (fun k => decide (n ≤ fieldAt b (48 + 2 * k) 2))
    || fieldAt b 2 1 ≠ namedBy bs i
    || (kind = 4 && (decide (fieldAt b 24 1 > 3) || decide (fieldAt b 26 2 + fieldAt b 28 2 > n)))

/-- A node at submission: PEND := NPRED, DEPTH := 0. -/
def NodeInfo.start (n : Nat) (b : List Byte) : NodeInfo :=
  { node := n, record := b, st := if fieldAt b 2 1 = 0 then 2 else 1, pend := fieldAt b 2 1, depth := 0, kid := none, inputs := [],
    first := true, refire := none, finished := false, held := false, failed := false, owed := 0, seen := [] }

/-- The graph of a checked node table. It takes the place of a graph that the context has at this GBASE, be that one complete or, its
STATE bytes zeroed by software, still live (logs 45 and 106). -/
def beginGraph (s : State) (ctx : Nat) (gbase : DWord) (gid : Nat) (bs : List (List Byte)) : State :=
  let nodes := bs.mapIdx NodeInfo.start
  let g : Graph := ⟨ctx, gbase, bs.length, gid, .live, nodes⟩
  let s1 := { s with graphs := s.graphs.filter (fun x => !(x.ctx = ctx && x.gbase = gbase)) ++ [g] }
  nodes.foldl (fun a x => setNode a ctx gbase x) s1

/-- A graph item is taken: dropped with a record, of the lowest-index node that breaks a rule (log 125), left to wait on a fault, or
started. -/
def submitItem (s : State) (ctx : Nat) (item : List Byte) : State :=
  let gbase := BitVec.ofNat 64 (fieldAt item 0 8)
  let n := fieldAt item 8 2
  let s0 := s.updCtx ctx fun c => { c with graphItem := none }
  if gbase.toNat % 64 ≠ 0 ∨ n = 0 ∨ n > 4096 ∨ fieldAt item 12 4 ≠ 0 ∨ gbase.toNat + 64 * n > 2 ^ 57 then engineFault s0 ctx 9 gbase
  else
    match firstAbsent s ctx gbase.toNat (64 * n) 0 with
    | some a => parkCtl (s.updCtx ctx fun c => { c with graphItem := some item }) ctx a 0 .submit
    | none =>
      match readVirtual s ctlCore ctx gbase.toNat (64 * n) with
      | none => engineFault s0 ctx 9 ((firstCarved s ctx gbase.toNat (64 * n)).getD gbase)
      | some tbl =>
        let bs := (List.range n).map fun i => (tbl.drop (64 * i)).take 64
        match (List.range n).find? (nodeBad bs) with
        | some i => engineFault s0 ctx 9 (nodeAddr gbase i)
        | none => beginGraph s0 ctx gbase (fieldAt item 10 2) bs

/-- The graph queue's head item, with the queue after it is taken. -/
def takeGraphItem (s : State) (c : Context) : Option (List Byte × State) :=
  if c.graphq = 0 ∨ (capReason s c.id c.graphq (some 1) (some 1) false).isSome then none
  else
    match s.queue? (capQnum c.graphq) with
    | none => none
    | some q => if q.occ = 0 then none else some (headItem s q, afterQueueOp (popItem s q) q.num)

/-- GRAPH_SUBMIT (R135). -/
def execGraphSubmit (ctx : Nat) (s : State) : Out :=
  match s.ctx? ctx with
  | none => .next s
  | some c =>
    if c.state ≠ 2 ∨ ctlParked s ctx .submit ∨ 16 ≤ (s.graphs.filter fun g => g.ctx = ctx && g.isLive).length then .next s
    else
      match c.graphItem with
      | some item => .next (submitItem s ctx item)
      | none =>
        match takeGraphItem s c with
        | some (item, s1) => .next (submitItem s1 ctx item)
        | none => .next s

/-! ## Re-arming (R141) -/

/-- A node of the range after re-arming with its count: a first run again (R430). -/
def NodeInfo.rearm (x : NodeInfo) (pend : Nat) : NodeInfo :=
  { x with pend := pend, depth := 0, st := if pend = 0 then 2 else 1, first := true, finished := false, held := false, owed := 0 }

/-- SUCC entries of the nodes of a range that name a node. -/
def rangeCount (g : Graph) (lo n i : Nat) : Nat :=
  sumOf ((g.nodes.filter fun x => decide (lo ≤ x.node) && decide (x.node < lo + n)).map fun x => (x.succ.filter (· = i)).length)

/-- Re-arms the `done` nodes among `which`, for a range, and makes a complete graph live again (R146): how many, and the
state. -/
def rearmNodes (s : State) (g : Graph) (lo n : Nat) (which : List Nat) : Nat × State :=
  let hit := g.nodes.filter fun x => which.contains x.node && decide (lo ≤ x.node) && decide (x.node < lo + n) && x.st = 5
  let s1 := hit.foldl (fun a x => setNode a g.ctx g.gbase (x.rearm (rangeCount g lo n x.node))) s
  (hit.length, if hit = [] then s1 else s1.updGraph g.ctx g.gbase fun y => { y with state := if y.state = .complete then .live else y.state })

/-! ## Re-fires (R138, R318, R320) -/

def amDepth (s : State) (ctx : Nat) : Nat := (s.ctxRec ctx).elim 0 (·.amdepth)

/-- A node is to run again at a depth, or halts beyond AMDEPTH. -/
def runAgain (s : State) (ctx : Nat) (gbase : DWord) (x : NodeInfo) (depth va : Nat) : State :=
  let y := { x with seen := [], depth := depth, refire := none, finished := false, held := false }
  if depth ≤ amDepth s ctx then
    let s1 := dropHeld s fun e => e.heldBy ctx gbase x.node
    let s2 := writeSeen (setNode s1 ctx gbase { y with st := 2, first := false }) ctx gbase x.node []
    s2.updGraph ctx gbase fun g => { g with state := if g.state = .complete then .live else g.state }
  else
    let s1 := writeSeen (setNode s ctx gbase { y with st := 6 }) ctx gbase x.node []
    haltGraph (pushFault s1 ctx ⟨BitVec.ofNat 64 va, 0, 0x0C, 1, 0xFFFF, 0xFF, 0, BitVec.ofNat 64 (x.node + depth % 65536 * 2 ^ 48)⟩) ctx gbase

/-- A complete graph is live again (R139). -/
def revive (s : State) (ctx : Nat) (gbase : DWord) : State :=
  s.updGraph ctx gbase fun g => { g with state := if g.state = .complete then .live else g.state }

/-- A re-fire of a node with a new depth. -/
def refireNode (s : State) (ctx : Nat) (gbase : DWord) (x : NodeInfo) (depth va : Nat) : State :=
  match x.st with
  | 2 =>
    if depth ≤ amDepth s ctx then revive (setNode s ctx gbase { x with depth := max x.depth depth }) ctx gbase
    else runAgain s ctx gbase x depth va
  | 5 => runAgain s ctx gbase x depth va
  | 3 => setNode s ctx gbase { x with st := 4, refire := some (depth, va) }
  | 4 =>
    setNode s ctx gbase { x with refire := match x.refire with
      | some (d, v) => if d < depth then some (depth, va) else some (d, v)
      | none => some (depth, va) }
  | _ => s

/-- SEEN of a node's present or last run. -/
def nodeSeen (s : State) (x : NodeInfo) : List (Nat × Nat) :=
  match x.kid with
  | some k => (s.kernel? k).elim x.seen (·.seen)
  | none => x.seen

/-- A report hits a node (R318, R319). -/
def reportHits (s : State) (r : AmendReport) (x : NodeInfo) : Bool :=
  x.kind = 1 && (List.range x.inputs.length).any fun j =>
    let b := x.inputs.getD j (0, 0)
    let grade := (nth (nodeSeen s x) j (0, 0)).1
    decide (b.1 ≤ r.va) && decide (r.va < b.1 + b.2)
      && (grade = 1 || grade = 2 || r.early.any fun p => x.kid = some p.1 && p.2 = j)

/-- The nodes a report hits, each of a graph that is live or still watches. -/
def hitNodes (s : State) (r : AmendReport) : List (DWord × NodeInfo) :=
  (s.graphs.filter fun g => g.ctx = r.ctx && (g.isLive || g.watches)).flatMap fun g =>
    (g.nodes.filter (reportHits s r)).map fun x => (g.gbase, x)

/-- AMENDMENT_REPORT: the oldest report is matched (R318). -/
def execAmendmentReport (s : State) : Out :=
  match s.reports with
  | [] => .next s
  | r :: rest =>
    let s1 := { s with reports := rest }
    .next ((hitNodes s1 r).foldl (fun a p =>
      match (a.graph? r.ctx p.1).bind (·.node? p.2.node) with
      | some x => refireNode a r.ctx p.1 x (r.depth + 1) r.va
      | none => a) s1)

/-! ## Completion of a node (R138, R139, R322, R430) -/

/-- A predecessor's first run has completed. A COND that has re-armed its own range, itself to come, counts it for its next run. -/
def predDone (ctx : Nat) (gbase : DWord) (s : State) (n : Nat) : State :=
  match (s.graph? ctx gbase).bind (·.node? n) with
  | some x =>
    if x.st = 1 then setNode s ctx gbase { x with pend := x.pend - 1, st := if x.pend ≤ 1 then 2 else 1 }
    else if x.kind = 4 && x.held then s.updNode ctx gbase n fun y => { y with owed := y.owed + 1 }
    else s
  | none => s

/-- The completion of a run: successors count a first one, SEEN is written, the node is done or runs again, and held writes of a run
that consumed nothing below final are discarded (R322). -/
def completeRun (s : State) (ctx : Nat) (gbase : DWord) (x : NodeInfo) : State :=
  let y := { x with first := false }
  let s1 := if x.first then x.succ.foldl (predDone ctx gbase) s else s
  match x.st, x.refire with
  | 4, some (d, va) => runAgain s1 ctx gbase y d va
  | _, _ =>
    let s2 := setNode s1 ctx gbase { y with st := 5, refire := none }
    let s3 := if x.kind = 1 then writeSeen s2 ctx gbase x.node x.seen else s2
    if x.kind = 1 && seenOpen x.seen then s3 else reportHeld s3 ctx fun e => e.heldBy ctx gbase x.node

/-- A COND node inside its own range is re-armed after its completion (R140): what its predecessors have owed it since it re-armed
them is taken off its count. -/
def rearmSelf (s : State) (ctx : Nat) (gbase : DWord) (x : NodeInfo) : State :=
  if x.kind = 4 && x.held then
    match s.graph? ctx gbase with
    | some g =>
      let s1 := (rearmNodes s g (fieldAt x.record 26 2) (fieldAt x.record 28 2) [x.node]).2
      (List.range x.owed).foldl (fun a _ => predDone ctx gbase a x.node) s1
    | none => s
  else s

/-- A run of a COPY or COLL node is over when its engine operation has ended. -/
def runOver (s : State) (ctx : Nat) (gbase : DWord) (x : NodeInfo) : Bool :=
  if x.kind = 2 || x.kind = 3 then !s.engines.any fun e => e.ctx = ctx && e.node = some (gbase, x.node) && e.kind != .items
  else x.finished

/-- The writer marks of a node's engine operation go with it. -/
def dropMarks (s : State) (x : NodeInfo) : State :=
  if x.kind = 2 || x.kind = 3 then { s with marks := s.marks.filter fun m => !(m.chip = 0 && x.kid = some m.kid) } else s

/-- NODE_COMPLETE. -/
def execNodeComplete (ctx : Nat) (gbase : DWord) (n : Nat) (s : State) : Out :=
  match (s.graph? ctx gbase).bind (·.node? n) with
  | none => .next s
  | some x =>
    if x.busy && runOver s ctx gbase x then
      let s1 := rearmSelf (completeRun (dropMarks s x) ctx gbase x) ctx gbase x
      .next (if x.failed then haltGraph s1 ctx gbase else settleGraph s1 ctx gbase)
    else .next s

end Sys2Proof.Machine
end

