-- ==== Sys2Proof/Machine/Vest.lean ====
section
/-! DEFINITION. The vestibule's exits (R322 to R324). -/

namespace Sys2Proof.Machine

/-- VESTIBULE_RELEASE: the oldest released write leaves (R322). -/
def execVestibuleRelease (s : State) : Out :=
  match s.vest.find? (·.released) with
  | some e => .next (leaveVest s e)
  | none => .next s

/-- VESTIBULE_SPACE_FREED: fragments that wait for room retry where there is enough; engines and sends then go on by their
own steps (R323). -/
def execVestibuleSpaceFreed (s : State) : Out :=
  .next { s with groups := s.groups.map fun g =>
    if ((s.ctx? g.ctx).elim 0 (·.state)) ≠ 2 || blockHalted s g then g
    else { g with frags := g.frags.map fun f =>
      match f.park with
      | some (.vestibule n) =>
        if vestRoom s ((s.ctx? g.ctx).elim 0 (·.part)) n then
          { f with park := none, wokeAt := s.cycleOf g.at_.core + 1, readyAt := max f.readyAt (s.cycleOf g.at_.core + 1), readySince := s.cycleOf g.at_.core + 1 }
        else f
      | _ => f } }

end Sys2Proof.Machine
end

