-- ==== Sys2Proof/Machine/Sends.lean ====
section
/-! DEFINITION. Sends (R367 to R371, R437, R438): XSEND, the beats that leave and those that arrive. -/

namespace Sys2Proof.Machine

/-! ## The send record (R368) -/

structure SendRec where
  src : DWord
  dst : DWord
  len : Nat
  flags : Nat
  waves : Nat
  land : Nat
  mbz : Nat
  lbar : DWord
  deriving DecidableEq, Repr

def SendRec.read (bs : List Byte) : SendRec :=
  { src := BitVec.ofNat 64 (fieldAt bs 0 8), dst := BitVec.ofNat 64 (fieldAt bs 8 8), len := fieldAt bs 16 4,
    flags := fieldAt bs 20 1, waves := fieldAt bs 21 1, land := fieldAt bs 22 1, mbz := fieldAt bs 23 1,
    lbar := BitVec.ofNat 64 (fieldAt bs 24 8) }

def SendRec.global (r : SendRec) : Bool := r.flags % 2 = 1
def SendRec.graded (r : SendRec) : Bool := r.flags / 2 % 2 = 1

/-- The limits of R368; the alignment of SRC is the source's own check. -/
def SendRec.ok (r : SendRec) : Bool :=
  r.dst.toNat % 16 = 0 && decide (16 ≤ r.len) && decide (r.len ≤ 0x1000000) && r.len % 16 = 0 && decide (r.flags < 4)
    && decide (r.waves ≤ 64) && (decide (r.land < 64) || r.land = 0xFF) && r.mbz = 0

/-! ## The checks of XSEND (R369) -/

/-- Some pitch that the partition runs pairs this chip with a destination. -/
def pairsWith (s : State) (part dest : Nat) : Bool :=
  let pairs (i : Nat) : Bool := (s.pitch? i).any fun p => (List.range 16).any fun k => PitchHas p k dest
  match (s.link part).mode with
  | .none => false
  | .pitch i => pairs i
  | .plan p _ _ _ => p.pitches.any pairs

/-- While a topology change is in progress a send or collective is held (R361). -/
def heldByChange (s : State) (part : Nat) : Bool := (s.link part).changes ≠ []

/-- The range that a send reads, its grade so far, and the state: causes 0x10, 0x0A, 0x0F, or the checks of a global range. -/
def sendSource (s : State) (c : Iss) (r : SendRec) : Except Stop (List Hull × Nat × State) := do
  if r.global then
    let as := pageStarts r.src.toNat r.len
    need (decide (r.src.toNat + r.len ≤ 2 ^ 57)) 9 r.src 1
    need (r.src.toNat % 16 = 0) 0x0A r.src
    let (ts, s1) ← translateAll s c 0 as
    checkPages ts 2 notCarveOut
    let grade := (granulesOf r.src.toNat r.len (ts.filter fun t => t.ent.graded)).foldl (fun m g => min m (tagAt s1 g.pa).grade) c.g.outgrade
    .ok (globalHulls s1 c.g.ctx false false r.src.toNat (r.src.toNat + r.len), grade, s1)
  else
    match usableTile s c.who.core (s.domOf c.g) (refHandle r.src) levelSC with
    | none => trapWith 0x10 r.src
    | some t =>
      need (refOff r.src % 16 = 0) 0x0A r.src
      need (decide (refOff r.src + r.len ≤ t.size)) 0x0F r.src
      .ok ([⟨t.bankCore, t.range, false, false, refOff r.src, refOff r.src + r.len⟩], c.g.outgrade, s)

/-- The rule of R261 for the send's read of its source. -/
def sendLocks (s : State) (c : Iss) (r : SendRec) (ref : DWord) : Except Stop Unit :=
  if r.global then checkLocks s c [⟨none, r.src⟩] r.len false
  else
    match s.tileOf (s.domOf c.g) (refHandle r.src) with
    | some t => tileLock s c t (refOff r.src) r.len false ref
    | none => .ok ()

/-! ## Leaving (R365, R367, R369, R437) -/

/-- The bytes of a send from offset `off`. -/
def sendBytes (s : State) (e : Engine) (src : DWord) (global : Bool) (off n : Nat) : Except EngineStop (List Byte × State) :=
  if global then engineBytes e.core e.ctx (n / 16) s (src + BitVec.ofNat 64 off)
  else .ok (readLoc s (tileLoc s e.dom src off) n, s)

/-- The flits that carry bytes of a send: up to 16 beats each, cut also where the source passes into the next granule, `skip` bytes
before the first cut, so that each carries the version of its own granule's tag (R353, log 121). -/
def flitsOf (b : Beats) (skip : Nat) (version : Nat → Nat) : List Beats :=
  (List.range ((b.bytes.length + skip + 255) / 256)).map fun k =>
    let a := 256 * k - skip
    { b with va := b.va + BitVec.ofNat 64 a, bytes := (b.bytes.drop a).take (256 * (k + 1) - skip - a), version := version a }

/-- The version of the tag of the granule at a place of a graded send's global source (R353); 0 for a tile, which has none (log 121). -/
def sourceVersion (s : State) (e : Engine) (src : DWord) (global : Bool) (off : Nat) : Nat :=
  if global then
    match translate s e.core e.ctx (src.toNat + off) 0 with
    | some (t, _) => if t.graded then (tagAt s (t.locate (src.toNat + off)).addr).ver else 0
    | none => 0
  else 0

/-- The port through which a partition's flits for a chip leave: the first whose circuit leads there and is up, else the first that drains
(log 121). -/
def portTo (s : State) (part dest : Nat) : Nat :=
  let ks := (currentPitch s part).elim [] fun p => (List.range 16).filter fun k => PitchHas p k dest
  ((ks.filter fun k => portIs s k .up) ++ (ks.filter fun k => portIs s k .draining)).headD 0

/-- Flits leave through a port, and their acknowledgement is awaited there (R389). -/
def awaitAck (s : State) (id part dest port flits : Nat) : State :=
  let here (u : Unacked) : Bool := u.id = id && u.port = port
  let old : Nat := (s.unacked.find? here).elim 0 (·.flits)
  { s with unacked := upsert s.unacked here ⟨id, part, dest, port, old + flits⟩ }

/-- Flits of a send are acknowledged, the earliest port's first. -/
def ackFlits (id : Nat) : Nat → List Unacked → List Unacked
  | _, [] => []
  | n, u :: us =>
    if u.id = id then (if n < u.flits then { u with flits := u.flits - n } :: us else ackFlits id (n - u.flits) us) else u :: ackFlits id n us

/-- Acknowledgements of a send's flits arrive. -/
def acknowledge (s : State) (id flits : Nat) : State := { s with unacked := ackFlits id flits s.unacked }

/-- `n` beats of a send leave its queue. -/
def sendBeats (s : State) (e : Engine) (n : Nat) : State :=
  match e.kind with
  | .send src dst global len left dest dctx graded grade depth waves land lbar held since =>
    let k := min (16 * n) left
    if k = 0 then s
    else
      (match sendBytes s e src global (len - left) k with
      | .error x => stopEngine s e x
      | .ok (bs, s1) =>
        let b : Beats :=
          { part := e.part, srcChip := s.chipid, srcCtx := e.ctx, send := e.id, gen := (s.link e.part).tgen, srcKid := e.kid, ctx := dctx, va := dst + BitVec.ofNat 64 (len - left), bytes := bs
            grade := if graded then some grade else none
            version := 0
            depth := depth
            land := if land = 0xFF then none else some land
            window := s.window e.part }
        let fs := if graded && global then flitsOf b ((src.toNat + (len - left)) % 256) fun a => sourceVersion s e src global (len - left + a)
          else flitsOf b 0 fun _ => 0
        (awaitAck { s1 with sent := s1.sent ++ fs.map (SentBeats.mk e.id e.ctx dest) } e.id e.part dest (portTo s e.part dest) fs.length).updEngine e.id fun x =>
          { x with kind := .send src dst global len (left - k) dest dctx graded grade depth waves land lbar held since })
  | _ => s

/-- Sends of a queue in acceptance order, with flits left; one that waits for room in the vestibule keeps its place (R323). -/
def sendQueue (s : State) (part dest : Nat) : List Engine :=
  s.engines.filter fun e => e.part = part && e.admitted &&
    match e.kind with
    | .send _ _ _ _ left d _ _ _ _ _ _ _ _ _ => d = dest && decide (left > 0)
    | _ => false

/-- Sends of a queue begin no earlier than a time. -/
def sendsAfter (s : State) (part dest t : Nat) : State :=
  let ids := (sendQueue s part dest).map (·.id)
  { s with engines := s.engines.map fun e => if ids.contains e.id then e.notBefore t else e }

/-- A send that is not graded, below final, enters the vestibule when it finds room, and is held there (R321, R370). -/
def enterVest (s : State) (e : Engine) : State :=
  match e.kind with
  | .send src dst global len _ dest dctx _ grade _ _ _ _ true _ =>
    if mayHold s e.part len (·.coversSend e.kid dest dctx dst len) then
      (match sendBytes s e src global 0 len with
      | .error x => stopEngine s e x
      | .ok (bs, s1) => endEngine (vestPut s1 e.ctx e.part e.kid (min grade 2) dst (.send dest dctx dst bs)) e.id)
    else s
  | _ => s

/-- A circuit that carries a partition's queue for a destination: in circuit mode a draining port still sends what was
accepted (R360). -/
def carries (s : State) (part dest : Nat) : Bool :=
  circuitTo s part dest ||
    match (s.link part).mode with
    | .pitch i => (s.pitch? i).any fun p => (List.range 16).any fun k => PitchHas p k dest && portIs s k .draining
    | _ => false

/-- The last flit has left: the entry is released and LBAR counts (R369). -/
def sendEnd (s : State) (e : Engine) : State :=
  match e.kind with
  | .send _ _ _ len 0 _ _ _ _ _ _ _ lbar false _ =>
    let s1 := endEngine s e.id
    if lbar = 0 then s1 else countBytes s1 e.ctx e.dom lbar len
  | _ => s

/-- The open window of a partition's slot plan: its start and its close (R365). -/
def openWindow (s : State) (part : Nat) : Option (Nat × Nat) :=
  match (s.link part).mode with
  | .plan p r j 1 => some (p.start r j + p.guardns, p.start r j + p.slotns)
  | _ => none

/-- Up to `n` beats of the first send of a queue leave. In a window of a slot plan WAVES of them leave every 2 ns, and those that
have had the time to (R365). -/
def leaveBeats (s : State) (e : Engine) (n : Nat) : State :=
  match e.kind, openWindow s e.part with
  | .send _ _ _ _ left dest _ _ _ _ waves _ _ _ since, some (lo, close) =>
    let w := if waves = 0 then 64 else waves
    let t0 := max lo since
    let k := min (min n (left / 16)) ((min close s.ptpns - t0) / 2 * w)
    sendsAfter (sendBeats s e k) e.part dest (t0 + (k + w - 1) / w * 2)
  | _, _ => sendBeats s e n

/-- A send that may put beats on its circuits: the first of its queue, and not waiting for room. -/
def maySend (s : State) (e : Engine) : Bool :=
  match e.kind with
  | .send _ _ _ _ _ dest _ _ _ _ _ _ _ held _ =>
    !held && carries s e.part dest && decide ((sendQueue s e.part dest).head?.map (·.id) = some e.id)
  | _ => false

/-- SEND_COMPLETE: what is left of a send leaves, behind the earlier sends of its queue. -/
def execSendComplete (id : Nat) (s : State) : Out :=
  match s.engine? id with
  | none => .next s
  | some e =>
    if !engineLive s e then .next s
    else
      match e.kind with
      | .send _ _ _ len left _ _ _ _ _ _ _ _ held _ =>
        if held then .next (enterVest s e)
        else if left = 0 then .next (sendEnd s e)
        else if maySend s e then
          let s1 := leaveBeats s e (len / 16)
          .next ((s1.engine? id).elim s1 (sendEnd s1))
        else .next s
      | _ => .next s

/-- Beats that leave a queue up to a window's close, each send WAVES beats every 2 ns, behind the one before it (R365, R437): none pass
one that waits. -/
def cutQueue (close : Nat) : List Engine → Nat → State → State
  | [], _, s => s
  | e :: rest, from_, s =>
    match e.kind with
    | .send _ _ _ _ left _ _ _ _ _ waves _ _ held since =>
      let w := if waves = 0 then 64 else waves
      let t0 := max from_ since
      let n := left / 16
      if held || !engineLive s e then s
      else cutQueue close rest (t0 + (n + w - 1) / w * 2) (sendBeats s e (min n ((close - t0) / 2 * w)))
    | _ => cutQueue close rest from_ s

/-- SLOT_WINDOW_CLOSE: flits are cut after their last whole beat, and the slot's ports drain (R365). -/
def execSlotWindowClose (part : Nat) (s : State) : Out :=
  let l := s.link part
  match l.mode with
  | .plan p r j 1 =>
    let close := p.start r j + p.slotns
    if close ≤ s.ptpns then
      let dests := ((s.pitch? (nth p.pitches j 0)).elim [] fun x =>
        ((List.range 16).filter fun k => x.ports.testBit k && portIs s k .up).map fun k => nth x.peers k 0 % 4096).eraseDups
      let s1 := dests.foldl (fun a d => cutQueue close (sendQueue a part d) (p.start r j + p.guardns) a) s
      .next ((movePorts s1 part (fun _ x => x == .up) .draining).setLink { s1.link part with mode := .plan p r j 2 })
    else .next s
  | _ => .next s

/-- DST of a send that has been accepted here, while it lasts or after it has left. -/
def sendDst (s : State) (id : Nat) : Option DWord :=
  match (s.engine? id).map Engine.kind with
  | some (EngineKind.send _ dst _ _ _ _ _ _ _ _ _ _ _ _ _) => some dst
  | _ => (s.sent.find? fun x => x.id = id).map (·.beats.va)

/-- No acknowledgement of a send is awaited any more: its bytes are discarded at the destination. -/
def noAck (s : State) (id : Nat) : State := { s with unacked := s.unacked.filter fun u => u.id ≠ id }

/-- SEND_FAULT_REPORT: the destination could not take a beat; the rest is discarded (R370). Its causes are 0x09, with ADDR = DST,
and 0x0B and 0x0D, with the granule's address. -/
def execSendFaultReport (id cause : Nat) (addr : DWord) (s : State) : Out :=
  let at_ := if cause = 9 then (sendDst s id).getD addr else addr
  if !([9, 0x0B, 0x0D].contains cause) then .next s
  else
  match s.engine? id, s.sent.find? fun x => x.id = id with
  | some e, _ =>
    (match e.kind with
    | .send _ _ _ _ _ _ _ _ _ _ _ _ _ _ _ => .next (noAck (failEngine s e cause at_ (kindFlags 1)) id)
    | _ => .next s)
  | none, some x => .next (noAck (engineFault s x.ctx cause at_ (kindFlags 1)) id)
  | none, none => .next s

/-! ## Arriving (R370, R371) -/

/-- Bytes counted into a landing: into the bound word, or kept while it is unbound (R371, R438). -/
def countLanding (s : State) (ctx index n : Nat) : State :=
  match (s.ctx? ctx).bind fun c => c.landings.find? fun l => l.index = index with
  | some ⟨_, some (ref, dom, _), _⟩ => countBytes s ctx dom ref n
  | some l => s.updCtx ctx fun c => { c with landings := upsert c.landings (fun x => x.index = index) { l with bytes := l.bytes + n } }
  | none => s.updCtx ctx fun c => { c with landings := c.landings ++ [⟨index, none, n⟩] }

/-- What becomes of one arriving beat: the cause and address with which it breaks its send. -/
inductive BeatEnd where
  | done (s : State)
  | fault (va : DWord) (s : State)
  | broken (cause : Nat) (addr : DWord) (s : State)

/-- One beat is written at its home slice: GR agrees with the page, and a graded beat follows R315 with a mark of its
source. -/
def takeBeat (s : State) (b : Beats) (va : DWord) (bs : List Byte) : BeatEnd :=
  if va.toNat ≥ 2 ^ 57 then .broken 9 va s
  else
    match translate s ctlCore b.ctx va.toNat 1 with
    | none => .fault va s
    | some (e, s1) =>
      let loc := e.locate va.toNat
      if e.graded ≠ b.grade.isSome ∨ e.inCarveOut va.toNat then .broken 9 va s
      else
        if e.loc = 0 && lostRange s1 loc.addr 16 then .done s1
        else match b.grade with
        | none => .done (writeLoc (setDirty s1 e) loc bs)
        | some g =>
          match storeFails s1 loc.addr (b.srcChip + 1) b.srcKid with
          | some cause => .broken cause (BitVec.ofNat 64 (va.toNat / 256 * 256)) s
          | none => .done (writeLoc (storeGranule (setDirty s1 e) b.ctx (b.srcChip + 1) b.srcKid b.depth g loc.addr va.toNat) loc bs)

/-- The rest of a send is discarded here, and its sender is told (R370). -/
def breakSend (s : State) (b : Beats) (cause : Nat) (addr : DWord) : State :=
  { s with
    broken := s.broken ++ [(b.srcChip, b.send)]
    sendReports := s.sendReports ++ [⟨b.srcChip, b.send, cause, addr⟩] }

/-- The beats that a waiter holds. -/
def Waiter.beats? : Waiter → Option Beats
  | .ctl (.beats b) _ => some b
  | _ => none

/-- Beats that wait for a fault in a context that stops are discarded with the rest of their sends (R370). -/
def discardBeats (s : State) (ws : List Waiter) : State := (ws.filterMap Waiter.beats?).foldl (fun a b => breakSend a b 9 b.va) s

/-- What a context's accesses wait for: its faults and the replays of one. -/
def waitersOf (s : State) (ctx : Nat) : List Waiter :=
  (s.tracker.filter fun t => t.ctx = ctx).flatMap (·.waiters) ++ ((s.ctx? ctx).bind (·.replay)).elim [] (·.left)

/-- Beats are taken in order: bytes written, and what stopped them. -/
def takeBeats (b : Beats) : Nat → Nat → State → Nat × BeatEnd
  | 0, k, s => (k, .done s)
  | n + 1, k, s =>
    if b.bytes.length ≤ k then (k, .done s)
    else
      match takeBeat s b (b.va + BitVec.ofNat 64 k) ((b.bytes.drop k).take 16) with
      | .done s1 => takeBeats b n (k + 16) s1
      | x => (k, x)

/-- Arriving beats are performed as far as they can be; a flit is acknowledged once every beat of it is performed (R389). With them the
beats that have still to wait in the port's buffer, as no fault can be tracked for them now (R295). -/
def landBeats (s : State) (b : Beats) : State × Option Beats :=
  let (k, x) := takeBeats b (b.bytes.length / 16 + 1) 0 s
  let counted (t : State) : State := match b.land with
    | some i => if k = 0 then t else countLanding t b.ctx i k
    | none => t
  match x with
  | .done s1 => ({ counted s1 with acks := s1.acks ++ [(b.srcChip, b.send)] }, none)
  | .broken cause addr s1 => (breakSend (counted s1) b cause addr, none)
  | .fault va s1 =>
    let rest := { b with va := b.va + BitVec.ofNat 64 k, bytes := b.bytes.drop k }
    let t := parkCtl (counted s1) b.ctx va 1 (.beats rest)
    (t, if ctlParked t b.ctx (.beats rest) then none else some rest)

/-- Beats come out of the fabric: only a context of the sender's partition that is `running` or `pre-empted` takes them; those of a
send that is broken are discarded (R370). -/
def comeIn (s : State) (b : Beats) : State × Option Beats :=
  if s.broken.contains (b.srcChip, b.send) then (s, none)
  else
    match (s.ctx? b.ctx).filter fun c => c.part = b.part && (c.state = 2 || c.state = 3) with
    | none => (breakSend s b 9 b.va, none)
    | some _ => landBeats s b

/-- Beats that replay: what has still to wait goes to the front of the buffer. -/
def receiveBeats (s : State) (b : Beats) : State :=
  match comeIn s b with
  | (t, none) => t
  | (t, some rest) => { t with buffered := rest :: t.buffered }

/-- Beats of one queue: of one chip and partition (R367). -/
def sameQueue (b x : Beats) : Bool := decide (x.srcChip = b.srcChip) && decide (x.part = b.part)

/-- Beats of the same queue wait for a fault: those behind them wait in the port's buffer. -/
def beatsBehind (s : State) (b : Beats) : Bool := s.waitsFault fun w => w.beats?.any (sameQueue b)

/-- SEND_BEAT_ARRIVAL: beats are performed, or go into the port's buffer behind those that wait. -/
def execSendBeatArrival (b : Beats) (s : State) : Out :=
  if !inWindow s b.part b.window then .next s
  else if beatsBehind s b ∨ s.buffered.any (sameQueue b) then .next { s with buffered := s.buffered ++ [b] }
  else
    match comeIn s b with
    | (t, none) => .next t
    | (t, some rest) => .next { t with buffered := t.buffered ++ [rest] }

/-- The first beats of a queue in the port's buffer are performed, once none of that queue waits for a fault. -/
def bufferTurn (b : Beats) (s : State) : Out :=
  if beatsBehind s b || (s.buffered.find? (sameQueue b)) ≠ some b then .next s
  else
    match comeIn s b with
    | (t, none) => .next { t with buffered := t.buffered.erase b }
    | (t, some rest) => .next { t with buffered := t.buffered.map fun x => if x = b then rest else x }

/-! ## XSEND (R369) -/

def execXsend (d a b : BitVec 6) (s : State) : Out :=
  runIssue s fun c => do
    let ref := c.sv d.toNat
    let target := (c.sv a.toNat).toNat
    let part := c.part s
    c.prepWith (.xsend d a b) true (uniUses [.s d.toNat, .s a.toNat, .s b.toNat] []) (some ref)
      (need (decide (target < 2 ^ 24) && target / 2 ^ 12 % 16 = 0 && refClean ref) 1 ref) 0
    let (t, off) ← tileRef s c ref levelSC
    need (off % 32 = 0) 0x0A ref
    need (decide (off + 32 ≤ t.size)) 9 ref 8
    let s1 := flushRange s c.who.core (.tile t.id off) 32
    let r := SendRec.read (readLoc s1 (.tile t.id off) 32)
    need (r.ok && (r.global || refClean r.src)) 9 ref 8
    let (hs, grade, s2) ← sendSource s1 c r
    if heldByChange s2 part then .error (.park (blockRewind s2 c) .change)
    else
      need (pairsWith s2 part (target % 4096)) 9 ref 7
      need ((c.sv b.toNat).setWidth 16 == (s2.link part).tgen) 6 ref
      sendLocks s2 c r ref
      let s2' := beforeItem s2 c.who.group
      let s3 := if !r.graded && decide (c.g.outgrade = 3) then leaveAll s2' else s2'
      let held := !r.graded && decide (c.g.outgrade < 3)
      let kind := EngineKind.send r.src r.dst r.global r.len r.len (target % 4096) (target / 2 ^ 16) r.graded (min grade c.g.outgrade)
        (runDepth s3 c.g.kid) r.waves r.land r.lbar held s3.ptpns
      let e := c.engine s3 kind hs
      let s4 := issueEngine s3 c e Group.blockStake
      .ok (if held then ((s4.engine? e.id).filter (·.admitted)).elim s4 (enterVest s4) else s4)

/-- XSEND.LAND: the landing's kept bytes count into the word it is bound to (R371). -/
def execXsendLand (d a : BitVec 6) (s : State) : Out :=
  runIssue s fun c => do
    let i := (c.sv d.toNat).toNat
    let ref := c.sv a.toNat
    c.prepOwn (.xsendLand d a) true (uniUses [.s d.toNat, .s a.toNat] []) (do need (decide (i < 64)) 1; refOwn ref)
    let _ ← barRef s c ref
    let kept := ((s.ctx? c.g.ctx).bind fun x => x.landings.find? fun l => l.index = i).elim 0 (·.bytes)
    let dom := s.domOf c.g
    let s1 := s.updCtx c.g.ctx fun x => { x with
      landings := upsert x.landings (fun l => l.index = i) ⟨i, some (ref, dom, c.who.core), 0⟩ }
    .ok (withGroup (if kept = 0 then s1 else countBytes s1 c.g.ctx dom ref kept) c id)

end Sys2Proof.Machine
end

