-- ==== Sys2Proof/Machine/Coll.lean ====
section
/-! DEFINITION. Collectives (R373 to R382): records, folds, combine slots, COLL, chunks, flushes and late contributions. -/

namespace Sys2Proof.Machine

/-! ## Records (R375) -/

def CollRec.read (bs : List Byte) : CollRec :=
  { kind := fieldAt bs 0 1, op := fieldAt bs 1 1, wire := fieldAt bs 2 1, ef := fieldAt bs 3 1, axes := fieldAt bs 4 1,
    len := fieldAt bs 8 4, timeout := fieldAt bs 12 2, dst := BitVec.ofNat 64 (fieldAt bs 16 8), cap := BitVec.ofNat 64 (fieldAt bs 24 8) }

/-- Chips in the group of a collective. -/
def collSize (s : State) (part axes : Nat) : Nat :=
  (List.range 3).foldl (fun n a => if axes.testBit a then n * partExtent s part a else n) 1

/-- This chip's rank in its group: the first axis is the most significant digit. -/
def collRank (s : State) (part axes : Nat) : Nat :=
  (List.range 3).foldl (fun r a => if axes.testBit a then r * partExtent s part a + nth s.mesh a 0 else r) 0

def CollRec.reduces (r : CollRec) : Bool := decide (r.kind ≤ 1)

/-- The limits of R375 but for the alignment of DST, which is checked before them. -/
def CollRec.ok (r : CollRec) (bs : List Byte) (n : Nat) : Bool :=
  let zero (lo k : Nat) : Bool := ((bs.drop lo).take k).all (· = 0)
  decide (r.kind ≤ 3) && decide (r.op ≤ 2) && (r.reduces || r.op = 0) && decide (r.wire ≤ 2) && [0, 1, 8].contains r.ef
    && r.axes ≠ 0 && decide (r.axes < 8) && zero 5 3 && r.len ≠ 0 && r.len % 4096 = 0
    && (r.kind % 2 = 0 || r.len % (4096 * n) = 0) && (r.timeout = 0 || r.reduces) && zero 14 2 && zero 32 32

/-- Bytes of output on one chip. -/
def collOut (r : CollRec) (n : Nat) : Nat := collChunks r n * 4096

/-! ## Elements (R376, R377) -/

def wireFmt (w : Nat) : Fmt :=
  match w with
  | 0 => fmt32
  | 1 => fmtBf
  | _ => fmt64

def wireZ (w : Nat) : Nat :=
  match w with
  | 0 => 4
  | 1 => 2
  | _ => 8

/-- Elements of an output chunk. -/
def CollRec.elems (r : CollRec) : Nat := 4096 / tensorZ r.ef

/-- Data of a chunk in the wire format. -/
def toWire (r : CollRec) (bs : List Byte) : List Byte :=
  let z := tensorZ r.ef
  (List.range (bs.length / z)).flatMap fun i =>
    leBytes (convertFloat (tensorFmt r.ef) (wireFmt r.wire) .rne false (fieldAt bs (i * z) z)) (wireZ r.wire)

/-- A result in the element format. -/
def ofWire (r : CollRec) (bs : List Byte) : List Byte :=
  let z := wireZ r.wire
  (List.range (bs.length / z)).flatMap fun i =>
    leBytes (convertFloat (wireFmt r.wire) (tensorFmt r.ef) .rne false (fieldAt bs (i * z) z)) (tensorZ r.ef)

/-- Offset in this chip's source of what it contributes to a chunk of the output of rank `to`. -/
def sourceOffset (r : CollRec) (n target k : Nat) : Nat :=
  match r.kind with
  | 0 => 4096 * k
  | 1 => target * (r.len / n) + 4096 * k
  | 2 => 4096 * (k % (r.len / 4096))
  | _ => target * (r.len / n) + 4096 * (k % (r.len / n / 4096))

def notFinite (f : Fmt) (x : Nat) : Bool :=
  match f.unpack x with
  | .fin _ _ _ => false
  | _ => true

/-- One element folded over the ranks in order; a rank without a value folds the identity. The value, or the rank whose
contribution halts the reduction: a NaN, an infinity, or a sum that overflows. -/
def foldWire (r : CollRec) : Option Nat → List (Nat × Option Nat) → Except Nat Nat
  | acc, [] => .ok (acc.getD 0)
  | acc, (rank, x) :: rest =>
    let f := wireFmt r.wire
    let y := x.getD (if r.op = 0 then 0 else f.withSign (r.op = 2) f.infBits)
    if x.any (notFinite f) then .error rank
    else
      let z := match acc with
        | none => y
        | some a => if r.op = 0 then fadd f .rne a y else fminmaxIn f (r.op = 2) a y
      if r.op = 0 && notFinite f z then .error rank else foldWire r (some z) rest

/-- The fold of a chunk: the bytes, or the first element that halts it, with its rank. -/
def foldChunk (r : CollRec) (parts : List (Nat × Option (List Byte))) : Except (Nat × Nat) (List Byte) :=
  let z := wireZ r.wire
  let one (i : Nat) : Except Nat Nat := foldWire r none (parts.map fun p => (p.1, p.2.map fun b => fieldAt b (i * z) z))
  match (List.range r.elems).findSome? fun i =>
    match one i with
    | .error rank => some (i, rank)
    | .ok _ => none with
  | some e => .error e
  | none => .ok ((List.range r.elems).flatMap fun i =>
      match one i with
      | .ok v => leBytes v z
      | .error _ => [])

/-- The order of the fold: from rank 0, or in ring order after the chunk's owner. The manual names no owner of an all-reduce
chunk: which it is stays open, and is one for all chips (log 3). -/
def foldOrder (c : CollOp) (k : Nat) : List Nat :=
  if c.ring then
    let owner := if c.rec_.kind = 1 then c.rank else Config.freeNat 22 (k * 4096 + c.n) % c.n
    (List.range c.n).map fun i => (owner + 1 + i) % c.n
  else List.range c.n

/-! ## Combine slots (R373, R374) -/

def slotsOf (s : State) (part : Nat) : Nat :=
  (s.engines.filter fun e => e.part = part &&
    match e.kind with
    | .coll c => c.slot
    | _ => false).length

/-- A slot is free for a partition: within its guaranteed minimum, or in the shared pool. -/
def slotFree (s : State) (part : Nat) : Bool :=
  let mine := slotsOf s part
  let cmin := (s.part? part).elim 0 (·.cmin)
  let guaranteed := s.parts.foldl (fun a p => a + p.cmin) 0
  let shared := s.parts.foldl (fun a p => a + (slotsOf s p.partid - p.cmin)) 0
  decide (mine < cmin) || decide (shared + guaranteed < 32)

/-- The collective that an engine operation is. -/
def Engine.coll? (e : Engine) : Option CollOp :=
  match e.kind with
  | .coll c => some c
  | _ => none

def setColl (s : State) (id : Nat) (c : CollOp) : State := s.updEngine id fun e => { e with kind := .coll c }

/-- The cycle of the fabric hub, whose halves are in F0 and F5 (01_machine.md, the fields): the model counts that of F0. -/
def hubCycle (s : State) : Nat := (s.field 0).cycle

/-- The collective of the highest PARTID above `part` that holds a slot it asked for in this cycle (R374). -/
def slotRival (s : State) (part : Nat) : Option (Engine × CollOp) :=
  s.engines.foldl (fun best e =>
    match e.coll? with
    | some c =>
      if c.slot && !c.fixed && c.asked = hubCycle s && decide (part < e.part) && best.all (fun (b : Engine × CollOp) => decide (b.1.part < e.part))
      then some (e, c) else best
    | none => best) none

/-- A partition asks for a slot: of two that ask in one cycle for the last, the lower PARTID takes it (R374). -/
def askSlot (s : State) (part : Nat) : Bool × State :=
  if slotFree s part then (true, s)
  else
    match slotRival s part with
    | none => (false, s)
    | some (e, c) =>
      let s1 := setColl s e.id { c with slot := false, ring := c.fallback }
      if slotFree s1 part then (true, s1) else (false, s)

/-- A reduction that can still take a slot: it waits for one, or fell back in this very cycle (R374, R382). -/
def CollOp.wantsSlot (c : CollOp) (now : Nat) : Bool :=
  c.rec_.reduces && !c.slot && (!c.ring || (c.fallback && !c.fixed && c.asked = now && c.peers = []))

/-! ## Ring sequencer contexts (R373, R374) -/

/-- The rank next to this chip's along axis `a` of a group, `step` further round: ranks count the axes with X as the most
significant (R375). -/
def neighbourRank (s : State) (part axes a step : Nat) : Nat :=
  (List.range 3).foldl (fun r b =>
    if axes.testBit b then
      let n := partExtent s part b
      r * n + (nth s.mesh b 0 + if b = a then step else 0) % n
    else r) 0

/-- The ports that face a collective's neighbours on its axes under the present circuits: on each of them its ring takes one
sequencer context (R373, R374, log 99). -/
def ringPorts (s : State) (e : Engine) : List Nat :=
  match e.coll? with
  | none => []
  | some c =>
    if c.rec_.reduces && c.ring then
      let ranks := ((List.range 3).filter c.rec_.axes.testBit).flatMap fun a =>
        [neighbourRank s e.part c.rec_.axes a 1, neighbourRank s e.part c.rec_.axes a (partExtent s e.part a - 1)]
      let chips := (c.peers.filter fun p => ranks.contains p.1 && p.1 ≠ c.rank).map (·.2)
      (List.range 16).filter fun k => (s.part? e.part).any (·.ports.testBit k)
        && (currentPitch s e.part).any fun x => x.ports.testBit k && chips.contains (nth x.peers k 0 % 4096)
    else []

/-- The ring of a collective has its contexts: four on each port, in the order in which the rings started. -/
def ringServed (s : State) (e : Engine) : Bool :=
  (ringPorts s e).all fun k =>
    decide ((s.engines.filter fun x => x.part = e.part && decide (x.id ≤ e.id) && (ringPorts s x).contains k).length ≤ 4)

/-- COMBINE_SLOT_GRANT: a reduction that waits for a slot gets one; the lower PARTID and the earlier collective come
first. -/
def execCombineSlotGrant (id : Nat) (s : State) : Out :=
  match (s.engine? id).bind fun e => e.coll?.map fun c => (e, c) with
  | none => .next s
  | some (e, c) =>
    let wants (y : CollOp) : Bool := y.wantsSlot (hubCycle s)
    let before := s.engines.any fun x => x.coll?.any wants && slotFree s x.part
      && (decide (x.part < e.part) || (x.part = e.part && decide (x.id < id)))
    if wants c && slotFree s e.part && !before then .next (setColl s id { c with slot := true, ring := false }) else .next s

/-! ## The start (R379, R380) -/

/-- This chip's own contribution, chunk by chunk of its own output. -/
def ownParts (r : CollRec) (n rank grade : Nat) (src : List Byte) : List Contribution :=
  ((List.range (collChunks r n)).filter fun k => (chunkRanks r n k).contains rank).map fun k =>
    ⟨rank, k, grade, toWire r ((src.drop (sourceOffset r n rank k)).take 4096)⟩

/-- Entries of a collective: source range and output, one entry when the output is in place. -/
def collHulls (s : State) (ctx dom : Nat) (src : DWord) (r : CollRec) (n : Nat) : List Hull :=
  match s.tileOf dom (refHandle src) with
  | none => if r.dst = 0 then [] else globalHulls s ctx true false r.dst.toNat (r.dst.toNat + collOut r n)
  | some t =>
    if r.dst = 0 then [⟨t.bankCore, t.range, true, false, refOff src, refOff src + max r.len (collOut r n)⟩]
    else ⟨t.bankCore, t.range, false, false, refOff src, refOff src + r.len⟩
      :: globalHulls s ctx true false r.dst.toNat (r.dst.toNat + collOut r n)

/-- The number of a new collective with the same AXES on this chip. -/
def nextCollSeq (s : State) (part axes : Nat) : Nat := (((s.link part).collSeq.find? fun p => p.1 = axes).elim 0 (·.2)) + 1

/-- A collective starts: it is numbered, asks for a slot if it reduces, and registers its entries. -/
def startColl (s : State) (e : Engine) (r : CollRec) (record src bar : DWord) (fallback : Bool) (grade : Nat) (data : List Byte) :
    State × Bool :=
  let n := collSize s e.part r.axes
  let rank := collRank s e.part r.axes
  let seq := nextCollSeq s e.part r.axes
  let (got, s0) := if r.reduces then askSlot s e.part else (false, s)
  let c : CollOp :=
    { rec_ := r, record := record, src := src, bar := bar, sequence := seq, rank := rank, n := n, grade := grade
      contribs := ownParts r n rank grade data
      ring := r.reduces && !got && fallback
      slot := got
      fixed := false, fallback := fallback, asked := hubCycle s, peers := [], started := s.ptpns, outDone := []
      flushed := false, results := [], late := [] }
  let s1 := updLink s0 e.part fun l => { l with collSeq := upsert l.collSeq (fun p => p.1 = r.axes) (r.axes, seq) }
  startEngine { s1 with nextEngine := s1.nextEngine + 1 } { e with kind := .coll c } e.hulls

/-- The limits of R375 on this chip: the output at DST is a range of local pages, as far as they are mapped. -/
def CollRec.okHere (s : State) (ctx : Nat) (bs : List Byte) (r : CollRec) (n : Nat) : Bool :=
  r.ok bs n && (r.dst = 0 || (decide (r.dst.toNat + collOut r n ≤ 2 ^ 57)
    && (pageStarts r.dst.toNat (collOut r n)).all fun a => (walk s ctx a.ea.toNat).all (·.loc = 0)))

/-- The checks of R379 on the quad's record; the record and the state. -/
def collChecks (s : State) (c : Iss) (q : List DWord) : Except Stop (CollRec × State) := do
  let src := nth q 0 0
  let va := nth q 1 0
  match usableTile s c.who.core (s.domOf c.g) (refHandle src) levelSC with
  | none => trapWith 0x10
  | some t =>
    need (refOff src % 16 = 0 && va.toNat % 64 = 0) 0x0A
    need (decide (va.toNat < 2 ^ 57)) 9 va 1
    let (ts, s1) ← translateAll s c 0 [⟨none, va⟩]
    checkPages ts 2 notCarveOut
    let loc := (ts.head?.map (·.loc)).getD (.device 0)
    let s2 := flushRange s1 c.who.core loc 64
    let bs := readLoc s2 loc 64
    let r := CollRec.read bs
    let n := collSize s2 (c.part s) r.axes
    need (r.dst.toNat % 256 = 0) 0x0A
    need (ts.all (·.isLocal) && r.okHere s2 c.g.ctx bs n) 9 none 11
    need (decide (refOff src + (if r.dst = 0 then max r.len (collOut r n) else r.len) ≤ t.size)) 0x0F
    match if r.cap = 0 then none else capReason s2 c.g.ctx r.cap (some 0) (some 0) true with
    | some x => trapWith 0x0E (some 0) (capInfo x r.cap)
    | none =>
      if r.timeout = 0 then .ok (r, s2)
      else
        need (r.dst ≠ 0) 0x13
        let (us, s3) ← translateAll s2 c 1 (pageStarts r.dst.toNat (collOut r n))
        need (us.all fun u => u.ent.graded) 0x13
        .ok (r, s3)

/-- Members of a block that stand at COLL. -/
def Block.atColl (b : Block) : List Arrival := b.coll.filter fun x => b.members.contains x.gid

/-- Every arrived member of a block traps at its COLL. -/
def collTrap (s : State) (b : Block) (cause : Nat) (finfo : DWord) : State :=
  b.atColl.foldl (fun a x =>
    match (a.group? x.who.group).bind fun g => g.frag? x.who.index with
    | some f => takeTrap (a.updGroup x.who.group fun g => g.updFrag x.who.index fun f => { f with park := none })
        x.who cause (openAddr s) finfo f.pc f.pc
    | none => a) (s.updBlock b.kid b.linear (endPhase s))

/-- A member goes on when the collective has started: s[d] takes the sequence number, on UC, and its rewind is blocked; it
waits while the entries cannot be registered. -/
def memberStarts (id seqNo : Nat) (now : Bool) (s : State) (a : Arrival) : State :=
  match s.group? a.who.group with
  | none => s
  | some g =>
    match g.frag? a.who.index with
    | none => s
    | some f =>
      let op := { OutOp.mk' 3 s.seq with lands := [.scalar a.dest (BitVec.ofNat 64 seqNo)] }
      let g1 := (((g.blockS a.dest).uncover (.s a.dest) (lanesOf f.slices) 3).blockStake).addOp op
      let g2 := g1.updFrag a.who.index fun f => { f with park := some (.collStart id) }
      let s1 := { s with seq := s.seq + 1 }.setGroup g2
      if now then s1.updGroup a.who.group fun x => x.updFrag a.who.index (releaseHeld id (s.cycleOf a.who.core)) else s1

/-- The operation of a block's collective. -/
def collEngine (s : State) (b : Block) (last : Arrival) (hs : List Hull) : Engine :=
  { id := s.nextEngine, core := b.core, ctx := b.ctx, part := (s.ctx? b.ctx).elim 0 (·.part), kid := b.kid, dom := b.dom,
    group := some last.who.group, kind := .items, hulls := hs, admitted := false, suspended := false, items := [], node := none }

/-- Every member has arrived or retired: the block's collective starts with the record as it reads now, or every member traps
(R379, R380). A record that has come to break R375 traps as at issue (log 101). -/
def collArrived (s : State) (b : Block) : State :=
  match b.atColl.getLast? with
  | none => s
  | some last =>
    let q := last.quad
    let part := (s.ctx? b.ctx).elim 0 (·.part)
    if b.atColl.any (·.quad ≠ q) then collTrap s.fresh b 7 3
    else if (nth q 3 0).setWidth 16 ≠ (s.link part).tgen then collTrap s.fresh b 6 0
    else
      let s1 := (b.atColl.map (·.who.group)).foldl beforeItem s
      let bs := (readVirtual s1 b.core b.ctx (nth q 1 0).toNat 64).getD []
      let r := CollRec.read bs
      let n := collSize s part r.axes
      if bs = [] ∨ !r.okHere s1 b.ctx bs n then collTrap s1.fresh b 9 11
      else
        let src := nth q 0 0
        let grade := (b.atColl.filterMap fun a => (s.group? a.who.group).map (·.outgrade)).foldl min 3
        let hs := collHulls s1 b.ctx b.dom src r n
        let data := readLoc s1 (tileLoc s1 b.dom src 0) r.len
        let e := collEngine s1 b last hs
        let (s2, now) := startColl s1 e r (nth q 1 0) src (nth q 2 0) (last.level = 1) grade data
        let s3 := s2.updBlock b.kid b.linear (endPhase s2)
        b.atColl.foldl (memberStarts e.id (nextCollSeq s part r.axes) now) s3

/-- The collective of a block starts once no member is missing, as when the last missing one has retired. -/
def settleColl (s : State) (kid linear : Nat) : State :=
  match s.blocks.find? fun b => b.kid = kid && b.linear = linear with
  | some b => if b.debug == .run && allArrived s b b.atColl then collArrived s b else s
  | none => s

/-- COLL. -/
def execColl (f : BitVec 4) (d a : BitVec 6) (s : State) : Out :=
  runIssue s fun c => do
    let ns := (List.range 4).map fun k => RName.s (a.toNat + k)
    let q := (List.range 4).map fun k => c.sv (a.toNat + k)
    c.prepOwn (.coll f d a) true (uniUses ns [.s d.toNat])
      (need (c.g.frags.length = 1 && decide ((nth q 3 0).toNat < 65536) && refClean (nth q 0 0)) 1)
    c.room s 3
    let (_, s1) ← collChecks s c q
    if heldByChange s1 (c.part s) then .error (.park (blockRewind s1 c) .change)
    else
      need ((nth q 3 0).setWidth 16 == (s1.link (c.part s)).tgen) 6
      match s1.groupBlock? c.g with
      | none => .ok s1
      | some b =>
        let fb := if f.toNat = 1 then 1 else 0
        if b.barb ++ b.phase ≠ [] then .ok (takeTrap (mixedTrap s1.fresh b) c.who 7 (openAddr s1) 2 c.pc c.pc)
        else
          let b' := openMembers s1 b
          let b2 := { b' with coll := b'.coll ++ [⟨c.g.gid, c.who, fb, q, d.toNat, 0⟩] }
          let s2 := s1.updBlock b.kid b.linear fun _ => b2
          match s2.group? c.who.group with
          | none => .ok s2
          | some g =>
            .ok (settleColl (holdAt s2 c g.blockStake .coll) b.kid b.linear)

/-! ## Chunks (R376, R377, R381) -/

/-- A collective ends with a record: its entries and its slot go, and no further arrival item enters its queue (R377). -/
def endColl (s : State) (e : Engine) (cause : Nat) (addr : DWord) : State :=
  endEngine (failNode (engineFault s e.ctx cause addr) e) e.id

/-- The address with which a chip reports an element whose rank halts a reduction, in a chunk of the output of rank `target`
(R377). -/
def haltAddr (c : CollOp) (target k elem rank : Nat) : DWord :=
  if rank = c.rank then
    c.src + BitVec.ofNat 64 ((sourceOffset c.rec_ c.n target k + elem * tensorZ c.rec_.ef) * 65536)
  else BitVec.ofNat 64 (2 ^ 63 + (c.peers.find? fun p => p.1 = rank).elim 0 (·.2))

/-- The contributions to a chunk in the order of its fold. -/
def CollOp.parts (c : CollOp) (k : Nat) : List (Nat × Option (List Byte)) :=
  (foldOrder c k).map fun r => (r, (c.contribs.find? fun x => x.rank = r && x.chunk = k).map (·.bytes))

/-- The lowest grade of the chips that contribute to a chunk (R381). -/
def CollOp.gradeOf (c : CollOp) (k : Nat) : Nat := ((c.contribs.filter fun x => x.chunk = k).map (·.grade)).foldl min c.grade

/-- The grade of a result: at most prov while a rank is missing (R378). -/
def Partial.shown (p : Partial) : Nat := if p.missing = [] then p.grade else min p.grade 2

/-- Result of a chunk in the wire format, with the ranks it lacks; an error halts the collective. -/
def chunkResult (c : CollOp) (k : Nat) : Except (Nat × Nat) (Option Partial) :=
  match c.results.find? fun p => p.chunk = k with
  | some p => .ok (some p)
  | none =>
    let lacks := c.missing k
    if lacks ≠ [] && !c.flushed then .ok none
    else if c.rec_.reduces then
      if !c.ring && !c.slot then .ok none
      else
        (match foldChunk c.rec_ (c.parts k) with
        | .error e => .error e
        | .ok bs => .ok (some ⟨k, lacks, c.gradeOf k, bs⟩))
    else
      match c.contribs.find? fun x => x.chunk = k with
      | some x => .ok (some ⟨k, [], c.gradeOf k, x.bytes⟩)
      | none => .ok none

/-- The output chunk is performed: in the source tile, or at DST under the run's KID. -/
def putChunk (s : State) (e : Engine) (c : CollOp) (k grade : Nat) (bs : List Byte) : Except EngineStop State :=
  if c.rec_.dst = 0 then .ok (writeLoc s (tileLoc s e.dom c.src (4096 * k)) bs)
  else enginePut (e.origin (min grade c.grade)) 256 s (c.rec_.dst + BitVec.ofNat 64 (4096 * k)) bs

/-- The granules of a late result are amended at depth 1 (R320); the cause of a fault, with the granule. -/
def lateWrite (s : State) (ctx grade : Nat) (dst : DWord) (bs : List Byte) : State :=
  match firstAbsent s ctx dst.toNat bs.length 1 with
  | some a => engineFault s ctx 8 a (kindFlags 1)
  | none =>
    let gs := granulesOf dst.toNat bs.length ((pageStarts dst.toNat bs.length).filterMap fun a =>
      (translate s ctlCore ctx a.ea.toNat 1).map fun x => ⟨a, x.1, x.1.locate a.ea.toNat⟩)
    match amendFault s gs with
    | some (cause, va) => engineFault s ctx cause (BitVec.ofNat 64 va) (kindFlags 1)
    | none =>
      gs.foldl (fun x g => writeLoc (amendGranule ctx grade 1 (setDirty x g.ent) g) (g.ent.locate g.va)
        ((bs.drop (g.va - dst.toNat)).take 256)) s

/-- One stored result takes a late contribution: the new result, or the element that halts it. -/
def lateFold (r : CollRec) (p : Partial) (rank grade : Nat) (bs : List Byte) : Except (Nat × Nat) Partial :=
  match foldChunk r [(rank, some p.bytes), (rank, some bs)] with
  | .error e => .error e
  | .ok x => .ok ⟨p.chunk, p.missing.filter (· ≠ rank), min p.grade grade, x⟩

/-- One stored result of a straggler takes a contribution, and is written as an amendment; the result, if it still lacks a rank. -/
def lateChunk (s : State) (x : Straggler) (p : Partial) (rank grade : Nat) (bs : List Byte) : List Partial × State :=
  match lateFold x.op.rec_ p rank grade bs with
  | .error _ => ([], engineFault s x.ctx 0x12 (BitVec.ofNat 64 (2 ^ 63 + (x.op.peers.find? fun q => q.1 = rank).elim 0 (·.2))))
  | .ok q =>
    (if q.missing = [] then [] else [q],
      lateWrite s x.ctx (min q.shown x.op.grade) (x.op.rec_.dst + BitVec.ofNat 64 (4096 * p.chunk)) (ofWire x.op.rec_ q.bytes))

/-- A straggler record with the results that still lack a rank; without any it goes. -/
def setStraggler (s : State) (id : Nat) (left : List Partial) : State :=
  { s with
    stragglers := if left = [] then s.stragglers.filter fun y => y.id ≠ id
      else s.stragglers.map fun y => if y.id = id then { y with results := left } else y }

/-- A contribution to one chunk that came after the flush is folded into the straggler record of its collective (R378). -/
def lateOne (id : Nat) (s : State) (l : Contribution) : State :=
  match s.stragglers.find? fun x => x.id = id with
  | none => s
  | some x =>
    match x.results.find? fun p => p.chunk = l.chunk && p.missing.contains l.rank with
    | none => s
    | some p =>
      let (left, s1) := lateChunk s x p l.rank l.grade l.bytes
      setStraggler s1 id (x.results.flatMap fun y => if y.chunk = l.chunk then left else [y])

/-- The hub keeps a straggler record of a flushed collective; the oldest of 64 makes room, with a record (R378). What has come since
the flush is folded in. -/
def keepStraggler (s : State) (e : Engine) (c : CollOp) : State :=
  let rs := c.results.filter fun p => p.missing ≠ []
  if rs = [] then s
  else
    let s1 := if s.stragglers.length < 64 then s else
      match s.stragglers with
      | [] => s
      | old :: rest => engineFault { s with stragglers := rest } old.ctx 0x13 old.op.rec_.dst
    c.late.foldl (lateOne e.id) { s1 with stragglers := s1.stragglers ++ [⟨e.id, e.ctx, e.part, e.kid, c, rs⟩] }

/-- The part of the destination entry that a chunk covers is released. -/
def releaseChunk (s : State) (e : Engine) (c : CollOp) (k : Nat) : State :=
  if c.rec_.dst = 0 then
    match s.tileOf e.dom (refHandle c.src) with
    | some t => releaseRange s e.id t.range (refOff c.src + 4096 * k) (refOff c.src + 4096 * k + 4096)
    | none => s
  else releaseRange s e.id (.global e.ctx) (c.rec_.dst.toNat + 4096 * k) (c.rec_.dst.toNat + 4096 * k + 4096)

/-- What follows a performed chunk: its entry, its item and its count; after the last chunk the collective is over. -/
def chunkPerformed (s : State) (e : Engine) (c : CollOp) (p : Partial) : State :=
  let c1 := { c with outDone := c.outDone ++ [p.chunk], fixed := true, results := if c.results.contains p then c.results else c.results ++ [p] }
  let s1 := releaseChunk (setColl s e.id c1) e c p.chunk
  let s2 := if c.rec_.cap = 0 then s1 else sendItem s1 e.id c.rec_.cap (arrivalItem 1 c.sequence p.chunk)
  let s3 := if c.bar = 0 then s2 else countBytes s2 e.ctx e.dom c.bar 4096
  if c1.outDone.length < collChunks c.rec_ c.n then s3 else endOrItems (keepStraggler s3 e c1) e.id

/-- The first exchange has come from every rank that a result holds, so that the records are known to agree (R380). -/
def CollOp.exchanged (c : CollOp) (missing : List Nat) : Bool :=
  (List.range c.n).all fun r => r = c.rank || missing.contains r || c.peers.any fun p => p.1 = r

/-- COLL_CHUNK_DONE. -/
def execCollChunkDone (id chunk : Nat) (s : State) : Out :=
  match (s.engine? id).bind fun e => e.coll?.map fun c => (e, c) with
  | none => .next s
  | some (e, c) =>
    if !engineLive s e ∨ collChunks c.rec_ c.n ≤ chunk ∨ c.outDone.contains chunk ∨ !ringServed s e then .next s
    else
      match chunkResult c chunk with
      | .error (elem, rank) => .next (endColl s e 0x12 (haltAddr c c.rank chunk elem rank))
      | .ok none => .next s
      | .ok (some p) =>
        if !c.exchanged p.missing then .next s
        else
        match putChunk s e c chunk p.shown (ofWire c.rec_ p.bytes) with
        | .error x => .next (stopEngine s e x)
        | .ok s1 => .next (chunkPerformed s1 e c p)

/-! ## Peers (R374, R377, R380) -/

/-- Two records that a first exchange finds alike. -/
def sameColl (a b : CollRec) : Bool :=
  a.kind = b.kind && a.op = b.op && a.wire = b.wire && a.ef = b.ef && a.len = b.len && a.timeout = b.timeout

/-- A contribution that has not come yet is late: the chip has flushed, or holds a partial result without it (R378, R382). -/
def CollOp.takesLate (c : CollOp) (k rank : Nat) : Bool :=
  !(c.late.any fun x => x.rank = rank && x.chunk = k) &&
    match c.results.find? fun p => p.chunk = k with
    | some p => p.missing.contains rank
    | none => c.flushed

/-- The time to flush has come, and a contribution is still missing (R378). -/
def flushDue (s : State) (e : Engine) (c : CollOp) : Bool :=
  engineLive s e && c.rec_.timeout ≠ 0 && !c.flushed && decide (c.started + 1000 * c.rec_.timeout ≤ s.ptpns)
    && (List.range (collChunks c.rec_ c.n)).any c.waits

/-- COLLECTIVE_PEER_FLIT. A flit that comes in the cycle of a flush comes after it (R382). A notice carries one of the causes of R377 and
R380; its chunk is one of the output of the chip that folded it. -/
def execCollectivePeerFlit (id rank : Nat) (flit : PeerFlit) (s : State) : Out :=
  match (s.engine? id).bind fun e => e.coll?.map fun c => (e, { c with flushed := c.flushed || flushDue s e c }) with
  | none => .next s
  | some (e, c) =>
    if e.suspended ∨ rank = c.rank ∨ c.n ≤ rank then .next s
    else
      match flit with
      | .first record ring chip =>
        if !sameColl (CollRec.read record) c.rec_ then .next (endColl s e 9 c.record)
        else
          let back := ring && c.rec_.reduces && !c.fixed
          .next (setColl s id { c with peers := upsert c.peers (fun p => p.1 = rank) (rank, chip), ring := c.ring || back,
                                       slot := c.slot && !back })
      | .chunk index grade bytes =>
        if !((c.peers.any fun p => p.1 = rank) && (c.missing index).contains rank && bytes.length = c.rec_.elems * wireZ c.rec_.wire) then .next s
        else if c.takesLate index rank then .next (setColl s id { c with late := c.late ++ [⟨rank, index, grade, bytes⟩] })
        else if c.flushed || c.results.any (fun p => p.chunk = index) then .next s
        else .next (setColl s id { c with contribs := c.contribs ++ [⟨rank, index, grade, bytes⟩], fixed := true })
      | .result index grade missing bytes =>
        if c.rec_.reduces && !c.outDone.contains index && decide (index < collChunks c.rec_ c.n) && !(c.results.any fun p => p.chunk = index)
            && bytes.length = c.rec_.elems * wireZ c.rec_.wire then
          .next (setColl s id { c with results := c.results ++ [⟨index, missing, grade, bytes⟩] })
        else .next s
      | .halted cause chip chunk elem =>
        if cause = 9 then .next (endColl s e 9 c.record)
        else if cause = 0x12 then
          .next (endColl s e 0x12 (if chip = s.chipid then haltAddr c rank chunk elem c.rank else BitVec.ofNat 64 (2 ^ 63 + chip)))
        else .next s

/-! ## Flush and late contributions (R378) -/

/-- COLL_TIMEOUT_FLUSH: TIMEOUT µs after the start a chip that still lacks a contribution folds identities. -/
def execCollTimeoutFlush (id : Nat) (s : State) : Out :=
  match (s.engine? id).bind fun e => e.coll?.map fun c => (e, c) with
  | none => .next s
  | some (e, c) =>
    if flushDue s e c then .next (setColl s id { c with flushed := true }) else .next s

/-- A late contribution is folded into each result that lacks it, and each is written as an amendment. -/
def lateAll (x : Straggler) (rank grade : Nat) (bytes : List Byte) : List Partial → Nat → State → List Partial × State
  | [], _, s => ([], s)
  | p :: rest, k, s =>
    if p.missing.contains rank then
      let z := x.op.rec_.elems * wireZ x.op.rec_.wire
      let (ps, s1) := lateChunk s x p rank grade ((bytes.drop (k * z)).take z)
      let (qs, s2) := lateAll x rank grade bytes rest (k + 1) s1
      (ps ++ qs, s2)
    else
      let (qs, s1) := lateAll x rank grade bytes rest k s
      (p :: qs, s1)

/-- LATE_CONTRIBUTION: the data of a straggler's missing chunks, in chunk order. -/
def execLateContribution (id rank : Nat) (grade : Nat) (bytes : List Byte) (s : State) : Out :=
  match s.stragglers.find? fun x => x.id = id with
  | none => .next s
  | some x =>
    let (left, s1) := lateAll x rank grade bytes x.results 0 s
    .next (setStraggler s1 id left)

end Sys2Proof.Machine
end

