-- ==== Sys2Proof/Machine/HostMem.lean ====
section
/-! DEFINITION. The memory commands of a context's window: INVAL, DIRTYSCAN and AMEND (R292, R298 to R301, R330), posted host
writes (R120, R330), and the window registers' results (R89). -/

namespace Sys2Proof.Machine

/-! ## Windows (R89) -/

/-- Result words: 1 BUSY, 2 DONE, 3 REFUSED, 4 FULL, 5 BADDESC, 6 FAULT. -/
def resWord (res detail : Nat) : Nat := res + detail * 256

/-- The context whose window a virtual function presents; none reads as zero and ignores writes. The functions are offered
while the chip is `ready` (R422). -/
def windowOf (s : State) (vf ctx : Nat) : Option Context :=
  if s.start = .ready then (s.ctx? ctx).filter fun c => c.vf = vf && c.part = s.vfPart vf else none

/-- The addresses of an operand word. -/
def mopAt (c : Context) (k : Nat) : Nat := (nth c.mop k 0).toNat

def setMres (s : State) (ctx res : Nat) : State := s.updCtx ctx fun c => { c with mres := res }

/-- A memory command of a window whose area is not busy. -/
def memCommand (s : State) (vf ctx : Nat) (ok : Context → Bool) (act : Context → State) : Out :=
  match windowOf s vf ctx with
  | none => .next s
  | some c => if c.mres = 1 then .next s else if ok c then .next (act c) else .next (setMres s ctx 3)

/-! ## Leaves of a context's tables -/

/-- The leaves below a table, in increasing virtual address. -/
def leavesFrom (s : State) (ctx partid : Nat) : List (Nat × Nat × Nat × Nat) → Nat → Nat → List TlbEntry
  | [], _, _ => []
  | (level, low, entries, size) :: rest, table, va =>
    (List.range entries).flatMap fun k =>
      let here := va + k * 2 ^ low
      let pte := leNat (memRead s (table + 8 * k) 8)
      if bitsAt pte 0 1 = 0 then []
      else if bitsAt pte 1 1 = 1 then (walkFrom s ctx partid here [(level, low, entries, size)] table).toList
      else if pointerOk level pte then leavesFrom s ctx partid rest (bitsAt pte 8 40 * 256) here
      else []

def leavesOf (s : State) (ctx : Nat) : List TlbEntry :=
  match s.ctxRec ctx with
  | some r => leavesFrom s ctx r.partid walkLevels r.ptroot 0
  | none => []

/-! ## INVAL (R292, R298) -/

/-- The entry covers a byte of the range; length 0 is the whole context. -/
def inRange (e : TlbEntry) (ctx base n : Nat) : Bool := e.ctx = ctx && (n = 0 || overlaps e.vbase e.size base n)

/-- The waiting stores of a context's groups are performed, and its combining lines drained. -/
def settleCtx (s : State) (ctx : Nat) : State :=
  let gs := s.groups.filter fun g => g.ctx = ctx
  let s1 := gs.foldl (fun a g => flushGroup a g.at_) s
  (s1.wcb.filter fun l => l.ctx = ctx).foldl drainLine s1

/-- Every TLB drops the covered entries, once what was translated through them is performed. -/
def dropTlb (s : State) (ctx base n : Nat) : State :=
  let s1 := settleCtx s ctx
  { s1 with tlb := s1.tlb.filter fun e => !inRange e ctx base n }

def execInval (vf ctx : Nat) (s : State) : Out :=
  memCommand s vf ctx (fun c => mopAt c 0 % 65536 = 0 && mopAt c 1 % 65536 = 0 && mopAt c 2 = 0) fun c =>
    (setMres s ctx 1).updCtx ctx fun x => { x with inval := some (mopAt c 0, mopAt c 1) }

/-- INVAL_DONE. -/
def execInvalDone (ctx : Nat) (s : State) : Out :=
  match (s.ctx? ctx).bind (·.inval) with
  | some (base, n) => .next ((setMres (dropTlb s ctx base n) ctx 2).updCtx ctx fun x => { x with inval := none })
  | none => .next s

/-! ## DIRTYSCAN (R300) -/

/-- Size code of a leaf. -/
def sizeCode (n : Nat) : Nat := if n = 65536 then 0 else if n = 2 ^ 21 then 1 else 2

/-- D is cleared in a leaf's entry and the page's TLB entries are dropped. -/
def cleanLeaf (s : State) (e : TlbEntry) : State :=
  { s with
    mem := memWrite s e.pteAt [(memRead s e.pteAt 1).headD 0 &&& 0xBF]
    tlb := s.tlb.filter fun x => !(x.ctx = e.ctx && overlaps x.vbase x.size e.vbase e.size) }

/-- The dirty report of a context in a host buffer with room for `cap` entries. -/
def dirtyReport (s : State) (ctx buf cap : Nat) : State :=
  let dirty := (leavesOf s ctx).filter (·.dirty)
  let s1 := dirty.foldl cleanLeaf (settleCtx s ctx)
  let entries := (dirty.take cap).flatMap fun e => leBytes (e.vbase + sizeCode e.size) 8
  let head := leBytes dirty.length 8 ++ leBytes cap 4 ++ leBytes (if dirty.length > cap then 1 else 0) 4
  { s1 with hostMem := writeBytes (writeBytes s1.hostMem (buf + 16) entries) buf head }

def execDirtyscan (vf ctx : Nat) (s : State) : Out :=
  memCommand s vf ctx (fun c => mopAt c 0 % 16 = 0 && decide (mopAt c 1 < 2 ^ 32) && mopAt c 2 = 0) fun c =>
    setMres (dirtyReport s ctx (mopAt c 0) (mopAt c 1)) ctx 2

/-! ## The host's AMEND (R330) -/

/-- What R326 refuses for the host's form: the cause and the address; or the granules and the state. -/
def hostRange (s : State) (ctx va n : Nat) : Except (Nat × Nat) (List Granule × State) :=
  if n < 256 ∨ n > 0x1000000 then .error (9, va / 256 * 256)
  else if va + n > 2 ^ 57 then .error (9, max (va / 256 * 256) (2 ^ 57))
  else if va % 256 ≠ 0 ∨ n % 256 ≠ 0 then .error (0x0A, va / 256 * 256)
  else
    let pages := pageStarts va n
    match pages.find? fun a => (translate s ctlCore ctx a.ea.toNat 1).isNone with
    | some a => .error (8, a.ea.toNat)
    | none =>
      let (ts, s1) := pages.foldl (fun (acc : List TAcc × State) a =>
        match translate acc.2 ctlCore ctx a.ea.toNat 1 with
        | some (e, s') => (acc.1 ++ [⟨a, e, e.locate a.ea.toNat⟩], s')
        | none => acc) ([], s)
      let gs := granulesOf va n ts
      match gs.find? fun g => !g.ent.graded || g.ent.inCarveOut g.va with
      | some g => .error (9, g.va)
      | none => .ok (gs, s1)

def execHostAmend (vf ctx : Nat) (s : State) : Out :=
  memCommand s vf ctx (fun c => decide (mopAt c 2 < 4)) fun c =>
    let f := mopAt c 2
    let refuse (cause a : Nat) : State := setMres (engineFault s ctx cause (BitVec.ofNat 64 a) (kindFlags 1)) ctx 6
    match hostRange s ctx (mopAt c 0) (mopAt c 1) with
    | .error (cause, a) => refuse cause a
    | .ok (gs, s1) =>
      if f = 0 then setMres (gs.foldl resetGranule s1) ctx 2
      else
        match amendFault s1 gs with
        | some (cause, a) => refuse cause a
        | none => setMres (gs.foldl (amendGranule ctx f 1) s1) ctx 2

/-! ## Posted host writes (R120, R330) -/

/-- A context whose tables map the address in a graded page. -/
def gradedOwner (s : State) (pa : Nat) : Option Nat :=
  (s.contexts.find? fun c => (leavesOf s c.id).any fun e =>
    e.graded && e.loc = 0 && decide (e.frame ≤ pa) && decide (pa < e.frame + e.size)).map (·.id)

/-- A host write to a graded frame is dropped and recorded. -/
def dropWrite (s : State) (ctx pa : Nat) : State := engineFault s ctx 9 (BitVec.ofNat 64 pa) (kindFlags 1)

/-- HOST_GRADED_WRITE_DROP. -/
def execHostGradedWriteDrop (pa : Nat) (s : State) : Out :=
  match gradedOwner s pa with
  | some ctx => .next (dropWrite s ctx pa)
  | none => .next s

/-- An address in each 64 KiB frame that a write of `n` bytes reaches. -/
def framesOf (pa n : Nat) : List Nat :=
  (List.range ((pa + n - 1) / 65536 + 1 - pa / 65536)).map fun k => max pa ((pa / 65536 + k) * 65536)

/-- HOST_MEMORY_WRITE: a posted write to device memory; one that reaches a graded frame is dropped. -/
def execHostMemoryWrite (pa : Nat) (bytes : List Byte) (s : State) : Out :=
  if pa + bytes.length > hbmEnd ∨ lostRange s pa bytes.length then .next s
  else
    match (framesOf pa bytes.length).findSome? (gradedOwner s) with
    | some ctx => .next (dropWrite s ctx pa)
    | none => .next { s with mem := writeBytes s.mem pa bytes }

end Sys2Proof.Machine
end

