-- ==== Sys2Proof/Machine/QueueInstr.lean ====
section
/-! DEFINITION. QENQ, QDEQ, QSTEAL, QCAP and QINFO (R114, R115, R118, R119), and the retry of an engine's items (R121). -/

namespace Sys2Proof.Machine

/-- Item registers for a size code. -/
def itemRegs (f : Nat) : Nat := 2 ^ (f % 4)

def itemNames (d n : Nat) : List RName := (List.range n).map fun k => .s (d + k)

/-- An answered queue operation: registers written, counted on QC. -/
def answerQueue (s : State) (c : Iss) (f : Group → Group) : State :=
  withGroup { s with seq := s.seq + 1 } c fun g => (f g).answered 4 s.seq

/-- Parks on a queue's waiters: QC counts the operation until its answer (R115, R169). A parked QDEQ keeps the scalars that it will
write, for the order of R179. -/
def parkQueue (s : State) (c : Iss) (q : Queue) (enq : Bool) (d n : Nat) : Act :=
  let s1 := s.updQueue q.num fun x =>
    if enq then { x with enqWait := x.enqWait ++ [c.who] } else { x with deqWait := x.deqWait ++ [c.who] }
  .error (.park ({ s1 with seq := s1.seq + 1 }.updGroup c.who.group fun g =>
      (g.addOp { OutOp.mk' 4 s1.seq with lands := if enq then [] else (List.range n).map fun k => .scalar (d + k) 0, external := true }).updFrag c.who.index fun f => { f with tags := f.tags.map (Tag.onIssue c) })
    (.queue q.num enq d n c.stall (c.g.nextIndex 4)))

def execQenq (f : BitVec 4) (d a b : BitVec 6) (g : BitVec 2) (s : State) : Out :=
  runIssue s fun c => do
    let n := itemRegs f.toNat
    let try_ := g.toNat = 1
    c.prep (.qenq f d a b g) true (uniUses (.s a.toNat :: itemNames d.toNat n) (if try_ then [.s b.toNat] else []))
    c.room s 4
    let cap := c.sv a.toNat
    needCap s c.g.ctx cap (some 0) (some (f.toNat % 4)) true
    match s.queue? (capQnum cap) with
    | none => .ok s
    | some q =>
      if q.occ < q.capacity then
        let s1 := beforeItem s c.who.group
        let item := (List.range n).flatMap fun k => leBytes (c.sv (d.toNat + k)).toNat 8
        .ok (afterQueueOp (answerQueue (pushItem s1 q item) c fun x =>
          if try_ then x.blockStake.setAnswer c.f.slices b.toNat 0 else x.blockStake) q.num)
      else if try_ then .ok (answerQueue s c fun x => x.blockStake.setAnswer c.f.slices b.toNat 1)
      else parkQueue s c q true d.toNat n

def execQdeq (f : BitVec 4) (d a b : BitVec 6) (g : BitVec 2) (s : State) : Out :=
  runIssue s fun c => do
    let n := itemRegs f.toNat
    let try_ := g.toNat = 1
    c.prep (.qdeq f d a b g) true (uniUses [.s a.toNat] (itemNames d.toNat n ++ if try_ then [.s b.toNat] else []))
    c.room s 4
    let cap := c.sv a.toNat
    needCap s c.g.ctx cap (some 1) (some (f.toNat % 4)) false
    match s.queue? (capQnum cap) with
    | none => .ok s
    | some q =>
      if q.occ > 0 then
        let bytes := headItem s q
        .ok (afterQueueOp (answerQueue (afterItem (popItem s q) c.who.group) c fun x =>
          let y := x.blockStake.setItem c.f.slices d.toNat bytes
          if try_ then y.setAnswer c.f.slices b.toNat 0 else y) q.num)
      else if try_ then
        .ok (answerQueue s c fun x => x.blockStake.setAnswer c.f.slices b.toNat (if q.state = .sealed then 2 else 1))
      else if q.state = .sealed then trapWith 0x0E (some 0) (capInfo 6 cap)
      else parkQueue s c q false d.toNat n

def execQsteal (f : BitVec 4) (d a b : BitVec 6) (s : State) : Out :=
  runIssue s fun c => do
    let n := itemRegs f.toNat
    c.prep (.qsteal f d a b) true (uniUses [.s a.toNat] (itemNames d.toNat n ++ [.s b.toNat]))
    c.room s 4
    let cap := c.sv a.toNat
    needCap s c.g.ctx cap (some 2) (some (f.toNat % 4)) false
    match s.queue? (capQnum cap) with
    | none => .ok s
    | some q =>
      if q.occ ≤ q.sfloor ∨ q.occ = 0 then
        .ok (answerQueue s c fun x => x.blockStake.setAnswer c.f.slices b.toNat (if q.occ = 0 ∧ q.state = .sealed then 2 else 1))
      else
        let bytes := headItem s q
        .ok (afterQueueOp (answerQueue (afterItem (popItem s q) c.who.group) c fun x =>
          (x.blockStake.setItem c.f.slices d.toNat bytes).setAnswer c.f.slices b.toNat 0) q.num)

/-- QCAP: the word with fewer rights and its CHECK recomputed. -/
def execQcap (f : BitVec 4) (d a : BitVec 6) (s : State) : Out :=
  runIssue s fun c => do
    c.prep (.qcap f d a) true (uniUses [.s a.toNat] [.s d.toNat])
    c.room s 4
    let cap := c.sv a.toNat
    needCap s c.g.ctx cap none none false
    let kept := bitsAt cap.toNat 32 3 &&& f.toNat
    let low := cap.toNat % 2 ^ 32 + kept * 2 ^ 32 + bitsAt cap.toNat 35 13 * 2 ^ 35
    .ok (answerQueue s c fun x => x.setAnswer c.f.slices d.toNat (mintCap s low))

/-- The status word of a queue (R119). -/
def queueInfo (q : Queue) (cap : DWord) : DWord :=
  BitVec.ofNat 64 (q.occ * 2 ^ 32 + min 255 (q.enqWait.length + q.deqWait.length) * 2 ^ 24 + q.sfloor * 2 ^ 16
    + q.log2cap * 2 ^ 11 + q.size * 2 ^ 9 + bitsAt cap.toNat 32 3 * 2 ^ 6 + (if q.state = .sealed then 32 else 16))

def execQinfo (d a : BitVec 6) (s : State) : Out :=
  runIssue s fun c => do
    c.prep (.qinfo d a) true (uniUses [.s a.toNat] [.s d.toNat])
    c.room s 4
    let cap := c.sv a.toNat
    needCap s c.g.ctx cap none none false
    match s.queue? (capQnum cap) with
    | none => .ok s
    | some q => .ok (answerQueue s c fun x => x.setAnswer c.f.slices d.toNat (queueInfo q cap))

/-- ENGINE_ENQUEUE_RETRY (R121). -/
def execEngineEnqueueRetry (id : Nat) (s : State) : Out :=
  match s.engine? id with
  | none => .next s
  | some e =>
    let (left, s1) := enqueueItems e.ctx e.items s
    .next (if left = [] && e.kind == .items then s1.dropEngine id else s1.updEngine id fun x => { x with items := left })

end Sys2Proof.Machine
end

