-- ==== Sys2Proof/Machine/HostQueue.lean ====
section
/-! DEFINITION. The queue commands of a context's window (R109 to R111) and the host enqueue window (R120). -/

namespace Sys2Proof.Machine

/-- A queue command of a window whose area is not busy. -/
def queueCommand (s : State) (vf ctx : Nat) (act : Context → State) : Out :=
  match windowOf s vf ctx with
  | none => .next s
  | some c => if c.qres % 256 = 1 then .next s else .next (act c)

def setQres (s : State) (ctx res detail : Nat) : State := s.updCtx ctx fun c => { c with qres := resWord res detail }

/-- The descriptor of R109, if it keeps its limits. -/
def queueOf (s : State) (c : Context) : Option Queue :=
  let base := fieldAt c.qdesc 0 8
  let log2cap := fieldAt c.qdesc 8 1
  let size := fieldAt c.qdesc 9 1
  let bytes := 2 ^ log2cap * (8 * 2 ^ size)
  if log2cap < 4 ∨ log2cap > 20 ∨ size > 3 ∨ fieldAt c.qdesc 11 5 ≠ 0 ∨ base % bytes ≠ 0 ∨ !inPart s c.part base bytes then none
  else some ⟨0, 0, .opened, c.id, base, log2cap, size, fieldAt c.qdesc 10 1, 0, 0, [], []⟩

/-- QCREATE: without a free number FULL, then BADDESC; else the number's epoch advances and a capability with all rights is returned. -/
def createQueue (s : State) (c : Context) : State :=
  match pickFree s 5 65536 fun n => s.queues.any fun x => x.num = n && x.state != .free with
  | none => setQres s c.id 4 0
  | some n =>
    match queueOf s c with
    | none => setQres s c.id 5 0
    | some q =>
      let epoch : BitVec 16 := (s.queue? n).elim 0 (·.epoch) + 1
      let s1 := { s.fresh with queues := upsert s.queues (fun x => x.num = n) { q with num := n, epoch := epoch } }
      (setQres s1 c.id 2 0).updCtx c.id fun x => { x with qcapout := newCap s n epoch.toNat c.id 7 }

def execQcreate (vf ctx : Nat) (s : State) : Out := queueCommand s vf ctx (createQueue s)

/-- SEAL and QDESTROY check QCMDCAP under reasons 1 to 3 of R113. -/
def ownedQueue (s : State) (c : Context) (act : Queue → State) : State :=
  match capReason s c.id c.qcmdcap none none false, s.queue? (capQnum c.qcmdcap) with
  | some r, _ => setQres s c.id 3 r
  | none, some q => act q
  | none, none => setQres s c.id 3 3

/-- Later enqueues are refused; parked ones trap, and parked dequeues of an empty queue do (R110). -/
def sealQueue (s : State) (q : Queue) : State :=
  let s1 := s.updQueue q.num fun x => { x with state := .sealed, enqWait := [] }
  sealDry (refuseAll 6 q.num q.enqWait s1) q.num

def execSeal (vf ctx : Nat) (s : State) : Out :=
  queueCommand s vf ctx fun c => ownedQueue s c fun q => setQres (sealQueue s q) ctx 2 0

/-- The queue becomes `free`: its items go and parked operations trap with reason 3; the epoch is kept. -/
def freeQueue (s : State) (q : Queue) : State :=
  let s1 := s.updQueue q.num fun x => { x with state := .free, head := 0, tail := 0, enqWait := [], deqWait := [] }
  refuseAll 3 q.num (q.enqWait ++ q.deqWait) s1

def execQdestroy (vf ctx : Nat) (s : State) : Out :=
  queueCommand s vf ctx fun c => ownedQueue s c fun q => setQres (freeQueue s q) ctx 2 0

/-! ## The enqueue window (R120) -/

def EnqSlot.empty : EnqSlot := ⟨0, 0, List.replicate 64 0⟩

def enqSlot (c : Context) (i : Nat) : EnqSlot := ((c.enq.find? fun p => p.1 = i).map (·.2)).getD EnqSlot.empty

def setEnqSlot (s : State) (ctx i : Nat) (e : EnqSlot) : State :=
  s.updCtx ctx fun c => { c with enq := upsert c.enq (fun p => p.1 = i) (i, e) }

/-- ENQ_COMMIT. -/
def execEnqCommit (vf ctx slot : Nat) (value : DWord) (s : State) : Out :=
  match windowOf s vf ctx with
  | none => .next s
  | some c =>
    let e := enqSlot c slot
    let answer (s1 : State) (st : Nat) : State := setEnqSlot s1 ctx slot { e with status := st }
    let size := value.toNat % 4
    if slot ≥ 32 ∨ e.status = 4 then .next s
    else if c.state ≠ 2 then .next (answer s 3)
    else if value.toNat / 4 ≠ 0 then .next (answer (enqueueFault s ctx 7 e.cap) 3)
    else
      match capReason s ctx e.cap (some 0) (some size) true, s.queue? (capQnum e.cap) with
      | some r, _ => .next (answer (enqueueFault s ctx r e.cap) 3)
      | none, some q =>
        if q.occ < q.capacity then .next (answer (afterQueueOp (pushItem s q e.item) q.num) 1) else .next (answer s 2)
      | none, none => .next (answer s 3)

end Sys2Proof.Machine
end

