-- ==== Sys2Proof/Machine/Retire.lean ====
section
/-! DEFINITION. The end of groups, blocks, tile domains and kernels (R132, R148, R165, R166, R256, R322), the placing of
blocks (R128 to R131), turnovers (R133, R134), and scratchpad errors (R259). -/

namespace Sys2Proof.Machine

/-! ## A group that no longer holds its slot -/

/-- Replaces a group's identifier by another. -/
def swapId (old new : GroupId) (g : GroupId) : GroupId := if g = old then new else g

def swapFrag (old new : GroupId) (w : FragId) : FragId := if w.group = old then ⟨new.core, new.quarter, new.slot, w.index⟩ else w

def swapArrival (old new : GroupId) (a : Arrival) : Arrival := { a with who := swapFrag old new a.who }

/-- A group is named anew wherever the state names it. -/
def renameGroup (s : State) (old new : GroupId) : State :=
  { s with
    groups := s.groups.map fun g => { g with at_ := swapId old new g.at_ }
    engines := s.engines.map fun e =>
      { e with group := e.group.map (swapId old new) }
    wcb := s.wcb.map fun l => { l with group := swapId old new l.group }
    blocks := s.blocks.map fun b =>
      { b with barb := b.barb.map (swapArrival old new), phase := b.phase.map (swapArrival old new),
               coll := b.coll.map (swapArrival old new) }
    links := s.links.map fun l => { l with changes := l.changes.map fun c => { c with group := swapId old new c.group } } }

/-- A name past the slots of a quarter, for a group that holds none. -/
def spareId (s : State) (g : GroupId) : GroupId :=
  let n := s.groups.length + 1
  let k := ((List.range n).find? fun k => !s.groups.any fun x => x.at_ = ⟨g.core, g.quarter, 256 + k⟩).getD 0
  ⟨g.core, g.quarter, 256 + k⟩

/-- Something of an ended group is outstanding (R165). -/
def outstanding (s : State) (g : Group) : Bool :=
  g.ops.any (fun o => !o.done) || s.engines.any fun e => e.group = some g.at_ && e.kind != .items

/-- Entries of a core's retirement tracker in use. -/
def trackerUse (s : State) (core : Nat) : Nat := (s.groups.filter fun g => g.at_.core = core && g.state == .tracked).length

/-! ## The end of blocks and domains (R130, R256) -/

/-- Every group of a domain has retired and no engine operation of it is left, a conversion that it has demanded among them. -/
def domainEnded (s : State) (dom : Nat) : Bool :=
  !(s.groups.any fun g => g.state != .tracked && s.domOf g = dom) && !(s.engines.any fun e => e.dom = dom && e.kind != .items)
    && !s.tensors.any fun t => t.pending.any fun c => c.dom = dom

/-- The stores that wait to enter a tile's banks are performed. -/
def settleTile (s : State) (t : Tile) : State :=
  (List.range 4).foldl (fun a k => performThose a (t.core / 4 * 4 + k) fun w => w.2.stores.any fun x =>
    match x.loc with
    | .tile id _ => id = t.id
    | _ => false) s

/-- A block that has groups, or one that stops for inspection, whose dump and resumption are still to come (R406, R407). -/
def blockStays (s : State) (b : Block) : Bool :=
  (s.groups.any fun g => g.kid = b.kid && g.block = b.linear) || b.debug != .run || b.stopAsked

/-- The tiles of ended domains are scrubbed; blocks whose last group and tracker entry are gone return their reservation. -/
def endBlocks (s : State) : State :=
  let gone := s.tiles.filter fun t => t.state == .live && domainEnded s t.dom
  let s1 := gone.foldl (fun a t => freeTile (settleTile a t) t) s
  { s1 with blocks := s1.blocks.filter (blockStays s1) }

/-- The last group of a kernel has retired (R132). -/
def drainKernel (s : State) (kid : Nat) : State :=
  if s.groups.any fun g => g.kid = kid && g.state != .tracked then s
  else s.updKernel kid fun k => { k with state := if k.state = .resident then .draining else k.state }

/-! ## Turnovers (R134) -/

/-- A group that has retired is no member any more; one that a turnover starts under its number joins from the next phase (R244). -/
def leaveMembers (s : State) (g : Group) : State :=
  s.updBlock g.kid g.block fun b => { b with members := b.members.filter (· ≠ g.gid) }

/-- The group that fills a freed slot: the new role with the same GROUPID, if the quarter has the registers. -/
def refill (s : State) (g : Group) : State :=
  match g.turnover, s.kernel? g.kid with
  | some y, some k =>
    if k.launch.regsOf y ≤ freeRegs s g.at_.core g.at_.quarter ∧ (s.ctx? g.ctx).elim 0 (·.state) = 2 then
      { s with groups := s.groups ++ [Group.start k.launch k.record k.ctx k.kid g.block g.gid y g.at_ (s.cycleOf g.at_.core)] }
    else s
  | _, _ => s

/-- An ended group frees its slot: a tracker entry keeps what is outstanding (R165, R166). -/
def freeSlot (s : State) (g : Group) : State :=
  if outstanding s g then
    let new := spareId s g.at_
    (renameGroup s g.at_ new).updGroup new fun x => { x with state := .tracked, turnover := none }
  else { s with groups := s.groups.filter fun x => x.at_ != g.at_ }

/-- An ended group gets its entry of the retirement tracker: one is free, and no ended group of a quarter whose turn comes earlier asks
for one (R13, R165). -/
def trackerTurn (s : State) (g : Group) : Bool :=
  let turn (x : Group) : Nat := quarterTurn s g.at_.core 7 x.at_.quarter
  decide (trackerUse s g.at_.core < 256)
    && !s.groups.any fun x => x.at_.core = g.at_.core && x.state == .tail && decide (turn x < turn g) && outstanding s x

/-- GROUP_RETIRE: with no tracker entry free the group waits in `tail`. -/
def execGroupRetire (gid : GroupId) (s : State) : Out :=
  match s.group? gid with
  | none => .next s
  | some g =>
    if g.state ≠ .tail ∨ (outstanding s g ∧ !trackerTurn s g) then .next s
    else
      let s0 := if outstanding s g then serveUnit s gid.core 7 gid.quarter else s
      let s1 := settleColl (refill (leaveMembers (freeSlot s0 g) g) g) g.kid g.block
      .next (advancePhases (endBlocks (drainKernel s1 g.kid)))

/-- TRACKER_ENTRY_FREED (R165). -/
def execTrackerEntryFreed (gid : GroupId) (s : State) : Out :=
  match s.group? gid with
  | none => .next s
  | some g =>
    if g.state ≠ .tracked ∨ outstanding s g then .next s
    else .next (endBlocks { s with groups := s.groups.filter fun x => x.at_ != gid })

/-- TILE_SCRUB_DONE (R256). -/
def execTileScrubDone (id : Nat) (s : State) : Out :=
  .next { s with tiles := s.tiles.filter fun t => !(t.id = id && t.state == .scrubbing) }

/-! ## The end of a kernel (R132, R314, R322) -/

/-- Its domains end (R256), every write of the kernel is performed at device scope and its writer marks are cleared. -/
def settleKernel (s0 : State) (kid : Nat) : State :=
  let s := endBlocks s0
  let s1 := ((s.cluster.map (·.cluster)).eraseDups).foldl clusterBack s
  { s1 with
    marks := s1.marks.filter fun m => !(m.chip = 0 && m.kid = kid)
    kernels := s1.kernels.filter fun k => k.kid != kid
    blocks := s1.blocks.filter fun b => b.kid != kid
    phases := s1.phases.filter fun n => n.kid != kid }

/-- Held writes of a run of a node pass to the node; those of a LAUNCH run are discarded with a record. -/
def passHeld (s : State) (k : Kernel) : State :=
  let mine (e : VestEntry) : Bool := e.ctx = k.ctx && e.kid = k.kid && !e.released
  match k.node with
  | some _ => { s with vest := s.vest.map fun e => if mine e then { e with kid := 1024 } else e }
  | none => reportHeld s k.ctx mine

/-- The completion of a run of a node, or the count in a completion word (R132, R138). -/
def signalDone (s : State) (k : Kernel) : State :=
  match k.node with
  | some (gb, n) => s.updNode k.ctx gb n fun x => if x.kid = some k.kid then { x with kid := none, finished := true, seen := k.seen } else x
  | none =>
    if k.completion = 0 then s
    else
      match translate s ctlCore k.ctx k.completion.toNat 1 with
      | none => s
      | some (e, s1) =>
        let loc := e.locate k.completion.toNat
        let s2 := setDirty s1 e
        writeLoc s2 loc (leBytes (leNat (readLoc s2 loc 8) + 1) 8)

/-- Something of a kernel is left: a group, an engine operation, a conversion, or a block that stops for inspection. -/
def kernelBusy (s : State) (kid : Nat) : Bool :=
  (s.groups.any fun g => g.kid = kid) || (s.engines.any fun e => e.kid = kid && e.kind != .items)
    || (s.tensors.any fun t => t.pending.any fun c => c.kid = kid) || s.blocks.any fun b => b.kid = kid && blockStays s b

/-- KERNEL_COMPLETE: with its completion word unreadable the kernel waits for the fault to be resolved. The kernel of a context that
stops ends with it and reports nothing (R132). -/
def execKernelComplete (kid : Nat) (s : State) : Out :=
  match s.kernel? kid with
  | none => .next s
  | some k =>
    if k.state ≠ .draining ∨ (s.ctx? k.ctx).any (·.state = 4) ∨ kernelBusy s kid then .next s
    else if k.node = none ∧ k.completion ≠ 0 ∧ (translate s ctlCore k.ctx k.completion.toNat 1).isNone then
      .next (if ctlParked s k.ctx (.kernel kid) then s else parkCtl s k.ctx k.completion 1 (.kernel kid))
    else .next (signalDone (passHeld (settleKernel s kid) k) k)

/-! ## Placing blocks (R128 to R131, R163) -/

/-- Groups of a saved block, with the registers that each needs. -/
def savedGroups (s : State) (b : Block) : List Group :=
  s.groups.filter fun g => g.kid = b.kid && g.block = b.linear && g.state == .saved

/-- The core can hold the saved groups of a block: group g goes to quarter (q + g) mod 4 (R129). -/
def coreHoldsSaved (s : State) (core : Nat) (gs : List Group) : Bool :=
  let q0 := firstQuarter s core
  (List.range 4).all fun q =>
    let mine := gs.filter fun g => (q0 + g.gid) % 4 = q
    decide (mine.length ≤ freeSlots s core q) && decide (sumOf (mine.map (·.regs)) ≤ freeRegs s core q)

/-- The saved blocks of a domain. -/
def savedSet (s : State) (dom : Nat) : List Block := s.blocks.filter fun b => b.dom = dom && b.saved

/-- A saved tile gets a place in the banks of its holder in another cluster. -/
def restoreTile (cl : Nat) (acc : Option State) (t : Tile) : Option State :=
  acc.bind fun s =>
    let core := cl * 4 + t.core % 4
    let put (base phase : Nat) : State :=
      { s.fresh with tiles := s.tiles.map fun x => if x.id = t.id then { x with core := core, base := base, phase := phase, state := .live } else x }
    match t.level with
    | .a => (takeAcc s core).map fun k => put k 0
    | _ => (takeWindow s (cl * 4 + t.holder) t.rb t.rows).map fun p => put p.1 p.2

/-- The tiles of a domain, restored in a cluster; none when they do not fit. -/
def restoreTiles (s : State) (dom cl : Nat) : Option State :=
  (s.tiles.filter fun t => t.dom = dom && t.state == .saved).foldl (restoreTile cl) (some s)

/-- A saved group takes a slot and goes on from what was saved (R163). -/
def restoreGroup (core q0 : Nat) (s : State) (g : Group) : State :=
  let q := (q0 + g.gid) % 4
  let new : GroupId := ⟨core, q, takeSlot s core q⟩
  let now := s.cycleOf core
  (renameGroup s.fresh g.at_ new).updGroup new fun x =>
    { x with state := .allocated, frags := x.frags.map fun f =>
      let f1 := if f.park = some .released && !blockHalted s x then f.resume (nextSlot f.pc false) now else f
      { f1 with readyAt := now + 1, readySince := now + 1 } }

/-- A saved block takes a core, whose L1 holds no line older than what the block's groups have ordered themselves after. -/
def restoreBlock (s : State) (p : Block × Nat) : State :=
  let (b, core) := p
  let s1 := (savedGroups s b).foldl (restoreGroup core (firstQuarter s core)) (dropL1 s core)
  s1.updBlock b.kid b.linear fun x => { x with core := core, saved := false, haltAt := s.cycleOf core }

/-- Cores for saved blocks, each of its candidates in order, no core twice. -/
def assignCores (holds : Block → Nat → Bool) (cand : Block → List Nat) : List Block → List Nat → Option (List (Block × Nat))
  | [], _ => some []
  | b :: rest, taken =>
    ((cand b).filter fun k => !taken.contains k && holds b k).findSome? fun k =>
      (assignCores holds cand rest (k :: taken)).map fun l => (b, k) :: l

/-- The cores of a cluster, best first. -/
def rankedCores (s : State) (cl : Nat) : List Nat := ((List.range 4).map (cl * 4 + ·)).foldr (insertCore s) []

/-- Cores of a cluster for a saved set: any that hold its blocks (R90), and with tiles each the position in the cluster that it
left (R256). -/
def savedCores (s : State) (cl : Nat) (set : List Block) : Option (List (Block × Nat)) :=
  let tiles := s.tiles.any fun t => t.state == .saved && set.any fun b => b.dom = t.dom
  assignCores (fun b k => coreHoldsSaved s k (savedGroups s b)) (fun b => if tiles then [cl * 4 + b.core % 4] else rankedCores s cl) set []

/-- A saved set restored in a cluster: its tiles, its blocks and their table entries fit (R255). -/
def restoreSet (s : State) (bamps : Nat) (set : List Block) (cl : Nat) : Option (Nat × State) :=
  let dom := (set.head?).elim 0 (·.dom)
  match savedCores s cl set, restoreTiles s dom cl with
  | some cores, some s1 =>
    let s2 := cores.foldl restoreBlock s1
    if fieldTakes s (cl / 4) bamps set.length && (List.range 4).all fun k => decide (tableUse s2 (cl * 4 + k) ≤ 4096) then
      some ((cores.head?).elim 0 (·.2), s2)
    else none
  | _, _ => none

/-- The first saved domain of a kernel is placed, if it fits: in the cluster whose core for its first block is best (R130). The wait
of R131 counts from the kernel's last placement (log 127). -/
def placeSaved (s : State) (k : Kernel) : Option State :=
  match s.blocks.find? fun b => b.kid = k.kid && b.saved with
  | none => none
  | some b =>
    let clusters := (s.part? ((s.ctx? k.ctx).elim 0xFFFF (·.part))).elim [] PartEntry.clusterList
    ((clusters.filterMap (restoreSet s k.launch.bamps (savedSet s b.dom))).foldl (fun best x =>
      match best with
      | none => some x
      | some y => if betterCore s x.1 y.1 then some x else some y) none).map (·.2)

/-- A kernel has something to place: a saved block, or its next set. A PREEMPT in progress stops placing (R90, R132), and
a kernel of a context that does not run holds no other back (log 132). -/
def Kernel.waits (s : State) (k : Kernel) : Bool :=
  (s.ctx? k.ctx).any (fun c => c.state = 2 && c.result ≠ 4) && ((s.blocks.any fun b => b.kid = k.kid && b.saved) || k.state == .placing)

/-- The next placement of a kernel: saved blocks first. -/
def placeNext (s : State) (k : Kernel) : Option State :=
  if s.blocks.any fun b => b.kid = k.kid && b.saved then placeSaved s k
  else if k.state = .placing then (nextSet s k).map (placeSet s k)
  else none

/-- An earlier kernel comes first: its next placement fits, or it has waited its limit in the same partition (R131). -/
def goesBefore (s : State) (k x : Kernel) : Bool :=
  decide (x.order < k.order) && x.waits s
    && ((placeNext s x).isSome || (x.starved && decide ((s.ctx? x.ctx).elim 0 (·.part) = (s.ctx? k.ctx).elim 0 (·.part))))

/-- The placement of a kernel's next blocks, when its turn has come. -/
def blockPlace (s : State) (k : Kernel) : State :=
  if !k.waits s || s.kernels.any (goesBefore s k) then s else (placeNext s k).getD s

/-- LAUNCH_STARVATION_TIMEOUT: the kernel's next set has waited 65,536 cycles of F2 (R131). -/
def execLaunchStarvationTimeout (kid : Nat) (s : State) : Out :=
  match s.kernel? kid with
  | none => .next s
  | some k =>
    if k.waits s && decide (k.waitedSince + 65536 ≤ (s.field 2).cycle) then
      .next (s.updKernel kid fun x => { x with starved := true })
    else .next s

/-! ## The stage governor (R133, R134) -/

/-- Items in a role's stage queue; none for a role without one. The queue of that number is read as it stands now, whatever its epoch
(log 131). -/
def stageItems (s : State) (l : LaunchRec) (role : Nat) : Option Nat :=
  let c := nth l.sqcap (l.roles.getD role ⟨8, 0, 0, 0, 0⟩).queue 0
  if c = 0 then none else (s.queue? (capQnum c)).map Queue.occ

def starvedRole (s : State) (l : LaunchRec) (r : Nat) : Bool := (stageItems s l r).any fun n => decide (n ≤ l.glo)
def floodedRole (s : State) (l : LaunchRec) (r : Nat) : Bool := (stageItems s l r).any fun n => decide (l.ghi ≤ n)

/-- The pair of roles of a kernel that qualifies: starved X, flooded Y. -/
def rolePair (s : State) (l : LaunchRec) : Option (Nat × Nat) :=
  let rs := List.range l.roles.length
  let prio (r : Nat) : Nat := (l.roles.getD r ⟨8, 0, 0, 0, 0⟩).prio
  let y := (rs.filter (floodedRole s l)).foldl (fun best r =>
    match best with
    | none => some r
    | some b => if prio r > prio b then some r else some b) (none : Option Nat)
  match rs.find? (starvedRole s l), y with
  | some x, some y => some (x, y)
  | _, _ => none

/-- Groups of a role in a block that stay in it: they have neither ended nor taken a turnover. -/
def roleCount (s : State) (b : Block) (role : Nat) : Nat :=
  (s.groups.filter fun g => g.kid = b.kid && g.block = b.linear && g.role = role && g.state != .tracked && g.state != .tail
    && g.turnover.isNone).length

/-- The turnover of a block after an evaluation: one that is open stays while its role is starved, else it is withdrawn; with none
open the pair that R133 picks opens one. When that would leave the starved role without a group, no turnover
opens, and no other starved role is tried (log 98). -/
def governBlock (s : State) (l : LaunchRec) (b : Block) : Block :=
  match b.turnover.filter fun p => starvedRole s l p.1 with
  | some _ => b
  | none => { b with turnover := (rolePair s l).filter fun p => decide (2 ≤ roleCount s b p.1) }

/-- GOVERNOR_EVALUATION, once in every 1,024 cycles of F2, over every resident kernel with GHI ≠ 0. -/
def execGovernorEvaluation (s : State) : Out :=
  let period := (s.field 2).cycle / 1024
  if period = s.governed then .next s
  else
    .next { s with governed := period, blocks := s.blocks.map fun b =>
      match s.kernel? b.kid with
      | some k => if k.state = .resident ∧ k.launch.ghi ≠ 0 then governBlock s k.launch b else b
      | none => b }

/-! ## Scratchpad errors (R259) -/

/-- SCRATCHPAD_ECC_ERROR: bits [1:0] of the kind 0 corrected, 1 rebuilt from the parity group, 2 not rebuilt: the owning context
stops. Above them the class in which it is counted (R429): 0 the scratchpad, 1 the accumulator store, 2 the tile table, 3 the registers,
4 the L1, 5 the instruction cache, 6 the L2, 7 the vestibule, of which the last five only count (log 120). -/
def execScratchpadEccError (_core dom handle kind : Nat) (s : State) : Out :=
  let unit := nth [1, 2, 3, 0, 4, 5, 6, 7] (kind / 4 % 8) 0
  if kind % 4 = 0 then .next (s.count .eccCorrected unit 0 1)
  else
    let s1 := s.count .eccUncorrectable unit 0 1
    if kind % 4 = 1 ∨ 3 ≤ kind / 4 % 8 then .next s1
    else
      match s.tileOf dom handle with
      | some t => .next (stopContext (engineFault s1 t.ctx 9 (BitVec.ofNat 64 handle)) t.ctx)
      | none => .next s1

end Sys2Proof.Machine
end

