-- ==== Sys2Proof/Machine/Contexts.lean ====
section
/-! DEFINITION. The life of a context (R87 to R92, R97): its commands, pre-emption of groups and engine operations (R161 to
R163, R91), the stop, and waiting fault records (R102). -/

namespace Sys2Proof.Machine

/-! ## Commands (R88 to R90) -/

def setVfres (s : State) (vf res : Nat) : State := { s with vfres := upsert s.vfres (fun p => p.1 = vf) (vf, res) }

/-- CREATE: a context number and no resources. -/
def execCreate (vf : Nat) (s : State) : Out :=
  if s.start ≠ .ready then .next s
  else if s.vfPart vf = 0xFFFF then .next (setVfres s vf (resWord 3 0))
  else
    match pickFree s 8 256 fun n => s.contexts.any fun c => c.id = n with
    | none => .next (setVfres s vf (resWord 4 0))
    | some n =>
      .next (setVfres { s.fresh with contexts := s.contexts ++ [Context.created n vf (s.vfPart vf)] } vf (2 + n * 65536))

/-- A command's result: the state code, RESULT, and one more command accepted or refused. -/
def ctxResult (s : State) (ctx st result : Nat) : State :=
  reportStatus (s.updCtx ctx fun c => { c with state := st, result := result, cmdseq := c.cmdseq + 1 }) ctx

/-- A write of CTXCMD: ignored while a command acts, refused with a nonzero upper part or from a state that R90 does not
list. -/
def ctxCommand (s : State) (vf ctx : Nat) (upper : BitVec 56) (from_ : List Nat) (act : Context → State) : Out :=
  match windowOf s vf ctx with
  | none => .next s
  | some c =>
    if c.result = 4 then .next s
    else if upper ≠ 0 ∨ !from_.contains c.state then .next (ctxResult s ctx c.state 1)
    else .next (act c)

/-! ## BIND and RUN (R92) -/

/-- A power of two from 16 to 65,536. -/
def ringSize (n : Nat) : Bool := (List.range 13).any fun k => n = 16 * 2 ^ k

/-- The context record at CTXREC; `none` when it breaks R92. -/
def readCtxRec (s : State) (c : Context) : Option CtxRec :=
  let pa := c.ctxrec.toNat
  if pa % 64 ≠ 0 ∨ !inPart s c.part pa 64 then none
  else
    let bs := memRead s pa 64
    let ptroot := fieldAt bs 0 8
    let fqbase := fieldAt bs 16 8
    let fqsize := fieldAt bs 24 4
    let am := fieldAt bs 30 1
    let sm := fieldAt bs 32 4
    if ptroot % 4096 ≠ 0 ∨ !inPart s c.part ptroot 4096 ∨ fqbase % 32 ≠ 0 ∨ !ringSize fqsize ∨ !inPart s c.part fqbase (32 * fqsize)
        ∨ am > 15 ∨ fieldAt bs 31 1 ≠ 0 ∨ fieldAt bs 36 4 ≠ 0 ∨ fieldAt bs 40 8 % 8 ≠ 0 ∨ fieldAt bs 56 2 ≠ s.vfPart c.vf
        ∨ fieldAt bs 58 6 ≠ 0 then none
    else
      some { ptroot := ptroot, tvec := BitVec.ofNat 64 (fieldAt bs 8 8), fqbase := fqbase, fqsize := fqsize,
             fqvec := fieldAt bs 28 2, amdepth := if am = 0 then 8 else am, stakemax := if sm = 0 then 50000 else sm,
             stataddr := fieldAt bs 40 8, dirtyaddr := fieldAt bs 48 8, partid := fieldAt bs 56 2 }

/-- BIND: the record holds and the fault queue starts afresh; records that still wait for space are kept (R102). -/
def execBind (vf ctx : Nat) (upper : BitVec 56) (s : State) : Out :=
  ctxCommand s vf ctx upper [0, 5] fun c =>
    match readCtxRec s c with
    | none => ctxResult s ctx c.state 3
    | some r =>
      ctxResult (s.updCtx ctx fun x => { x with record := some r, fqhead := 0, fqtail := 0, fqseq := 0, discard := 0, brkstop := false, trapstop := false }) ctx 1 0

def execRun (vf ctx : Nat) (upper : BitVec 56) (s : State) : Out :=
  ctxCommand s vf ctx upper [1] fun _ => ctxResult s ctx 2 0

/-! ## Pre-emption (R91, R161, R162) -/

/-- Every fragment of the group is parked; one whose wake takes effect in this very cycle or in the next one counts as still parked
(R152, R175). -/
def Group.isParked (g : Group) (now : Nat) : Bool :=
  !g.frags.isEmpty && g.frags.all fun f => f.park.any (·.parks) || f.waking now

/-- The request reaches a group: with a valid stake it stops; parked, or halted for inspection, without one it stops for a
full save; else it runs on. In the handler it waits for TRET (R99). -/
def preemptGroup (now : Nat) (halted : Bool) (g : Group) : Group :=
  let g1 := { g with preemptAt := some now }
  if g.h && !halted then g1
  else if g.stake.valid && !g.h then g1.withdraw
  else if g.isParked now || halted then { g1.withdraw with stopped := true }
  else g1

/-- Queue operations whose answers a halted block has latched have been performed: they are not withdrawn (R116, log 130). -/
def landItems (s : State) (g : Group) : State :=
  (g.frags.filter (·.complete)).foldl (fun a f =>
    let w := fragOf g f
    if (parkedOp a w).isSome then applyLatch (fun x _ => x) a w else a) s

def reachGroup (s : State) (g : Group) : State :=
  let halted := blockHalted s g
  let now := s.cycleOf g.at_.core
  let s0 := landItems s g
  let s1 := if g.h && !halted || !((g.stake.valid && !g.h) || g.isParked now || halted) then s0 else dropWaits s0 g.at_
  s1.updGroup g.at_ (preemptGroup now halted)

/-- Operations of a context that wait on a peer are suspended at a beat boundary and drop their entries (R91). -/
def suspendEngines (s : State) (ctx : Nat) : State :=
  (s.engines.filter fun e => e.ctx = ctx && !e.suspended && heldUp s e).foldl (fun a e =>
    (releaseLocks a e.id).updEngine e.id fun x => { x with suspended := true }) s

/-- PREEMPT: BUSY until PREEMPT_DONE. It reaches the groups in its cycle, after the slots that issue in that cycle (R175). -/
def execPreempt (vf ctx : Nat) (upper : BitVec 56) (s : State) : Out :=
  ctxCommand s vf ctx upper [2] fun _ => ctxResult s ctx 2 4

/-- Pre-emption reaches the groups of the contexts that are to be pre-empted, and their engine operations (R91, R161). -/
def reachGroups (s : State) : State :=
  let s1 := (s.groups.filter (reachDue s)).foldl reachGroup s
  (s.contexts.filter fun c => c.state = 2 && c.result = 4).foldl (fun a c => suspendEngines a c.id) s1

/-- The blocks that a DBGSTOP names stop (R407). -/
def reachBlocks (s : State) : State :=
  (s.blocks.filter fun b => b.stopAsked && b.debug == .run).foldl (fun a b => haltBlock a b.kid b.linear 0 0) s

/-- Requests take effect after the slots of their cycle: a trap of that cycle comes first (R175, R408). -/
def requests (s : State) : State := reachGroups (reachBlocks s)

/-- A request waits for the end of the cycle. -/
def requestsDue (s : State) : Bool := s.groups.any (reachDue s) || s.blocks.any fun b => b.stopAsked && b.debug == .run

/-- STAKEMAX_FULL_SAVE: STAKEMAX cycles without a stake, or in handler mode, force a full save with a record of cause 0x16
(R162). -/
def execStakemaxFullSave (gid : GroupId) (s : State) : Out :=
  match s.group? gid with
  | none => .next s
  | some g =>
    match g.preemptAt, s.ctxRec g.ctx with
    | some t, some r =>
      if preemptable g g.ctx && !(g.stake.valid && !g.h) && !g.stopped && !blockHalted s g && decide (t + r.stakemax ≤ s.cycleOf gid.core) then
        let pc : DWord := ((g.frags.find? fun f => g.frags.all fun x => f.index ≤ x.index).map (·.pc)).getD 0
        let s1 := (withdrawGroup s gid).updGroup gid fun x => { x with stopped := true }
        .next (pushFault s1 g.ctx (groupFault s1 g 1 0x16 0 0 pc))
      else .next s
    | _, _ => .next s

/-- Loads and variable-latency writes of the group that have not landed, a topology change's among them. -/
def writesLeft (s : State) (g : Group) : Bool :=
  (g.ops.any fun o => !o.done && !o.external && o.lands ≠ []) || s.links.any fun l => l.changes.any fun c => c.group = g.at_

/-- The group has stopped and may be saved. -/
def saveable (s : State) (g : Group) : Bool := ((g.stake.valid && !g.h) || g.stopped) && !writesLeft s g

/-- Registers after the restore of a flashback (R163). -/
def flashRegs (g : Group) : List (Nat × Lanes) :=
  (g.vregs.filter fun p => p.1 < 64 && g.stake.livev.getLsbD p.1).map (fun p => (p.1, g.vNew p.1)) ++ initialVregs

/-- A group as a flashback restores it: the recipe of its stake, or the start of R127. -/
def Group.flash (k : Kernel) (g : Group) : Group :=
  let start := Group.start k.launch k.record k.ctx k.kid g.block g.gid g.role g.at_ 0
  let base : Group := { start with turnover := g.turnover, issued := g.issued, ops := [] }
  if g.stake.start then base
  else
    { base with
      vregs := flashRegs g
      sregs := g.sregs
      frags := [{ Fragment.initial g.stake.recipe 0 with slices := g.stake.slices, em := g.stake.em }]
      floor := g.floor
      outgrade := g.outgrade
      chk := g.chk
      fnthr := g.fnthr
      mskip := g.mskip
      stakepc := g.stakepc
      stake := g.stake }

/-- The operation on UC of a PHASE that waits: its arrival stands, and its BPC is still to come (R243, R249). -/
def OutOp.isPhase (g : Group) (o : OutOp) : Bool :=
  o.counter = 3 && o.external && !o.done && g.frags.any fun f =>
    match f.park with
    | some (.phase _) => true
    | some .released => true
    | _ => false

/-- A fragment without its fetched bundles, which are no saved item (R162). -/
def Fragment.unfetched (f : Fragment) : Fragment := { f with fetched := [], inLoop := none }

/-- A group as a full save keeps it: nothing is pending any more but the result of a PHASE that waits, and pre-emption has withdrawn
every failed SYNCL (R189). -/
def Group.fullSave (g : Group) : Group :=
  let ops := g.withdraw.ops.filter (OutOp.isPhase g)
  { g.withdraw with
    pend := [], board := [], stopped := false, preemptAt := none, ops := ops
    uncovered := g.uncovered.filter fun u => ops.any fun o => o.counter = u.counter && o.index = u.index
    syncl := g.withdraw.syncl.filter fun i => i.failed.isNone
    frags := g.withdraw.frags.map Fragment.unfetched
    frame := g.withdraw.frame.map fun fr => { fr with frags := fr.frags.map Fragment.unfetched } }

/-- The stake's record, 32 bytes of code, can still be read; the start stake has none (R163, R164). -/
def stakeReadable (s : State) (g : Group) : Bool :=
  g.stake.start || (List.range 2).all fun k =>
    match fetchBundle s g.at_.core g.ctx ((g.stake.record + BitVec.ofNat 64 (16 * k)).toNat) with
    | .got _ _ => true
    | _ => false

/-- A group is saved: by a flashback when its stake is valid and the record can be read, else in full. It frees its slot. -/
def saveGroup (s : State) (g : Group) : State :=
  let s1 := releaseCore (flushGroup (withdrawGroup s g.at_) g.at_) g.at_.core 2
  match s1.group? g.at_, s1.kernel? g.kid with
  | some x, some k =>
    let y := if x.stake.valid && !x.h && stakeReadable s1 x then Group.flash k x else x.fullSave
    renameGroup (s1.setGroup { y with state := .saved }) g.at_ (spareId s1 g.at_)
  | _, _ => s1

/-- Every group of a context has retired or can be saved, and every engine operation is over or suspended. -/
def preemptReady (s : State) (ctx : Nat) : Bool :=
  (s.groups.filter fun g => g.ctx = ctx && g.state != .tracked && g.state != .saved).all (fun g => g.state != .tail && g.preemptAt.isSome && saveable s g)
    && (s.engines.filter fun e => e.ctx = ctx).all fun e => e.suspended || e.kind == .items || heldUp s e

/-- Blocks and tiles are saved; the tiles hold no banks (R256). -/
def saveBlocks (s : State) (ctx : Nat) : State :=
  { s with
    blocks := s.blocks.map fun b => if b.ctx = ctx then { b with saved := true } else b
    tiles := s.tiles.map fun t => if t.ctx = ctx && t.state == .live then { t with state := .saved } else t }

/-- PREEMPT_DONE: the context reports `pre-empted`. -/
def execPreemptDone (ctx : Nat) (s : State) : Out :=
  match s.ctx? ctx with
  | none => .next s
  | some c =>
    if c.state ≠ 2 ∨ c.result ≠ 4 ∨ !preemptReady s ctx then .next s
    else
      let s1 := (s.groups.filter fun g => preemptable g ctx).foldl saveGroup (suspendEngines s ctx)
      .next (reportStatus ((saveBlocks s1 ctx).updCtx ctx fun x => { x with state := 3, result := 0 }) ctx)

/-! ## RESUME (R90, R91, R163) -/

/-- A suspended operation registers its entries again; while they do not fit, or an earlier operation waits on a table that it needs, it
stays suspended, and no group of the context issues. -/
def resumeEngine (s : State) (e : Engine) : State :=
  let hs := e.rehulled s
  if canAdmit s hs && !waitsBefore s e.id hs then
    resumeHeld (registerHulls (s.updEngine e.id fun x => { x with hulls := hs, suspended := false, admitted := true }.notBefore s.ptpns) e.id hs) e.id
  else s

/-- Once every saved block of a resumed context is placed, its suspended operations whose tiles are back go on, in issue order (R91,
R261). -/
def resumeEngines (s : State) (ctx : Nat) : State :=
  (s.engines.filter fun e => e.ctx = ctx && e.resumes s).foldl resumeEngine s

/-- ENGINE_LOCK_ADMIT, also of an operation that a RESUME has not been able to register yet. -/
def execEngineLockAdmit (id : Nat) (s : State) : Out :=
  match s.engine? id with
  | none => .next s
  | some e =>
    if e.suspended then .next (resumeEngines s e.ctx)
    else .next (admitEngine s e)

/-- Saved domains of a context's kernels are placed while they fit, each when its kernel's turn has come (R131). -/
def placeAllSaved : Nat → List Nat → State → State
  | 0, _, s => s
  | n + 1, kids, s =>
    match kids.findSome? fun kid => (s.kernel? kid).bind fun k => if s.kernels.any (goesBefore s k) then none else placeSaved s k with
    | some s1 => placeAllSaved n kids s1
    | none => s

/-- RESUME reports at once; saved blocks that find no room are placed later (log 123). -/
def execResume (vf ctx : Nat) (upper : BitVec 56) (s : State) : Out :=
  ctxCommand s vf ctx upper [3] fun _ =>
    let s1 := ctxResult s ctx 2 0
    let kids := (s1.kernels.filter fun k => k.ctx = ctx).map (·.kid)
    startConversions (resumeEngines (placeAllSaved s1.blocks.length kids s1) ctx) ctx

/-- BLOCK_PLACE (R130). A saved set that is placed lets its suspended operations go on. -/
def execBlockPlace (kid : Nat) (s : State) : Out :=
  match s.kernel? kid with
  | none => .next s
  | some k => .next (resumeEngines (blockPlace s k) k.ctx)

/-! ## STOP and `stopped` (R90, R97, R436) -/

def execStop (vf ctx : Nat) (upper : BitVec 56) (s : State) : Out :=
  ctxCommand s vf ctx upper [2, 3] fun _ => ctxResult (stopContext s ctx) ctx 4 0

/-- The context's groups, kernels, graphs, tiles and tracker entries go. A saved tile holds no banks (R256): nothing of it is left to
scrub. What its rings have counted goes too (log 126). -/
def releaseContext (s00 : State) (ctx : Nat) : State :=
  let s := flushTrace s00 ctx
  let kids := (s.kernels.filter fun k => k.ctx = ctx).map (·.kid)
  let s0 := discardBeats s (waitersOf s ctx)
  let s1 := (s.tiles.filter fun t => t.ctx = ctx && t.state != .scrubbing).foldl freeTile s0
  let held (t : Tile) : Bool := s.tiles.any fun x => x.id = t.id && x.state == .saved
  let s2 := { s1 with
    tiles := s1.tiles.filter fun t => !(t.ctx = ctx && held t)
    groups := s1.groups.filter fun g => g.ctx != ctx
    kernels := s1.kernels.filter fun k => k.ctx != ctx
    blocks := s1.blocks.filter fun b => b.ctx != ctx
    phases := s1.phases.filter fun n => !kids.contains n.kid
    graphs := s1.graphs.filter fun g => g.ctx != ctx
    marks := s1.marks.filter fun m => !(m.chip = 0 && kids.contains m.kid)
    tracker := s1.tracker.filter fun t => t.ctx != ctx
    rings := s1.rings.filter fun r => r.ctx != ctx
    reports := s1.reports.filter fun r => r.ctx != ctx
    loopBufs := s1.loopBufs.filter fun b => b.ctx != ctx }
  s2.updCtx ctx fun c => { c with graphq := 0, graphItem := none, replay := c.replay.map fun r => { r with left := [] }, dres := if c.dres = 1 then 3 else c.dres }

/-- Held writes of the context that are discarded, by number. -/
def heldOf (s : State) (ctx : Nat) : Nat := (s.vest.filter fun e => e.ctx = ctx && !e.released).length

/-- CONTEXT_STOPPED: once every engine operation is over, the writes are performed, then the dirty report is written, then the
status (R97). -/
def execContextStopped (ctx : Nat) (s : State) : Out :=
  match s.ctx? ctx with
  | none => .next s
  | some c =>
    if c.state ≠ 4 ∨ s.engines.any (fun e => e.ctx = ctx && e.kind != .items) then .next s
    else
      let s1 := leaveAll (((s.cluster.map (·.cluster)).eraseDups).foldl clusterBack (settleCtx s ctx))
      let n := heldOf s1 ctx
      let s2 := releaseContext { s1 with vest := s1.vest.filter fun e => !(e.ctx = ctx && !e.released) } ctx
      let s3 := match c.record with
        | some r => dirtyReport s2 ctx r.dirtyaddr (readNat s2.hostMem (r.dirtyaddr + 8) 4)
        | none => s2
      .next (reportStatus (s3.updCtx ctx fun x => { x with state := 5, result := 0, discard := n }) ctx)

/-- Every operation that holds items alone enters them, or discards those whose queue is no longer open (R121). What still waits for
room stays. -/
def settleItems (s : State) : State :=
  (s.engines.filter (·.kind == .items)).foldl (fun a e =>
    let (left, a1) := enqueueItems e.ctx e.items a
    if left = [] then a1.dropEngine e.id else a1.updEngine e.id fun x => { x with items := left }) s

/-- DESTROY: the context's queues, tensors and translations go, and its number is free again. Items that its operations hold for its
own queues are discarded with their records; items for an open queue of another context of the partition are kept (R121). -/
def execDestroy (vf ctx : Nat) (upper : BitVec 56) (s : State) : Out :=
  ctxCommand s vf ctx upper [5] fun _ =>
    let s1 := settleItems ((s.queues.filter fun q => q.ctx = ctx && q.state != .free).foldl freeQueue s)
    let s2 := ctxResult ((dropTlb s1 ctx 0 0).updCtx ctx fun c => { c with discard := 0 }) ctx 6 0
    { s2 with
      contexts := s2.contexts.filter fun c => c.id != ctx
      tensors := s2.tensors.filter fun t => t.ctx != ctx
      engines := s2.engines.filter fun e => e.ctx != ctx || e.kind == .items
      stragglers := s2.stragglers.filter fun x => x.ctx != ctx }

/-! ## Waiting fault records (R102) -/

/-- FAULT_RECORD_WRITE: the oldest waiting record of a context is written when the ring has room. -/
def execFaultRecordWrite (ctx : Nat) (s : State) : Out :=
  match s.ctx? ctx with
  | none => .next s
  | some c =>
    match c.record, c.fqwait with
    | some q, r :: rest =>
      if (c.fqtail - c.fqhead).toNat < q.fqsize then .next (writeFault (s.updCtx ctx fun x => { x with fqwait := rest }) c q r)
      else .next s
    | _, _ => .next s

end Sys2Proof.Machine
end

