-- ==== Sys2Proof/Machine/Kernels.lean ====
section
/-! DEFINITION. LAUNCH, RENEW and SIGNAL (R145 to R147), and the traps of a reserved word and of a faulty bundle (R62,
R65, R84). -/

namespace Sys2Proof.Machine

/-- FADDR of an illegal form whose entry states it: s[a] for PCONV, PLD, TRD and TWR (R288, R349), s[d] for XSEND (R369). -/
def illegalAddr (c : Iss) : Option DWord :=
  let w := c.word.toNat
  match w / 2 ^ 24 with
  | 0xE9 => some (c.sv (w / 2 ^ 8 % 64))
  | 0xEA => some (c.sv (w / 2 ^ 8 % 64))
  | 0xCC => some (c.sv (w / 2 ^ 8 % 64))
  | 0xCD => some (c.sv (w / 2 ^ 8 % 64))
  | 0xF0 => some (c.sv (w / 2 ^ 14 % 64))
  | _ => none

/-- The record of a STAKE word with a nonzero f or d. -/
def illegalStake (c : Iss) : Option (BitVec 14) := if c.word.toNat / 2 ^ 24 = 0xB1 then some (uiI c.word) else none

/-- ILLEGAL_INSTRUCTION: a reserved opcode or an illegal form traps with cause 0x01 (R84, R85); a fault in the read of a STAKE's record
comes first (R86, R164). -/
def execIllegalInstruction (s : State) : Out :=
  runIssue s fun c =>
    match (illegalStake c).map (c.readStake s) with
    | some (.error x) => .error x
    | _ => trapWith 1 (illegalAddr c)

/-- FAULTY_BUNDLE: cause 0x02 with the bundle's address (R62, R65). -/
def execFaultyBundle (s : State) : Out := runIssue s fun c => trapWith 2 (some (BitVec.ofNat 64 (bundleBase c.pc)))

/-- The launcher's answer to a record at a readable place: the word of R145, and the state with the kernel if accepted. -/
def launchAnswer (s : State) (c : Iss) (va cw : DWord) (bs : List Byte) : DWord × Bool × State :=
  match s.ctx? c.g.ctx with
  | none => (BitVec.ofNat 64 (2 ^ 62), false, s)
  | some x =>
    if launcherFull s then (BitVec.ofNat 64 (2 * 2 ^ 62), false, s)
    else
      match checkLaunch s c.who.core x va bs with
      | .error r => (BitVec.ofNat 64 (2 ^ 62 + r * 2 ^ 16), false, s)
      | .ok l =>
        let (kid, s1) := acceptKernel s c.g.ctx va l cw none 0
        (BitVec.ofNat 64 kid, true, s1)

/-- LAUNCH. The group's earlier accesses come before the launched groups (R145). The record is read wherever its page lies (log 133). -/
def execLaunch (d a b : BitVec 6) (s : State) : Out :=
  runIssue s fun c => do
    c.prep (.launch d a b) true (uniUses [.s a.toNat, .s b.toNat] [.s d.toNat])
    c.room s 3
    let va := c.sv a.toNat
    let cw := c.sv b.toNat
    need (cw.toNat % 8 = 0) 0x0A cw
    let done : List Acc := if cw = 0 then [] else [⟨none, cw⟩]
    checkAll (⟨none, va⟩ :: done) 9 1 fun x => x.ea.toNat < 2 ^ 57
    let (ts, s1) ← translateAll s c 0 [⟨none, va⟩]
    checkPages ts 2 notCarveOut
    let (us, s2) ← translateAll s1 c 1 done
    checkPages us 2 notCarveOut
    let s3 := releaseNow s2 c 2
    let bs := match ts with
      | t :: _ => readLoc s3 t.loc 128
      | [] => []
    let (x, ok, s4) := launchAnswer s3 c va cw bs
    .ok (withGroup { s4 with seq := s4.seq + 1 } c fun g => (if ok then g.blockStake else g).answer c.f.slices 3 s4.seq d.toNat x)

/-- RENEW: R141 on a range, after the group's earlier accesses (R146). A graph that is ending is still live, and one that has ended
halted is none of the context's any more (R139). -/
def execRenew (d a b : BitVec 6) (s : State) : Out :=
  runIssue s fun c => do
    let n := (c.sv b.toNat).toNat
    c.prepOwn (.renew d a b) true (uniUses [.s a.toNat, .s b.toNat] [.s d.toNat]) (need (decide (n < 2 ^ 32)) 1)
    c.room s 3
    match s.graph? c.g.ctx (c.sv a.toNat) with
    | none => trapWith 9
    | some g =>
      let lo := n % 65536
      let count := n / 65536
      need (count ≠ 0 && decide (lo + count ≤ g.nnodes)) 9
      let s1 := releaseNow s c 2
      let (k, s2) := rearmNodes s1 g lo count ((List.range count).map (lo + ·))
      .ok (withGroup { s2 with seq := s2.seq + 1 } c fun x => x.blockStake.answer c.f.slices 3 s2.seq d.toNat (BitVec.ofNat 64 k))

/-- GRAPHID and node index in an entry of a group: those of the node whose run it belongs to, 0xFFFF outside a graph (R142). -/
def ringIds (s : State) (kid : Nat) : Nat :=
  match (s.kernel? kid).bind fun k => k.node.map fun n => (k.ctx, n) with
  | some (ctx, gb, n) => (s.graph? ctx gb).elim (2 ^ 32 - 1) fun g => g.graphid + n * 65536
  | none => 2 ^ 32 - 1

/-- An entry of a group enters the vestibule (R144). -/
def signalEntry (s : State) (c : Iss) (pa : Nat) (payload : DWord) : State :=
  vestPut s c.g.ctx (c.part s) c.g.kid c.g.outgrade (BitVec.ofNat 64 pa) (.ring (BitVec.ofNat 64 pa) payload (ringIds s c.g.kid))

/-- SIGNAL (R147). With .try and no room in the vestibule nothing is accepted. -/
def execSignal (d a b : BitVec 6) (g : BitVec 2) (s : State) : Out :=
  runIssue s fun c => do
    let try_ := g.toNat = 1
    c.prep (.signal d a b g) true (uniUses [.s a.toNat, .s b.toNat] (if try_ then [.s d.toNat] else []))
    if try_ then c.room s 3 else .ok ()
    let va := c.sv a.toNat
    checkAll [⟨none, va⟩] 9 1 fun x => x.ea.toNat < 2 ^ 57
    need (va.toNat % 32 = 0) 0x0A va
    let (ts, s1) ← translateAll s c 0 [⟨none, va⟩]
    match ts with
    | [] => trapWith 9 va
    | t :: _ =>
      need t.isLocal 9 va
      need (notCarveOut t) 9 va 2
      match ringAt s1 t.pa with
      | none => trapWith 9 va
      | some r =>
        let room := c.g.outgrade = 3 || vestRoom s1 (c.part s1) 64
        let answer (s2 : State) (x : DWord) (took : Bool) : State :=
          withGroup { s2 with seq := s2.seq + 1 } c fun y =>
            let y1 := if took then y.blockStake else y
            if try_ then y1.answer c.f.slices 3 s2.seq d.toNat x else y1
        if ringFull s1 t.pa r then
          if try_ then .ok (answer s1 1 false) else .error (.park s1 (.ring (BitVec.ofNat 64 t.pa)))
        else if !room then
          if try_ then .ok (answer s1 1 false) else .error (.park s1 (.vestibule 64))
        else .ok (answer (signalEntry s1 c t.pa (c.sv b.toNat)) 0 true)

end Sys2Proof.Machine
end

