-- ==== Sys2Proof/Machine/Lands.lean ====
section
/-! DEFINITION. The events that end a wait: results that land and stores that are performed (R169, R221, R302, R313), and
fragments that wake (R152, R183, R312) or are promoted (R151). -/

namespace Sys2Proof.Machine

/-! ## Landings (R169) -/

/-- What the operation has read of graded granules, if it still waits to land. -/
def readOf (g : Group) (ctr index : Nat) : Option GradeRead :=
  (g.ops.find? fun o => o.counter = ctr && o.index = index && !o.done && !o.external).bind (·.read)

/-- Lanes of an operation land; a graded load lowers OUTGRADE and enters SEEN with its data (R313, R317). -/
def landNow (s : State) (gid : GroupId) (ctr index : Nat) (lanes : Word) : State :=
  match s.group? gid with
  | none => s
  | some g =>
    let s1 := match readOf g ctr index with
      | some r => gradeLands s gid r
      | none => s
    s1.updGroup gid fun x => x.landOp (s.cycleOf gid.core) ctr index lanes

/-- LOAD_DATA_LANDS: a result counted on LC or UC. -/
def execLoadDataLands (g : GroupId) (counter index : Nat) (lanes : Word) (s : State) : Out :=
  if counter = 1 ∨ counter = 3 then .next (landNow s g counter index lanes) else .next s

/-- VC_RESULT_LANDS: a result counted on VC (R221). -/
def execVcResultLands (g : GroupId) (index : Nat) (lanes : Word) (s : State) : Out := .next (landNow s g 0 index lanes)

/-- STORE_PERFORMED: a store counted on SC is performed, and those that must come before it (R17, R302); an operation with
nothing left to store is complete. -/
def execStorePerformed (g : GroupId) (index : Nat) (s : State) : Out :=
  let s1 := performThose s g.core fun w => w.1 = g && w.2.counter = 2 && w.2.index = index
  .next (s1.updGroup g fun x => x.landOp (s.cycleOf g.core) 2 index 0)

/-- WC_LINE_DRAIN: 64 cycles after a combining line's first byte (R302). -/
def execWcLineDrain (core line : Nat) (s : State) : Out :=
  match (s.wcb.filter fun l => l.core = core)[line]? with
  | some l => if l.since + 64 ≤ s.cycleOf core then .next (drainLine s l) else .next s
  | none => .next s

/-! ## Waking (R152) -/

/-- Every granule of a byte range reaches a grade, as its home slices hold them. -/
def gradesReach (s : State) (ctx lo n floor : Nat) : Bool :=
  (List.range ((lo + n - 1) / 256 + 1 - lo / 256)).all fun k =>
    let va := (lo / 256 + k) * 256
    (walk s ctx va).any fun e => decide (floor ≤ (tagAt s (e.locate va).addr).grade)

/-- The word that a parked BARW or BARA.w waits for has passed. -/
def wordPassed (s : State) (g : Group) (ref : DWord) (gen : Nat) : Bool :=
  match s.tileOf (s.domOf g) (refHandle ref) with
  | some t => genPassed (wordAt s t (refOff ref)).gen gen
  | none => false

/-- The event that a parked fragment waits for has happened; the waits that another event ends are not here. -/
def awaited (s : State) (w : FragId) (g : Group) : ParkKind → Bool
  | .word r gen _ _ => wordPassed s g r gen
  | .passed _ _ _ _ => true
  | .grade lo n floor _ polling => !polling && gradesReach s g.ctx lo n floor
  | .fault _ _ _ _ => !s.waitsFault (· = .frag w) && trackerRoom s
  | .vestibule n => vestRoom s ((s.ctx? g.ctx).elim 0 (·.part)) n
  | .ring d => (ringAt s d.toNat).elim true fun r => !ringFull s d.toNat r
  | .tile owner r lo n => !s.locks.any fun l => l.owner = owner && l.parkReads && l.dest && l.meets w.core r lo n
  | .released => true
  | .copies part tid => !copiesLeft s part tid
  | .counter c n _ => decide (g.level c ≤ n)
  | .drain => !g.storesLeft
  | .change => ((s.link ((s.ctx? g.ctx).elim 0 (·.part))).changes).isEmpty
  | _ => false

/-- A fragment retries its parked instruction from the next cycle on; its age starts at 0 (R152). -/
def Fragment.retry (f : Fragment) (now : Nat) : Fragment := { f with park := none, wokeAt := f.wakes now, readyAt := max f.readyAt (now + 1), readySince := now + 1 }

def retryFrag (s : State) (w : FragId) : State :=
  s.updGroup w.group fun g => g.updFrag w.index fun f => f.retry (s.cycleOf w.core)

/-- A BARA.w has found its generation passed: it acquires at the word's scope (R242). -/
def wakeArrived (s : State) (w : FragId) (g : Group) (r : DWord) (bytes : Bool) : State :=
  let own := (s.tileOf (s.domOf g) (refHandle r)).any fun t => t.bankCore = w.core
  resumeFrag (if own && !bytes then s else dropL1 s w.core) w

/-- A fragment whose instruction is completed for it goes on at the next slot. -/
def wakeFrag (s : State) (w : FragId) (g : Group) : ParkKind → State
  | .word r _ bytes true => wakeArrived s w g r bytes
  | .passed r _ bytes true => wakeArrived s w g r bytes
  | .counter c _ upto => resumeFrag (s.updGroup w.group fun x => x.cover c upto) w
  | .released => resumeFrag s w
  | .tile _ _ _ _ => dropL1 (retryFrag s w) w.core
  | _ => retryFrag s w

/-- The parked fragment that an identifier names, in a context that runs and a block that is not halted: there an event is
latched (R408). -/
def parkedAt (s : State) (w : FragId) : Option (Group × ParkKind) :=
  match s.group? w.group with
  | none => none
  | some g =>
    if ((s.ctx? g.ctx).elim 0 (·.state)) ≠ 2 ∨ (g.state ≠ .running ∧ g.state ≠ .allocated)
        ∨ (s.groupBlock? g).any (fun b => b.debug != .run) then none
    else ((g.frag? w.index).bind (·.park)).map fun k => (g, k)

/-- FRAGMENT_WAKE. -/
def execFragmentWake (who : FragId) (s : State) : Out :=
  match parkedAt s who with
  | some (g, k) => if awaited s who g k then .next (wakeFrag s who g k) else .next s
  | none => .next s

/-- GRADE_POLL_REISSUE: a load that found no waiter entry issues again, 1,024 cycles after it last did (R312). -/
def execGradePollReissue (who : FragId) (s : State) : Out :=
  match parkedAt s who with
  | some (g, .grade _ _ _ _ true) =>
    match g.frag? who.index with
    | some f => if f.readyAt + 1024 ≤ s.cycleOf who.core then .next (retryFrag s who) else .next s
    | none => .next s
  | _ => .next s

/-- A cycle's fusions come after its SPLITs and EXITs (R192). -/
def fuseDue (s : State) : State :=
  (s.groups.filter fun g => g.allFusing && !blockHalted s g).foldl (fun a g => fuseGroup a a g.at_) s

/-- REGANG_FUSE (R183). -/
def execRegangFuse (g : GroupId) (s : State) : Out := .next (if (s.group? g).any (blockHalted s) then s else fuseGroup s s g)

/-- FRAGMENT_PROMOTE: 4,096 cycles ready without issuing (R151). -/
def execFragmentPromote (who : FragId) (s : State) : Out :=
  match s.group? who.group with
  | none => .next s
  | some g =>
    match g.frag? who.index with
    | none => .next s
    | some f =>
      let now := s.cycleOf who.core
      if (unstalled s g).contains f && hasBundle s who g.ctx f && decide (f.readySince + 4096 ≤ now) then
        .next (s.updGroup who.group fun x => x.updFrag who.index fun y => { y with class4 := true })
      else .next s

/-! ## The barrier events (R244, R248) -/

/-- BLOCK_BARRIER_RELEASE: every member has arrived or retired. -/
def execBlockBarrierRelease (kid block : Nat) (s : State) : Out :=
  match s.block? kid block with
  | some b => if allArrived s b b.barb then .next (releaseBarb s b) else .next s
  | none => .next s

/-- The node can release: at L7 K chips have reported, and at system scope window N + 2 has begun. -/
def phaseReady (s : State) (n : PhaseNode) : Bool :=
  n.gathered && (n.level ≠ 7 || decide (n.count ≤ phaseChips s n.part n.key n.phase))
    && (!(n.level = 7 || levelScope (levelByte s n.kid n.level) = 3) || decide (n.lastWindow s + 2 ≤ s.window n.part))

/-- The members of a node are released. -/
def releaseNode (s : State) (n : PhaseNode) : State :=
  let scope := if n.level = 7 then 3 else levelScope (levelByte s n.kid n.level)
  let there := (levelArrived s n.kid n.level n.inst n.part).filter fun b => n.members.contains b.linear
  advancePhases (there.foldl (fun a b => releasePhaseBlock a scope b)
    { s with phases := s.phases.filter fun x => !(x.kid = n.kid && x.level = n.level && x.inst = n.inst) })

/-- PHASE_RELEASE. -/
def execPhaseRelease (kid level inst : Nat) (s : State) : Out :=
  match s.phases.find? fun n => n.kid = kid && n.level = level && n.inst = inst with
  | some n => if phaseReady s n then .next (releaseNode s n) else .next s
  | none => .next s

/-- PHASE_FLIT_ARRIVAL: a peer's report of a key and phase; only chips of a partition that is present count (R247). One that left in window
N arrives before window N + 2 begins (R372). -/
def execPhaseFlitArrival (part key count : Nat) (chip : FlitSource) (s : State) : Out :=
  if (s.part? part).isSome && chip.chip != s.chipid && inWindow s part chip.window then
    .next { s with phaseReports := s.phaseReports ++ [⟨part, key, count, chip.chip, s.window part, []⟩] }
  else .next s

/-- This chip's phase flits leave for the chips that a circuit leads to; they wait out a re-pitch or a closed slot (R248). -/
def phaseFlitsLeave (s : State) : Out :=
  .next { s with phaseReports := s.phaseReports.map fun r =>
    if r.chip = s.chipid then { r with left := (r.left ++ circuitPeers s r.part).eraseDups } else r }

end Sys2Proof.Machine
end

