-- ==== Sys2Proof/Machine/Nodes.lean ====
section
/-! DEFINITION. The firing of graph nodes (R138, R140, R142, R440), and the poll of a ring's HEAD (R142). -/

namespace Sys2Proof.Machine

/-- The firing of a node ends in a fault record of kind 1, and its graph halts (R139). -/
def fireFails (s : State) (g : Graph) (cause group : Nat) (addr : DWord) : State :=
  haltGraph (pushFault s g.ctx ⟨addr, 0, cause, 1, group, 0xFF, 0, 0⟩) g.ctx g.gbase

/-- A node that waits for a fault, for a ring, or to be read again: running, and its own work not over. -/
def NodeInfo.evaluating (x : NodeInfo) : Bool := x.st = 3 && !x.finished && (x.kind = 4 || x.kind = 5)

/-- A COND or SIGNAL node whose evaluation cannot go on has finished, so that its graph can end. -/
def endEval (s : State) (g : Graph) (x : NodeInfo) : State :=
  s.updNode g.ctx g.gbase x.node fun y => if y.evaluating then { y with finished := true, held := false } else y

/-- A firing reads `n` bytes at the node's address: outside the virtual space or in a tag carve-out it fails, at a page that is absent
it waits. -/
def fireRead (s : State) (g : Graph) (x : NodeInfo) (n : Nat) (act : List Byte → State) : State :=
  let va := x.addr.toNat
  if va + n > 2 ^ 57 then fireFails (endEval s g x) g 9 0xFFFF x.addr
  else
    match firstAbsent s g.ctx va n 0 with
    | some a => parkCtl s g.ctx a 0 (.node g.gbase x.node)
    | none =>
      match readVirtual (leaveAll s) ctlCore g.ctx va n with
      | some bs => act bs
      | none => fireFails (endEval s g x) g 9 0xFFFF ((firstCarved s g.ctx va n).getD x.addr)

/-! ## KERNEL -/

/-- A KERNEL node launches its record: it waits for a kernel number, is refused, or starts a run. -/
def fireKernel (s : State) (c : Context) (g : Graph) (x : NodeInfo) : State :=
  if launcherFull s then s
  else
    fireRead s g x 128 fun bs =>
      match checkLaunch s ctlCore c x.addr bs with
      | .error r => fireFails s g 9 (0xFF00 + r) x.addr
      | .ok l =>
        let (kid, s1) := acceptKernel s c.id x.addr l 0 (some (g.gbase, x.node)) x.depth
        setNode s1 c.id g.gbase { x with
          st := 3, kid := some kid, inputs := l.inputs, refire := none, finished := false, held := false, failed := false, seen := [] }

/-! ## COPY and COLL -/

/-- The core whose engine a node uses: one of the partition's, which the manual leaves open (log 3). -/
def nodeCore (s : State) (part : Nat) : Nat :=
  let cores := ((s.part? part).elim [] PartEntry.clusterList).flatMap fun cl => (List.range 4).map (cl * 4 + ·)
  nth cores (Config.freeNat 20 s.freeCtr % max 1 cores.length) 0

/-- A grade that the manual gives no value for a node's engine operation (log 3). -/
def nodeGrade (s : State) (use : Nat) : Nat := 1 + Config.freeNat use s.freeCtr % 3

/-- The number under which a node's engine operation stores: no kernel's. -/
def nodeKid (s : State) : Nat := 2 ^ 20 + s.nextEngine

/-- The engine operation of a node: it belongs to no group, block or tile domain. -/
def nodeEngine (s : State) (c : Context) (g : Graph) (x : NodeInfo) (kind : EngineKind) : Engine :=
  { id := s.nextEngine, core := nodeCore s c.part, ctx := c.id, part := c.part, kid := nodeKid s, dom := 2 ^ 60
    group := none, kind := kind, hulls := [], admitted := false, suspended := false, items := []
    node := some (g.gbase, x.node) }

/-- The node runs. -/
def nodeRuns (s : State) (g : Graph) (x : NodeInfo) : State :=
  setNode s g.ctx g.gbase { x with st := 3, kid := some (nodeKid s), finished := false, held := false, failed := false }

/-- A COPY node hands its list to a copy engine; a list that R262 or R268 refuses fails with its cause at the record. -/
def fireCopy (s : State) (c : Context) (g : Graph) (x : NodeInfo) : State :=
  let n := fieldAt x.record 16 4
  if x.addr.toNat % 32 ≠ 0 then fireFails s g 0x0A 0xFFFF x.addr
  else if n = 0 ∨ n > 65536 then fireFails s g 9 0xFFFF x.addr
  else
    fireRead s g x (32 * n) fun bs =>
      let recs := (List.range n).map fun k => CopyRec.read ((bs.drop (32 * k)).take 32)
      match firstBad s (2 ^ 60) 0 recs with
      | some (cause, k) => fireFails s g cause 0xFFFF (x.addr + BitVec.ofNat 64 (32 * k))
      | none =>
        let e := nodeEngine s c g x (.copy recs 0 0 (nodeGrade s 21) (nodeGrade s 23) [])
        let hs := copyHulls s e.core c.id e.dom recs
        if !hullsFit hs then fireFails s g 9 0xFFFF x.addr
        else (startEngine { (nodeRuns s g x).fresh with nextEngine := s.nextEngine + 1 } { e with hulls := hs } hs).1

/-- A check of R379 that a COLL node's record fails: a node has no source tile, so its output is never in place. -/
def nodeCollFault (s : State) (c : Context) (r : CollRec) (bs : List Byte) (n : Nat) : Option Nat :=
  if r.dst.toNat % 256 ≠ 0 then some 0x0A
  else if !r.okHere s c.id bs n ∨ r.dst = 0 then some 9
  else if r.cap ≠ 0 ∧ (capReason s c.id r.cap (some 0) (some 0) true).isSome then some 0x0E
  else if r.timeout ≠ 0 ∧ !(pageStarts r.dst.toNat (collOut r n)).all (fun a => (walk s c.id a.ea.toNat).any (·.graded)) then some 0x13
  else none

/-- The source of a COLL node, which the manual does not name: free bytes (log 3). -/
def nodeSource (s : State) (n : Nat) : List Byte := (List.range n).map fun i => BitVec.ofNat 8 (Config.freeNat 24 (s.freeCtr * 2 ^ 32 + i))

/-- A COLL node starts its collective; during a topology change it waits (R361). -/
def fireColl (s : State) (c : Context) (g : Graph) (x : NodeInfo) : State :=
  if heldByChange s c.part then s
  else if x.addr.toNat % 64 ≠ 0 then fireFails s g 0x0A 0xFFFF x.addr
  else
    fireRead s g x 64 fun bs =>
      let r := CollRec.read bs
      let n := collSize s c.part r.axes
      match nodeCollFault s c r bs n with
      | some cause => fireFails s g cause 0xFFFF x.addr
      | none =>
        let e := { nodeEngine s c g x .items with hulls := globalHulls s c.id true false r.dst.toNat (r.dst.toNat + collOut r n) }
        (startColl (nodeRuns s g x).fresh e r x.addr 0 0 false (nodeGrade s 25) (nodeSource s r.len)).1

/-! ## COND (R140) -/

/-- The signed test of W against V. -/
def condHolds (test : Nat) (w v : DWord) : Bool :=
  match test with
  | 0 => w = v
  | 1 => w ≠ v
  | 2 => w.slt v
  | _ => !w.slt v

/-- The COND node's own work: re-arming its range when the test holds, ending the graph when it fails. -/
def evalCond (s : State) (g : Graph) (x : NodeInfo) : State :=
  fireRead s g x 8 fun bs =>
    let w := BitVec.ofNat 64 (fieldAt bs 0 8)
    let v := BitVec.ofNat 64 (fieldAt x.record 16 8)
    let lo := fieldAt x.record 26 2
    let n := fieldAt x.record 28 2
    if condHolds (fieldAt x.record 24 1) w v then
      let s1 := s.updNode g.ctx g.gbase x.node fun y =>
        { y with finished := true, owed := 0, held := decide (lo ≤ x.node) && decide (x.node < lo + n) }
      (rearmNodes s1 g lo n ((List.range n).map (lo + ·))).2
    else
      let s1 := s.updNode g.ctx g.gbase x.node fun y => { y with finished := true, held := false }
      s1.updGraph g.ctx g.gbase fun y => { y with state := if y.state = .live then .ending false else y.state }

/-! ## SIGNAL (R142, R144) -/

/-- The node's evaluation cannot succeed: a record, and the graph halts when the node's run has finished. -/
def signalFails (s : State) (g : Graph) (x : NodeInfo) (cause : Nat) : State :=
  fireFails (s.updNode g.ctx g.gbase x.node fun y => { y with finished := true }) g cause 0xFFFF x.addr

/-- The SIGNAL node writes its entry, which is released at once, or stays running while the ring is full. -/
def evalSignal (s : State) (c : Context) (g : Graph) (x : NodeInfo) : State :=
  if x.addr.toNat % 32 ≠ 0 then signalFails s g x 0x0A
  else
    fireRead s g x 32 fun _ =>
      match translate s ctlCore g.ctx x.addr.toNat 0 with
      | none => s
      | some (e, s1) =>
        let pa := (e.locate x.addr.toNat).addr
        match if e.loc = 0 ∧ !e.inCarveOut x.addr.toNat then ringAt s1 pa else none with
        | none => signalFails s1 g x 9
        | some r =>
          if ringFull s1 pa r then s1
          else
            let d := BitVec.ofNat 64 pa
            let payload := BitVec.ofNat 64 (fieldAt x.record 16 8)
            (vestPut s1 g.ctx c.part 1024 3 d (.ring d payload (g.graphid + x.node * 65536))).updNode g.ctx g.gbase x.node
              fun y => { y with finished := true }

/-! ## NODE_FIRE -/

/-- A COND or SIGNAL node evaluates. -/
def evalNode (s : State) (c : Context) (g : Graph) (x : NodeInfo) : State :=
  if x.kind = 4 then evalCond s g x else evalSignal s c g x


/-- A `ready` node of a live graph fires. -/
def fireNode (s : State) (c : Context) (g : Graph) (x : NodeInfo) : State :=
  match x.kind with
  | 1 => fireKernel s c g x
  | 2 => fireCopy s c g x
  | 3 => fireColl s c g x
  | _ =>
    let y := { x with st := 3, finished := false, held := false, failed := false }
    evalNode (setNode s g.ctx g.gbase y) c g y

/-- NODE_FIRE: a firing, or the evaluation of a node that has fired and waits. A node that a failed COND has left ready fires when a
re-fire or RENEW makes its graph live again (log 107). -/
def execNodeFire (ctx : Nat) (gbase : DWord) (n : Nat) (s : State) : Out :=
  match s.ctx? ctx, s.graph? ctx gbase with
  | some c, some g =>
    match g.node? n with
    | none => .next s
    | some x =>
      if c.state ≠ 2 ∨ ctlParked s ctx (.node gbase n) then .next s
      else if x.evaluating then .next (evalNode s c g x)
      else if x.st = 2 ∧ g.state = .live then .next (fireNode s c g x)
      else .next s
  | _, _ => .next s

/-! ## RING_HEAD_POLL -/

/-- The fragments that wait for room in a ring. -/
def ringWaiters (s : State) (ctx : Nat) (desc : DWord) : List FragId :=
  (s.groups.filter fun g => g.ctx = ctx).flatMap fun g =>
    (g.frags.filter fun f => f.park = some (.ring desc)).map fun f => ⟨g.at_.core, g.at_.quarter, g.at_.slot, f.index⟩

/-- A fragment whose wait has ended retries. -/
def wakeAwaited (s : State) (w : FragId) : State :=
  match parkedAt s w with
  | some (g, k) => if awaited s w g k then wakeFrag s w g k else s
  | none => s

/-- Nodes of a context whose SIGNAL waits. -/
def signalNodes (s : State) (ctx : Nat) : List (DWord × NodeInfo) :=
  (s.graphs.filter fun g => g.ctx = ctx).flatMap fun g =>
    (g.nodes.filter fun x => x.kind = 5 && x.evaluating).map fun x => (g.gbase, x)

/-- One waiting SIGNAL node looks at its ring again. -/
def pollNode (ctx : Nat) (s : State) (p : DWord × NodeInfo) : State :=
  match s.ctx? ctx, s.graph? ctx p.1 with
  | some c, some g => if c.state = 2 ∧ !ctlParked s ctx (.node p.1 p.2.node) then evalSignal s c g p.2 else s
  | _, _ => s

/-- RING_HEAD_POLL: HEAD is read again while a writer waits. -/
def execRingHeadPoll (ctx : Nat) (desc : DWord) (s : State) : Out :=
  .next ((signalNodes s ctx).foldl (pollNode ctx) ((ringWaiters s ctx desc).foldl wakeAwaited s))

end Sys2Proof.Machine
end

