-- ==== Sys2Proof/Machine/Debug.lean ====
section
/-! DEFINITION. Stops: the debug commands, the dump, and the registers of a halted group (R405 to R409). -/

namespace Sys2Proof.Machine

/-! ## Commands (R406) -/

def dopAt (c : Context) (k : Nat) : Nat := (nth c.dop k 0).toNat
def setDres (s : State) (ctx res : Nat) : State := s.updCtx ctx fun c => { c with dres := res }

/-- A debug command of a window whose area is not busy: `act` answers its state, or nothing where it is refused. -/
def debugCommand (s : State) (vf ctx : Nat) (act : Context → Option State) : Out :=
  match windowOf s vf ctx with
  | none => .next s
  | some c =>
    if c.dres = 1 then .next s
    else
      match act c with
      | some s1 => .next s1
      | none => .next (setDres s ctx 3)

/-- The resident block of a context that DOP0 and DOP1 name. -/
def debugBlock (s : State) (c : Context) : Option Block :=
  if dopAt c 0 < 65536 then (s.block? (dopAt c 0) (dopAt c 1)).filter fun b => b.ctx = c.id && !b.saved else none

/-- DBGSTOP: a block that runs starts halting, after the slots of this cycle: a trap of the cycle comes first (R408). -/
def execDbgstop (vf ctx : Nat) (s : State) : Out :=
  debugCommand s vf ctx fun c =>
    match debugBlock s c with
    | some b =>
      if b.debug = .run ∧ dopAt c 2 % 32 = 0 ∧ dopAt c 3 = 0 then
        some (setDres (s.updBlock b.kid b.linear fun x => { x with stopAsked := true, dumpAt := BitVec.ofNat 64 (dopAt c 2) }) ctx 1)
      else none
    | none => none

/-- DBGCTL. -/
def execDbgctl (vf ctx : Nat) (s : State) : Out :=
  debugCommand s vf ctx fun c =>
    if dopAt c 0 < 4 ∧ dopAt c 1 = 0 ∧ dopAt c 2 = 0 ∧ dopAt c 3 = 0 then
      some ((setDres s ctx 2).updCtx ctx fun x => { x with brkstop := dopAt c 0 % 2 = 1, trapstop := 2 ≤ dopAt c 0 })
    else none

/-! ## The dump (R409) -/

/-- A fragment at an instruction boundary: its instruction is not one that has issued and waits for its unit. -/
def atBoundary (f : Fragment) : Bool :=
  match f.park with
  | some (.engine _) => false
  | some (.collStart _) => false
  | _ => true

/-- EVENT of a parked fragment. -/
def ParkKind.event : ParkKind → Nat
  | .word _ _ bytes _ => if bytes then 2 else 1
  | .passed _ _ bytes _ => if bytes then 2 else 1
  | .grade _ _ _ _ _ => 3
  | .queue _ _ _ _ _ _ => 4
  | .tile _ _ _ _ => 5
  | .fault _ _ _ _ => 6
  | .vestibule _ => 7
  | .ring _ => 7
  | .blockBarrier => 8
  | .phase _ => 9
  | .coll => 10
  | _ => 0

/-- Bits of WAITON that the manual does not place: where TID and tile stand for event 5 (log 3). -/
def openWait (s : State) (owner : Nat) : DWord := BitVec.ofNat 64 (Config.freeNat 31 (s.freeCtr + owner))

/-- WAITON. -/
def waitOn (s : State) : ParkKind → DWord
  | .word r gen _ _ | .passed r gen _ _ => BitVec.ofNat 64 (refHandle r + refOff r % 65536 * 2 ^ 16 + gen % 2 ^ 32 * 2 ^ 32)
  | .grade lo _ _ _ _ => BitVec.ofNat 64 lo
  | .queue q _ _ _ _ _ => BitVec.ofNat 64 q
  | .tile owner _ _ _ => openWait s owner
  | .fault _ _ addr _ => addr
  | _ => 0

/-- STATE of a fragment: handler mode first, then what it waits for. -/
def fragState (g : Group) (f : Fragment) : Nat :=
  if g.h then 4
  else
    match f.park with
    | some .regang => 2
    | some (.syncl _ _) => 3
    | some k => if k.event = 0 then 0 else 1
    | none => 0

/-- One entry of the dump. -/
def dumpEntry (s : State) (g : Group) (f : Fragment) : List Byte :=
  let k := if fragState g f = 1 then f.park else none
  leBytes g.gid 1 ++ leBytes f.index 1 ++ leBytes f.slices.toNat 1 ++ leBytes (fragState g f + min 15 f.rstack.length * 16) 1
    ++ leBytes f.em.toNat 4 ++ leBytes f.pc.toNat 8 ++ leBytes (k.elim 0 ParkKind.event) 1 ++ List.replicate 7 0
    ++ leBytes (k.elim (0 : DWord) (waitOn s)).toNat 8

/-- The groups of a block that still run, in increasing GROUPID. -/
def dumpGroups (s : State) (b : Block) : List Group :=
  (List.range 32).flatMap fun gid => (s.groupsOf b.kid b.linear).filter fun g => g.gid = gid

/-- A mask of the groups that have arrived. -/
def arrivalMask (l : List Arrival) : Nat := l.foldl (fun m a => m ||| 2 ^ a.gid) 0

/-- The dump: its header, then one entry for each fragment. -/
def dumpBytes (s : State) (b : Block) (why code : Nat) : List Byte :=
  let es := (dumpGroups s b).flatMap fun g => (List.range 8).flatMap fun i => (g.frags.filter fun f => f.index = i).map (dumpEntry s g)
  leBytes (blockWord s b.kid b.linear).toNat 8 ++ leBytes b.kid 2 ++ leBytes (es.length % 256) 1 ++ leBytes why 1 ++ leBytes code 2
    ++ leBytes ((b.phase.head?).elim 0 (·.level)) 2 ++ leBytes (arrivalMask b.barb) 4 ++ leBytes (arrivalMask b.phase) 4
    ++ leBytes (arrivalMask b.coll) 4 ++ leBytes (vfState s (coreField b.core)) 4 ++ es.flatten

/-- BLOCK_HALTED: every fragment stands at a boundary; the dump is written, and a DBGSTOP reports DONE. A dump whose page is
absent or forbids the write is dropped. -/
def execBlockHalted (kid block : Nat) (s : State) : Out :=
  match s.block? kid block with
  | none => .next s
  | some b =>
    match b.debug with
    | .halting why code =>
      if b.saved ∨ !(s.groupsOf kid block).all (fun g => g.frags.all atBoundary) then .next s
      else
        let s1 := (writeVirtual s b.core b.ctx b.dumpAt.toNat (dumpBytes s b why code)).getD s
        let s2 := s1.fresh.updBlock kid block fun x => { x with debug := .halted why code, stopAsked := false }
        .next (if b.stopAsked then s2.updCtx b.ctx fun c => { c with dres := if c.dres = 1 then 2 else c.dres } else s2)
    | _ => .next s

/-! ## DBGREAD -/

/-- An issue of the group's first fragment, for the special registers. -/
def readAs (s : State) (g : Group) : Iss :=
  let f := g.frags.headD (handlerFragment g 0 0)
  ⟨⟨g.at_.core, g.at_.quarter, g.at_.slot, f.index⟩, g, f, s.cycleOf g.at_.core, none, 0, false, false, false, 0⟩

/-- The value of a register of a halted group; none outside its file. -/
def readRegister (s : State) (g : Group) (file n lane : Nat) : Option DWord :=
  match file with
  | 0 => some (((g.vNew n).get lane).setWidth 64)
  | 1 => if n < 64 then some (g.sNew n) else none
  | 2 => if n < 16 then some ((g.mNew n).setWidth 64) else none
  | _ => if n ≤ 0x22 then some (specialValue s (readAs s g) n lane) else none

/-- DOP2 of DBGREAD has no bit outside its fields. -/
def readClean (x : Nat) : Bool := x / 32 % 8 = 0 && x / 2 ^ 10 % 2 ^ 6 = 0 && x / 2 ^ 23 % 2 = 0 && x / 2 ^ 29 = 0

def execDbgread (vf ctx : Nat) (s : State) : Out :=
  debugCommand s vf ctx fun c =>
    let x := dopAt c 2
    match debugBlock s c with
    | none => none
    | some b =>
      match b.debug, (dumpGroups s b).find? fun g => g.gid = x % 32 with
      | .halted _ _, some g =>
        if readClean x && dopAt c 3 = 0 then
          (readRegister s g (x / 256 % 4) (x / 2 ^ 16 % 128) (x / 2 ^ 24 % 32)).map fun v =>
            (setDres s ctx 2).updCtx ctx fun y => { y with dval := v }
        else none
      | _, _ => none

/-! ## DBGRESUME -/

/-- What has counted from `since` has not counted for the `n` cycles of a halt that began at `halt`: what came within it counts from its
end (R408). -/
def afterHalt (halt n since : Nat) : Nat := if since < halt then since + n else max since (halt + n)

/-- Ages and the STAKEMAX count did not advance while the block was halted (R408). -/
def Group.shiftAges (g : Group) (halt n : Nat) : Group :=
  { g with
    preemptAt := g.preemptAt.map (afterHalt halt n)
    frags := g.frags.map fun f => { f with readySince := afterHalt halt n f.readySince } }

def groupFrags (g : Group) : List FragId := g.frags.map (fragOf g)

/-- A latched wake acts, or one whose event has come meanwhile. -/
def wakeLatched (s : State) (w : FragId) : State := wakeAwaited (applyLatch resumeFrag s w) w

/-- The block runs again: events latched while it was halted wake their fragments, of several traps of one group the lowest index
(R99), and a collective whose members have all arrived starts (R408). -/
def resumeBlock (s : State) (b : Block) : State :=
  let n := s.cycleOf b.core - b.haltAt
  let mine (g : Group) : Bool := g.kid = b.kid && g.block = b.linear
  let s1 := { s with groups := s.groups.map fun g => if mine g then g.shiftAges b.haltAt n else g }
  let s2 := resyncTrace (s1.updBlock b.kid b.linear fun x => { x with debug := .run }) b.ctx b.kid b.linear
  settleColl ((byIndex ((s2.groups.filter mine).flatMap groupFrags)).foldl wakeLatched s2) b.kid b.linear

def execDbgresume (vf ctx : Nat) (s : State) : Out :=
  debugCommand s vf ctx fun c =>
    match debugBlock s c with
    | none => none
    | some b =>
      match b.debug with
      | .halted _ _ => if dopAt c 2 = 0 ∧ dopAt c 3 = 0 then some (setDres (resumeBlock s b) ctx 2) else none
      | _ => none

end Sys2Proof.Machine
end

