-- ==== Sys2Proof/Machine/Func.lean ====
section
/-! DEFINITION. The function family FRCP, FRSQ, FEXP2, FLOG2 and FTANH, exact and cheap paths (R47, R48, R222).
The exact path is correctly rounded: reciprocal and root by integer arithmetic, the others by 256-bit intervals that
enclose the exact value. Where both ends round alike, that is the result (log 5 says what holds otherwise). -/

namespace Sys2Proof.Machine

/-- Fraction bits of the fixed-point intervals. -/
def fixP : Nat := 256

/-- The integer part of ln 2 × 2^256: ln 2 lies between this and one more. -/
def ln2Lo : Nat := 0xb17217f7d1cf79abc9e3b39803f2f6af40f343267298b62d8a0d175b8baafa2b

/-- Lower sum of the exponential series at the fixed-point value `y` below 1. -/
def expSeries : Nat → Nat → Nat → Nat → Nat → Nat
  | 0, _, _, _, acc => acc
  | n + 1, k, y, term, acc =>
    let t := term * y / 2 ^ fixP / k
    expSeries n (k + 1) y t (acc + t)

/-- A fixed-point lower bound of e^y; e^y lies less than 1024 units above it. -/
def expLo (y : Nat) : Nat := expSeries 70 1 y (2 ^ fixP) (2 ^ fixP)

/-- Lower sum of t + t³/3 + t⁵/5 + … -/
def atanhSeries : Nat → Nat → Nat → Nat → Nat → Nat
  | 0, _, _, _, acc => acc
  | n + 1, k, t2, p, acc =>
    let p' := p * t2 / 2 ^ fixP
    atanhSeries n (k + 2) t2 p' (acc + p' / k)

def atanhLo (t : Nat) : Nat := atanhSeries 64 3 (t * t / 2 ^ fixP) t t

/-- The rounding of a value that lies between two fixed-point magnitudes at scale 2^e. -/
def roundBetween (fn : Nat) (mode : Rnd) (x : Word) (neg : Bool) (lo hi : Nat) (e : Int) : Word :=
  let a := roundPack fmt32 mode neg lo e true
  let b := roundPack fmt32 mode neg hi e true
  if a = b then BitVec.ofNat 32 a else Config.undecided fn lo x

/-- 2^x for x = ±m × 2^e, finite and nonzero. -/
def exp2Fin (mode : Rnd) (x : Word) (neg : Bool) (m : Nat) (e : Int) : Word :=
  let out (m' : Nat) (e' : Int) (st : Bool) : Word := BitVec.ofNat 32 (roundPack fmt32 mode false m' e' st)
  if e + m.log2 ≥ 10 then out 1 (if neg then -2000 else 2000) false
  else if e + m.log2 < -40 then
    (if neg then out (2 ^ 40 - 1) (-40) true else out (2 ^ 40) (-40) true)
  else
    let num := m * 2 ^ e.toNat
    let den := 2 ^ (-e).toNat
    let whole : Int := if neg then -((num + den - 1) / den : Nat) else (num / den : Nat)
    let frac : Nat := if neg then ((num + den - 1) / den) * den - num else num % den
    if frac = 0 then out 1 whole false
    else
      let y := frac * ln2Lo / den
      let lo := expLo y
      roundBetween 2 mode x false lo (lo + 4096) (whole - fixP)

/-- log2 x for x = m × 2^e > 0. -/
def log2Fin (mode : Rnd) (x : Word) (m : Nat) (e : Int) : Word :=
  let len := m.log2
  if m = 2 ^ len then BitVec.ofNat 32 (intToFloat fmt32 mode (e + len))
  else
    -- y = num / den lies in [3/4, 3/2)
    let big : Bool := 2 * m ≥ 3 * 2 ^ len
    let den := if big then 2 ^ (len + 1) else 2 ^ len
    let k : Int := e + len + (if big then 1 else 0)
    let up : Bool := m > den
    let diff := if up then m - den else den - m
    let t := diff * 2 ^ fixP / (m + den)
    let lnLo := 2 * atanhLo t
    let lnHi := lnLo + 1024
    let lo := lnLo * 2 ^ fixP / (ln2Lo + 1)
    let hi := lnHi * 2 ^ fixP / ln2Lo + 1
    let a : Int := k * 2 ^ fixP + (if up then (lo : Int) else -(hi : Int))
    let b : Int := k * 2 ^ fixP + (if up then (hi : Int) else -(lo : Int))
    let neg : Bool := b ≤ 0
    roundBetween 3 mode x neg (min a.natAbs b.natAbs) (max a.natAbs b.natAbs) (-fixP)

/-- tanh x for x = ±m × 2^e, finite and nonzero. -/
def tanhFin (mode : Rnd) (x : Word) (neg : Bool) (m : Nat) (e : Int) : Word :=
  let mag := e + m.log2
  if mag < -13 then BitVec.ofNat 32 (roundPack fmt32 mode neg (m * 2 ^ 40 - 1) (e - 40) true)
  else if mag ≥ 4 then BitVec.ofNat 32 (roundPack fmt32 mode neg (2 ^ 40 - 1) (-40) true)
  else
    let one := 2 ^ fixP
    let y := m * 2 ^ (e + 1 + fixP).toNat
    let n := y / (ln2Lo + 1)
    let rLo := y - n * (ln2Lo + 1)
    let rHi := y - n * ln2Lo
    let eLo := expLo rLo * 2 ^ n
    let eHi := (expLo rHi + 1024) * 2 ^ n
    let lo := (eLo - one) * one / (eLo + one)
    let hi := (eHi - one) * one / (eHi + one) + 1
    roundBetween 4 mode x neg lo hi (-fixP)

/-- 1 / √x for x = m × 2^e > 0. -/
def rsqrtFin (mode : Rnd) (m : Nat) (e : Int) : Word :=
  let (m1, e1) := if e % 2 = 0 then (m, e) else (2 * m, e - 1)
  let r := isqrt (2 ^ 120 / m1)
  BitVec.ofNat 32 (roundPack fmt32 mode false r (-(e1 / 2) - 60) (decide (r * r * m1 ≠ 2 ^ 120)))

/-- The exact path (R222): 0 FRCP, 1 FRSQ, 2 FEXP2, 3 FLOG2, 4 FTANH. -/
def funcExact (fn : Nat) (mode : Rnd) (x : Word) : Word :=
  match fmt32.unpack x.toNat with
  | .nan neg _ p => BitVec.ofNat 32 (fmt32.nanBits neg p)
  | .inf neg =>
    match fn with
    | 0 => if neg then 0x80000000 else 0
    | 1 => if neg then 0x7FC00007 else 0
    | 2 => if neg then 0 else 0x7F800000
    | 3 => if neg then 0x7FC00007 else 0x7F800000
    | _ => if neg then 0xBF800000 else 0x3F800000
  | .fin neg m e =>
    if m = 0 then
      match fn with
      | 0 => if neg then 0xFF800000 else 0x7F800000
      | 1 => if neg then 0xFF800000 else 0x7F800000
      | 2 => 0x3F800000
      | 3 => 0xFF800000
      | _ => x
    else
      match fn with
      | 0 => BitVec.ofNat 32 (divMag fmt32 mode neg 1 0 m e)
      | 1 => if neg then 0x7FC00007 else rsqrtFin mode m e
      | 2 => exp2Fin mode x neg m e
      | 3 => if neg then 0x7FC00007 else log2Fin mode x m e
      | _ => tanhFin mode x neg m e

/-- A finite binary32 value times 2^149, as an integer. -/
def scaled149 (x : Word) : Option Int :=
  match fmt32.unpack x.toNat with
  | .fin neg m e => some (if neg then -(m * 2 ^ (e + 149).toNat : Nat) else (m * 2 ^ (e + 149).toNat : Nat))
  | _ => none

/-- Whether `c` meets the cheap-path bound of R48 for input `x`: same sign as the exact result and at most two units
of the BF16 last place away from it. The exact result lies between its two directed roundings. -/
def cheapMeets (fn : Nat) (x c : Word) : Bool :=
  match scaled149 c, scaled149 (funcExact fn .rdn x), scaled149 (funcExact fn .rup x),
      fmt32.unpack (funcExact fn .rtz x).toNat with
  | some vc, some vd, some vu, .fin neg m e =>
    let ulp : Int := if m < 2 ^ 23 then 2 ^ (149 - 133) else 2 ^ (e + 23 - 7 + 149).toNat
    decide (vc - vd ≤ 2 * ulp) && decide (vu - vc ≤ 2 * ulp) && (c.msb == neg)
  | _, _, _, _ => false

/-- One lane of the family under `.a` (R48): the cheap path strictly below the threshold, else the exact path; for ±0 and ±∞, and for
FLOG2 of 1.0, both give the same result, and a NaN takes the exact path. A cheap result that overflows is the infinity of
RNE (log 4). -/
def funcLane (fn : Nat) (cheap : Bool) (mode : Rnd) (thr : Word) (x : Word) : Word :=
  let mag := (x.setWidth 31).toNat
  if cheap && decide (mag < (thr.setWidth 31).toNat) && mag ≠ 0 && decide (mag < 0x7F800000)
      && !(fn = 3 && x = 0x3F800000) then
    let c := Config.cheap fn x
    if cheapMeets fn x c then c else funcExact fn .rne x
  else funcExact fn mode x

end Sys2Proof.Machine
end

