-- ==== Sys2Proof/Machine/LaneFloat.lean ====
section
/-! DEFINITION. Lane floating-point and conversion instructions (R217 to R233). -/

namespace Sys2Proof.Machine

/-! ## Binary32 arithmetic (R218 to R220) -/

/-- A binary32 operation on lane words. -/
def word2 (op : Nat → Nat → Nat) (x y : Word) : Word := BitVec.ofNat 32 (op x.toNat y.toNat)

def execFadd (f : BitVec 3) (d a b : BitVec 7) (s : State) : Out :=
  lane2 (.fadd f d a b) s 4 d a b (word2 (fadd fmt32 (Rnd.of f.toNat)))
def execFsub (f : BitVec 3) (d a b : BitVec 7) (s : State) : Out :=
  lane2 (.fsub f d a b) s 4 d a b (word2 (fsub fmt32 (Rnd.of f.toNat)))
def execFmul (f : BitVec 3) (d a b : BitVec 7) (s : State) : Out :=
  lane2 (.fmul f d a b) s 4 d a b (word2 (fmul fmt32 (Rnd.of f.toNat)))
def execFfma (f : BitVec 3) (d a b : BitVec 7) (s : State) : Out :=
  lane3 (.ffma f d a b) s 4 d a b fun x y z =>
    BitVec.ofNat 32 (ffma fmt32 (Rnd.of f.toNat) x.toNat y.toNat z.toNat)
def execFmin (d a b : BitVec 7) (s : State) : Out := lane2 (.fmin d a b) s 4 d a b (fminmax false)
def execFmax (d a b : BitVec 7) (s : State) : Out := lane2 (.fmax d a b) s 4 d a b (fminmax true)
def execFsgn (f : BitVec 3) (d a b : BitVec 7) (s : State) : Out := lane2 (.fsgn f d a b) s 4 d a b (fsgn f.toNat)
def execFcmp (f : BitVec 3) (d a b : BitVec 7) (s : State) : Out := laneCmp (.fcmp f d a b) s 4 d a b (fcmp f.toNat)
def execFclass (d a b : BitVec 7) (s : State) : Out :=
  laneCmp (.fclass d a b) s 4 d a b fun x y => bitOf y (fclass x)

/-! ## The function family (R222, R48) -/

/-- One instruction of the family: f[2] is .a, and FNTHR the threshold. -/
def laneFunc (i : Instr) (s : State) (fn : Nat) (f : BitVec 3) (d a : BitVec 7) : Out :=
  laneIssue i s (fun c => c.laneUses [.a a] [.d d]) fun c g =>
    g.writeV c 8 d.toNat 0 c.em fun k => funcLane fn (f.toNat ≥ 4) (Rnd.of f.toNat) c.g.fnthr (c.v a.toNat k)

def execFrcp (f : BitVec 3) (d a : BitVec 7) (s : State) : Out := laneFunc (.frcp f d a) s 0 f d a
def execFrsq (f : BitVec 3) (d a : BitVec 7) (s : State) : Out := laneFunc (.frsq f d a) s 1 f d a
def execFexp2 (f : BitVec 3) (d a : BitVec 7) (s : State) : Out := laneFunc (.fexp2 f d a) s 2 f d a
def execFlog2 (f : BitVec 3) (d a : BitVec 7) (s : State) : Out := laneFunc (.flog2 f d a) s 3 f d a
def execFtanh (f : BitVec 3) (d a : BitVec 7) (s : State) : Out := laneFunc (.ftanh f d a) s 4 f d a

/-! ## Division and root (R221): variable latency, counted on VC -/

/-- A variable-latency lane instruction: its destination is allocated and each lane's result lands later (R69, R169). -/
def laneVar (i : Instr) (s : State) (d : BitVec 7) (u : Iss → Uses) (f : Iss → Nat → Word) : Out :=
  runIssue s fun c => do
    c.prep i false (u c)
    c.room s 0
    let g := (c.g.lastReads c (u c)).openV c 0 d.toNat 0 c.em
    .ok (finish { s with seq := s.seq + 1 } c
      (g.addOp { OutOp.mk' 0 s.seq with lands := c.landings d.toNat 0 c.em (f c) }))

def execFdiv (f : BitVec 3) (d a b : BitVec 7) (s : State) : Out :=
  laneVar (.fdiv f d a b) s d (fun c => c.laneUses (.a a :: c.bOp (.b b)) [.d d]) fun c k =>
    word2 (fdiv fmt32 (Rnd.of f.toNat)) (c.v a.toNat k) (c.bv b.toNat k)
def execFsqrt (f : BitVec 3) (d a : BitVec 7) (s : State) : Out :=
  laneVar (.fsqrt f d a) s d (fun c => c.laneUses [.a a] [.d d]) fun c k =>
    BitVec.ofNat 32 (fsqrt fmt32 (Rnd.of f.toNat) (c.v a.toNat k).toNat)

/-! ## Packed 16-bit arithmetic (R223) -/

def execHadd2 (f : BitVec 3) (d a b : BitVec 7) (s : State) : Out :=
  lane2 (.hadd2 f d a b) s 4 d a b fun x y => packedOp 0 (f.toNat ≥ 4) (Rnd.of f.toNat) x y 0
def execHmul2 (f : BitVec 3) (d a b : BitVec 7) (s : State) : Out :=
  lane2 (.hmul2 f d a b) s 4 d a b fun x y => packedOp 1 (f.toNat ≥ 4) (Rnd.of f.toNat) x y 0
def execHfma2 (f : BitVec 3) (d a b : BitVec 7) (s : State) : Out :=
  lane3 (.hfma2 f d a b) s 4 d a b (packedOp 2 (f.toNat ≥ 4) (Rnd.of f.toNat))

/-! ## Conversions (R224 to R228) -/

/-- A conversion with a selector; a half target keeps, and so reads, the other half of d. -/
def laneConv (i : Instr) (s : State) (d a : BitVec 7) (half : Bool) (f : Word → Word → Word) : Out :=
  laneIssue i s (fun c => c.laneUses (.a a :: if half then [.d d] else []) [.d d]) fun c g =>
    g.writeV c 4 d.toNat 0 c.em fun k => f (c.v a.toNat k) (c.v d.toNat k)

def execCvtf (f : BitVec 3) (d a b : BitVec 7) (s : State) : Out :=
  laneConv (.cvtf f d a b) s d a (b.toNat % 8 ≠ 0) (cvtf (f.toNat ≥ 4) (Rnd.of f.toNat) (b.toNat / 8) (b.toNat % 8))
def execCvtfi (f : BitVec 3) (d a b : BitVec 7) (s : State) : Out :=
  lane1 (.cvtfi f d a b) s 4 d a (cvtfi (Rnd.of f.toNat) (b.toNat / 8) (b.toNat % 8))
def execCvtif (f : BitVec 3) (d a b : BitVec 7) (s : State) : Out :=
  laneConv (.cvtif f d a b) s d a (b.toNat % 8 ≠ 0) (cvtif (Rnd.of f.toNat) (b.toNat / 8) (b.toNat % 8))
def execFrnd (f : BitVec 3) (d a : BitVec 7) (s : State) : Out := lane1 (.frnd f d a) s 4 d a (frnd (Rnd.of f.toNat))
def execFscl (f : BitVec 3) (d a b : BitVec 7) (s : State) : Out :=
  lane2 (.fscl f d a b) s 4 d a b (fscl (Rnd.of f.toNat))

/-! ## Narrow packing (R229 to R232) -/

/-- The lanes of lane `k`'s lane block (R229). -/
def laneBlock (fw : FormatWord) (k : Nat) : Nat × Nat :=
  let n := if fw.ef.bits = 4 then fw.blockLen / 8 else fw.blockLen / 4
  (k / n * n, n)

/-- The values of quad a in the lane block of lane `k` that are in em or outside the fragment (R230). -/
def blockValues (c : Iss) (fw : FormatWord) (a k : Nat) : List Word :=
  let (lo, n) := laneBlock fw k
  ((List.range n).filter fun j => bitOf c.em (lo + j) || !bitOf c.lanes (lo + j)).flatMap fun j =>
    (List.range 4).map fun q => c.g.vAt c.now (a + q) (lo + j)

/-- The lanes of the lane blocks that hold a lane of em. -/
def blockLanes (c : Iss) (fw : FormatWord) : Word :=
  maskOf fun j => (List.range 32).any fun k => bitOf c.em k && decide ((laneBlock fw k).1 = (laneBlock fw j).1)

/-- Scale bits of a word (R231). -/
def scaleBits (sk : ScaleKind) (x : Word) : Nat := if sk = .se8 then x.toNat % 256 else x.toNat % 65536

/-- PACKN's word for one lane (R231). -/
def packWord (fw : FormatWord) (mode : Rnd) (scale : Word) (x : Nat → Word) : Word :=
  let q (k : Nat) : Nat := packElement fw.ef fw.sk mode (scaleBits fw.sk scale) (x k)
  if fw.ef.bits = 8 then BitVec.ofNat 32 (q 0 + q 1 * 2 ^ 8 + q 2 * 2 ^ 16 + q 3 * 2 ^ 24)
  else BitVec.ofNat 32 (q 0 + q 1 * 2 ^ 4 + q 2 * 2 ^ 8 + q 3 * 2 ^ 12)

/-- The names that a destination operand stands for, whatever em holds (R159). -/
def Iss.destOf (c : Iss) (o : VOp) : List Nat := (c.destNames o.reg).flatMap fun n => (List.range o.width).map (n + ·)

/-- PACKN or UNPKN with em = 0: it reads no format word, and so writes nothing (R216). -/
def narrowIdle (s : State) (c : Iss) (i : Instr) (u : Uses) : Act := do
  c.prep i false u
  .ok (finish s c ((c.g.lastReads c u).blockV (u.vw.flatMap c.destOf)))

def execPackn (f : BitVec 3) (d a b : BitVec 7) (s : State) : Out :=
  runIssue s fun c => do
    need ((Instr.packn f d a b).wellFormed && !c.lit.isSome && !(decide (4 ≤ f.toNat) && c.melded)) 1
    if c.em = 0 then narrowIdle s c (.packn f d a b) (c.laneUses [⟨a.toNat, 4, 0⟩] [.d d])
    else match formatWord (c.sv b.toNat) with
    | none => trapWith 1
    | some fw =>
      need (packable fw.ef) 1
      if f.toNat ≥ 4 then
        need (fw.sk ≠ .none) 1
        let u := { c.laneUses [⟨a.toNat, 4, 0⟩] [.d d] [.s b.toNat] with rl := c.em ||| (blockLanes c fw &&& ~~~c.lanes) }
        c.prep (.packn f d a b) false u
        .ok (finish s c ((c.g.lastReads c u).writeV c 4 d.toNat 0 c.em fun k =>
          chooseScale fw.ef fw.sk (blockValues c fw a.toNat k)))
      else
        let u := c.laneUses (⟨a.toNat, 4, 0⟩ :: if fw.sk = .none then [] else [.d d]) [.d d] [.s b.toNat]
        c.prep (.packn f d a b) false u
        .ok (finish s c ((c.g.lastReads c u).writeV c 4 d.toNat 0 c.em fun k =>
          packWord fw (Rnd.of f.toNat) (c.v d.toNat k) fun q => c.v a.toNat k q))

/-- The formats UNPKN accepts, with the number of registers it writes (R232). -/
def unpackWidth : ElemFmt → Option Nat
  | .bf16 | .fp16 => some 2
  | .int8 | .uint8 | .int4 | .ds8 | .ds4 => some 4
  | .fp32 => none

/-- Element `q` of a packed word, from half `h` of a 4-bit row. -/
def packedElement (fw : FormatWord) (h q : Nat) (x : Word) : Nat :=
  x.toNat / 2 ^ (fw.ef.bits * (if fw.ef.bits = 4 then 4 * h + q else q)) % 2 ^ fw.ef.bits

/-- UNPKN. With em = 0 it reads no format word: d is the pair that every format has at least, and a mark on a releases a alone
(log 114). -/
def execUnpkn (f : BitVec 3) (d a b : BitVec 7) (s : State) : Out :=
  runIssue s fun c => do
    need ((Instr.unpkn f d a b).wellFormed && !c.lit.isSome) 1
    if c.em = 0 then narrowIdle s c (.unpkn f d a b) (c.laneUses [⟨a.toNat, 1, 0⟩] [⟨d.toNat, 2, 2⟩])
    else match formatWord (c.sv b.toNat) with
    | none => trapWith 1
    | some fw =>
      match unpackWidth fw.ef with
      | none => trapWith 1
      | some w =>
        need (f.toNat < 4 || fw.ef.bits = 4) 1
        let u := c.laneUses [⟨a.toNat, if fw.sk = .none then 1 else 2, 0⟩] [⟨d.toNat, w, 2⟩] [.s b.toNat]
        c.prep (.unpkn f d a b) false u
        .ok (finish s c ((List.range w).foldl (fun g q => g.writeV c 4 d.toNat q c.em fun k =>
          unpackElement fw.ef fw.sk (Rnd.of f.toNat) (scaleBits fw.sk (c.v a.toNat k 1))
            (packedElement fw (f.toNat / 4) q (c.v a.toNat k))) (c.g.lastReads c u)))

end Sys2Proof.Machine
end

