-- ==== Sys2Proof/Machine/LaneMem.lean ====
section
/-! DEFINITION. Lane and scalar memory instructions on global memory, and FENCE (R305 to R310). -/

namespace Sys2Proof.Machine

/-- The accesses of an LM instruction (R305): EA is s[sb] plus lane i of v[a], zero-extended, modulo 2^64. -/
def Iss.laneAccs (c : Iss) (sb a : BitVec 6) : List Acc :=
  c.emLanes.map fun i => ⟨some i, c.sv sb.toNat + (c.v a.toNat i).setWidth 64⟩

/-- Uses of an LM instruction: the offset register, and d read or written in `rd` or `wr` registers. -/
def Iss.memUses (c : Iss) (sb a : BitVec 6) (d : BitVec 7) (rd wr : Nat) : Uses :=
  c.laneUses (⟨a.toNat, 1, 0⟩ :: if rd = 0 then [] else [⟨d.toNat, rd, 2⟩])
    (if wr = 0 then [] else [⟨d.toNat, wr, 2⟩]) [.s sb.toNat]

/-- Opens a destination of `w` registers on a counter. -/
def Group.openDest (g : Group) (c : Iss) (ctr d w : Nat) (m : Word) : Group :=
  (List.range w).foldl (fun g k => g.openV c ctr d k m) g

/-- Lane landings of values of `w` registers. -/
def Iss.wordLandings (c : Iss) (d w : Nat) (vs : List (Acc × BitVec 64)) : List Landing :=
  vs.flatMap fun p => (List.range w).map fun k =>
    .lane (c.rename d (p.1.lane.getD 0) + k) (p.1.lane.getD 0) (p.2.extractLsb' (32 * k) 32)

/-- The registers a size needs. -/
def sizeRegs (size : Nat) : Nat := if size = 8 then 2 else 1

/-- The register or pair that a store takes its bytes from, in a lane. -/
def Iss.v64w (c : Iss) (d i size : Nat) : DWord := if size = 8 then c.v64 d i else (c.v d i).setWidth 64

/-- Bytes of a lane register, or of a pair, as a store takes them. -/
def Iss.storeData (c : Iss) (d : BitVec 7) (size : Nat) (a : Acc) : List Byte :=
  leBytes (c.v64w d.toNat (a.lane.getD 0) size).toNat size

/-- What an instruction on no lane does to its group besides, also when the fence that it acts as holds it (R159, R307). -/
def andGroup (c : Iss) (h : Group → Group) : Act → Act
  | .ok s => .ok (s.updGroup c.who.group h)
  | .error (.park s k) => .error (.park (s.updGroup c.who.group h) k)
  | e => e

/-- A load or atomic on no lane blocks a rewind as its destination names do, at issue and whatever em holds (R159). -/
def blockDest (c : Iss) (d w : Nat) : Act → Act :=
  andGroup c fun g => g.blockV (((List.range w).flatMap fun k => (c.destNames d).map (· + k)))

/-- An atomic on no lane is a rewind blocker too (R159). -/
def blockAfter (c : Iss) : Act → Act := andGroup c Group.blockStake

/-- With em = 0 and ordering bits, an LM instruction acts as a FENCE at a scope (R307). -/
def emptyAct (s : State) (c : Iss) (u : Uses) (o scope : Nat) (ctr : Option Nat) : Act :=
  if o ≠ 0 then fenceAct s c scope
  else
    .ok (withGroup { s with seq := s.seq + 1 } c fun g =>
      match ctr with
      | some k => (g.lastReads c u).addOp (OutOp.mk' k s.seq)
      | none => g.lastReads c u)

/-! ## Loads -/

/-- LD and LDF. -/
def laneLoad (i : Instr) (s : State) (size : Nat) (signed : Bool) (floor : Iss → Nat) (d : BitVec 7) (sb a : BitVec 6)
    (o : Nat) : Out :=
  runIssue s fun c => do
    let w := sizeRegs size
    let u := c.memUses sb a d 0 w
    c.prep i false u
    c.room s 1
    (if c.em = 0 then blockDest c d.toNat w (emptyAct s c u o 2 (some 1))
     else loadAct s c (c.laneAccs sb a) size o 1 (floor c)
      (fun g => (g.lastReads c u).openDest c 1 d.toNat w c.em)
      fun vs => c.wordLandings d.toNat w (vs.map fun p => (p.1, (extendTo (32 * w) size signed p.2).setWidth 64)))

def execLd (f : BitVec 3) (d : BitVec 7) (sb a : BitVec 6) (o : BitVec 2) (s : State) : Out :=
  laneLoad (.ld f d sb a o) s (ldForm f.toNat).1 (ldForm f.toNat).2 (fun c => c.loadFloor c.g.floor) d sb a o.toNat

/-- LDF: the stated floor in place of FLOOR. -/
def execLdf (f : BitVec 3) (d : BitVec 7) (sb a : BitVec 6) (o : BitVec 2) (s : State) : Out :=
  laneLoad (.ldf f d sb a o) s (if f.toNat ≥ 4 then 8 else 4) false (fun _ => f.toNat % 4) d sb a o.toNat

/-! ## Stores and reductions -/

/-- Bytes that ST's f stores. -/
def stSize (f : Nat) : Nat :=
  match f with
  | 0 => 1
  | 2 => 2
  | 4 => 4
  | _ => 8

def execSt (f : BitVec 3) (d : BitVec 7) (sb a : BitVec 6) (o : BitVec 2) (s : State) : Out :=
  runIssue s fun c => do
    let size := stSize f.toNat
    let u := c.memUses sb a d (sizeRegs size) 0
    c.prep (.st f d sb a o) false u
    c.room s 2
    (if c.em = 0 then emptyAct s c u o.toNat 2 (some 2)
     else storeAct s c (c.laneAccs sb a) size o.toNat (c.storeData d size) fun g => g.lastReads c u)

/-- RED: a reduction at the home slice without a return (R305); on V and O pages it is performed at issue, and on an O page
it acquires and releases as every access does (R302). -/
def execRed (f : BitVec 3) (d : BitVec 7) (sb a : BitVec 6) (o : BitVec 2) (s : State) : Out :=
  runIssue s fun c => do
    let u := c.memUses sb a d 1 0
    c.prep (.red f d sb a o) false u
    c.room s 2
    if c.em = 0 then
      blockAfter c (emptyAct s c u o.toNat 2 (some 2))
    else
      let as := c.laneAccs sb a
      let (ts, s1) ← accessChecks s c as 4 true
      checkPages ts 0 (atomicAllowed 2)
      checkPages ts 2 notCarveOut
      let s2 := dirtyAll s1 ts
      let now := ts.any fun t => decide (t.ent.mt ≥ 2)
      let rel := ordRel (typeOrd ts o.toNat)
      let s3 := if rel then (if now then releaseNow s2 c 2 else releaseCore s2 c.who.core 2) else s2
      let s4 := ts.foldl (fun a t => drainCore a c.who.core fun l => l.loc = t.loc.line) s3
      let ops : List StoreOp := ts.map fun t => .reduce t.loc f.toNat (c.v d.toNat (t.acc.lane.getD 0))
      let s5 := if now then
          ops.foldl (performStoreOp c.who.core) (ts.foldl (fun a t => flushHome a c.who.core t.loc) s4)
        else s4
      let s6 := if ordAcq (typeOrd ts o.toNat) then dropL1 s5 c.who.core else s5
      let s7 := withGroup { s6 with seq := s6.seq + 1 } c fun g =>
        (g.lastReads c u).blockStake.addOp
          { OutOp.mk' 2 s6.seq with stores := if now then [] else ops, release := rel }
      .ok (if ordAcq (typeOrd ts o.toNat) then acquireStore s7 c s6.seq [] else s7)

/-! ## Atomics with a result -/

/-- ATOM, XCHG and CAS: the value operand of each lane and what it makes of the old value. -/
def laneAtomic (i : Instr) (s : State) (scope size rd wr : Nat) (d : BitVec 7) (sb a : BitVec 6) (o : Nat)
    (f : Iss → Nat → Nat → Option Nat) : Out :=
  runIssue s fun c => do
    let u := c.memUses sb a d rd wr
    c.prep i false u
    c.room s 1
    (if c.em = 0 then blockAfter c (emptyAct s c u o scope (some 1))
     else atomicAct s c (c.laneAccs sb a) scope size o (fun x => f c (x.lane.getD 0))
      (fun g => (g.lastReads c u).openDest c 1 d.toNat wr c.em)
      fun vs => c.wordLandings d.toNat wr (vs.map fun p => (p.1, BitVec.ofNat 64 p.2)))

/-- The new word of ATOM. -/
def atomNew (c : Iss) (f : BitVec 3) (d : BitVec 7) (i old : Nat) : Option Nat :=
  some (atomOp f.toNat (BitVec.ofNat 32 old) (c.v d.toNat i)).toNat

def execAtomC (f : BitVec 3) (d : BitVec 7) (sb a : BitVec 6) (o : BitVec 2) (s : State) : Out :=
  laneAtomic (.atomC f d sb a o) s 1 4 1 1 d sb a o.toNat fun c i old => atomNew c f d i old
def execAtomD (f : BitVec 3) (d : BitVec 7) (sb a : BitVec 6) (o : BitVec 2) (s : State) : Out :=
  laneAtomic (.atomD f d sb a o) s 2 4 1 1 d sb a o.toNat fun c i old => atomNew c f d i old
def execAtomS (f : BitVec 3) (d : BitVec 7) (sb a : BitVec 6) (o : BitVec 2) (s : State) : Out :=
  laneAtomic (.atomS f d sb a o) s 3 4 1 1 d sb a o.toNat fun c i old => atomNew c f d i old

/-- XCHG: f[1:0] the scope, f[2] .b64. -/
def execXchg (f : BitVec 3) (d : BitVec 7) (sb a : BitVec 6) (o : BitVec 2) (s : State) : Out :=
  let w := if f.toNat ≥ 4 then 2 else 1
  laneAtomic (.xchg f d sb a o) s (f.toNat % 4) (4 * w) w w d sb a o.toNat fun c i _ =>
    some (if w = 2 then (c.v64 d.toNat i).toNat else (c.v d.toNat i).toNat)

/-- CAS: the pair or quad d holds the compare value and then the new one; the old value goes to its first half. -/
def execCas (f : BitVec 3) (d : BitVec 7) (sb a : BitVec 6) (o : BitVec 2) (s : State) : Out :=
  let w := if f.toNat ≥ 4 then 2 else 1
  laneAtomic (.cas f d sb a o) s (f.toNat % 4) (4 * w) (2 * w) w d sb a o.toNat fun c i old =>
    if w = 2 then
      (if old = (c.v64 d.toNat i).toNat then some (c.v d.toNat i 3 ++ c.v d.toNat i 2).toNat else none)
    else (if old = (c.v d.toNat i).toNat then some (c.v d.toNat i 1).toNat else none)

/-! ## PREF (R305, R306) -/

/-- PREF drops the lanes that miss; .l1 brings the line of an N page into the L1. -/
def prefLine (c : Iss) (l1 : Bool) (s : State) (a : Acc) : State :=
  match translate s c.who.core c.g.ctx a.ea.toNat 0 with
  | none => s
  | some (e, s1) =>
    let loc := e.locate a.ea.toNat
    if l1 && e.mt = 0 && (!e.graded || (tagAt s1 loc.addr).grade = 3) && !e.inCarveOut a.ea.toNat then
      (l1Read s1 c.who.core loc 1).2
    else s1

def execPref (f : BitVec 3) (sb a : BitVec 6) (s : State) : Out :=
  runIssue s fun c => do
    let u := c.memUses sb a 0 0 0
    c.prep (.pref f sb a) false u
    let as := c.laneAccs sb a
    checkAll as 9 1 fun x => x.ea.toNat < 2 ^ 57
    let s1 := as.foldl (prefLine c (f.toNat = 1)) s
    .ok (withGroup s1 c fun g => g.lastReads c u)

/-! ## Scalar memory and fences (R309, R310) -/

def execSld (f : BitVec 4) (d a b : BitVec 6) (g : BitVec 2) (s : State) : Out :=
  runIssue s fun c => do
    c.prep (.sld f d a b g) true (uniUses [.s a.toNat, .s b.toNat] [.s d.toNat])
    c.room s 3
    let (size, signed) := sldForm f.toNat
    loadAct s c [⟨none, c.sv a.toNat + c.sv b.toNat⟩] size g.toNat 3 (c.loadFloor c.g.floor) (fun gr => gr.openS c 3 d.toNat)
      fun vs => vs.map fun p => .scalar d.toNat (extendTo 64 size signed p.2)

def sstSize (f : Nat) : Nat :=
  match f with
  | 0 => 1
  | 2 => 2
  | 4 => 4
  | _ => 8

def execSst (f : BitVec 4) (d a b : BitVec 6) (g : BitVec 2) (s : State) : Out :=
  runIssue s fun c => do
    c.prep (.sst f d a b g) true (uniUses [.s a.toNat, .s b.toNat, .s d.toNat] [])
    c.room s 2
    let size := sstSize f.toNat
    storeAct s c [⟨none, c.sv a.toNat + c.sv b.toNat⟩] size g.toNat (fun _ => leBytes (c.sv d.toNat).toNat size) id

def execFence (g : BitVec 2) (s : State) : Out :=
  runIssue s fun c => do
    c.prep (.fence g) true (uniUses [] [])
    fenceAct s c g.toNat

end Sys2Proof.Machine
end

