-- ==== Sys2Proof/Machine/Matrix.lean ====
section
/-! DEFINITION. Matrix work: MMA and MMAG (R271 to R285), TRD and TWR (R286 to R288). -/

namespace Sys2Proof.Machine

/-! ## Operands (R271 to R276) -/

/-- Whether the shape word's must-be-zero fields are zero (R272). -/
def shapeClean (w : DWord) : Bool :=
  let x := w.toNat
  decide (x < 2 ^ 48) && bitsAt x 26 6 = 0 && bitsAt x 13 3 = 0 && bitsAt x 5 3 = 0

/-- The byte (R273) of element (p, k), and the bits within it. -/
def MmaOperand.byteOf (o : MmaOperand) (p k : Nat) : Nat :=
  let b := o.fw.ef.bits
  if o.turned then o.off + k * o.rb + p * b / 8 else o.off + p * o.rb + k * b / 8

/-- Bytes of an element, and of a scale. -/
def elemBytes (ef : ElemFmt) : Nat := (ef.bits + 7) / 8
def scaleBytes (sk : ScaleKind) : Nat := if sk = .bf16 then 2 else 1

/-- The byte of the scale of element (p, k) (R274). -/
def MmaOperand.scaleAt (o : MmaOperand) (kk p k : Nat) : Nat :=
  o.fw.soff + (p * ((kk + o.fw.blockLen - 1) / o.fw.blockLen) + k / o.fw.blockLen) * scaleBytes o.fw.sk

/-- The hull of the bytes that the vectors in `ps` read, and of their scales; `none` when nothing is read. -/
def hullOf : List (Nat × Nat) → Option (Nat × Nat)
  | [] => none
  | (lo, hi) :: t =>
    match hullOf t with
    | some (a, b) => some (min lo a, max hi b)
    | none => some (lo, hi)

/-- Bytes of one vector: its first and last element bound them in either direction. -/
def MmaOperand.span (o : MmaOperand) (kk p : Nat) : Nat × Nat :=
  (o.byteOf p 0, o.byteOf p (kk - 1) + elemBytes o.fw.ef)

def MmaOperand.scaleSpan (o : MmaOperand) (kk p : Nat) : Nat × Nat :=
  (o.scaleAt kk p 0, o.scaleAt kk p (kk - 1) + scaleBytes o.fw.sk)

def MmaOperand.scaled (o : MmaOperand) : Bool := o.fw.sk != .none

/-! ## Checks at issue (R280) -/

/-- A fault found by the checks: the cause, FADDR and FINFO. -/
abbrev MmaFault := Nat × DWord × DWord

/-- The fault with the lowest cause, the earlier one among equals. -/
def lowestMmaFault : List MmaFault → Option MmaFault
  | [] => none
  | x :: t =>
    match lowestMmaFault t with
    | some y => if y.1 < x.1 then some y else some x
    | none => some x

/-- The operand that an index or a column reads beyond its tile, for the vectors in use: `tag` gives the lane of an index. -/
def rangeFaults (t : Option Tile) (ref : DWord) (finfo : Nat → DWord) (spans : List (Nat × Nat × Nat)) : List MmaFault :=
  match t with
  | none => []
  | some t =>
    match spans.find? fun x => decide (x.2.2 > t.size) with
    | some x => [(0x0F, ref, finfo x.1)]
    | none => []

/-- What MMA and MMAG have read and resolved. -/
structure MmaSetup where
  plan : MmaPlan
  acc : Tile
  ta : Tile
  tb : Tile
  sa : Option Tile
  sb : Option Tile
  deriving DecidableEq, Repr

def opInfo (n lane : Nat) : DWord := BitVec.ofNat 64 (n + lane * 256)

/-- The tile of a reference at levels S and C. -/
def findSC (s : State) (c : Iss) (h : Nat) : Option Tile := usableTile s c.who.core (s.domOf c.g) h levelSC

/-- Faults 0x0A and 0x10 of the byte-count reference (R234, R280). -/
def countFaults (s : State) (c : Iss) (r : DWord) : List MmaFault :=
  if r = 0 then []
  else
    (if refOff r % 16 ≠ 0 then [(0x0A, r, opInfo 5 0)] else []) ++
    (match findSC s c (refHandle r) with
    | some t => if refOff r + 16 ≤ t.size then [] else [(0x10, r, opInfo 5 0)]
    | none => [(0x10, r, opInfo 5 0)])

/-- The rows that are selected: lanes below M in em, each with its outer index in A (R275, R276). -/
def selectedRows (c : Iss) (m : Nat) (index : Option Nat) : List (Nat × Nat) :=
  (c.emLanes.filter fun i => decide (i < m)).map fun i =>
    match index with
    | some v => (i, (c.v v i).toNat)
    | none => (i, i)

/-- The cases of 0x01 of R280 that rest on values: they come before 0x03 and 0x04 (R86). -/
def mmaIllegal (c : Iss) (a b : Nat) : Except Stop Unit := do
  need (refClean (c.sv a)) 1 (c.sv a) (opInfo 0 0)
  need (refClean (c.sv (a + 1))) 1 (c.sv (a + 1)) (opInfo 1 0)
  need (shapeClean (c.sv (a + 2))) 1 (c.sv (a + 2)) (opInfo 2 0)
  need (refClean (c.sv (a + 3))) 1 (c.sv (a + 3)) (opInfo 5 0)
  need (formatWord (c.sv b)).isSome 1 (c.sv b) (opInfo 3 0)
  need (formatWord (c.sv (b + 1))).isSome 1 (c.sv (b + 1)) (opInfo 4 0)

/-- The checks of R280 after those of R86, and what the instruction has read. -/
def mmaSetup (s : State) (c : Iss) (f a b : Nat) (index : Option Nat) : Except Stop MmaSetup := do
  let ra := c.sv a
  let rb := c.sv (a + 1)
  let w := c.sv (a + 2)
  let bar := c.sv (a + 3)
  let fa := c.sv b
  let fb := c.sv (b + 1)
  match formatWord fa, formatWord fb with
  | none, _ => trapWith 1 fa (opInfo 3 0)
  | _, none => trapWith 1 fb (opInfo 4 0)
  | some wa, some wb =>
    let x := w.toNat
    let m := bitsAt x 0 5 + 1
    let n := bitsAt x 8 5 + 1
    let kk := bitsAt x 16 10 + 1
    let tA := findSC s c (refHandle ra)
    let tB := findSC s c (refHandle rb)
    let tC := usableTile s c.who.core (s.domOf c.g) (bitsAt x 32 16) levelA
    let sA := if wa.sk = .none then none else findSC s c wa.sh
    let sB := if wb.sk = .none then none else findSC s c wb.sh
    let rows := selectedRows c m index
    let cols := if rows = [] then [] else List.range n
    let opA : MmaOperand := ⟨(tA.map (·.id)).getD 0, (tA.map (·.rb)).getD 16, refOff ra, f % 2 = 1, wa, (sA.map (·.id)).getD 0⟩
    let opB : MmaOperand := ⟨(tB.map (·.id)).getD 0, (tB.map (·.rb)).getD 16, refOff rb, f / 2 % 2 = 1, wb, (sB.map (·.id)).getD 0⟩
    let laneOf (i : Nat) : Nat := if index.isSome then i else 0
    let aInfo (i : Nat) : DWord := if index.isSome then opInfo 6 (laneOf i) else opInfo 0 0
    let faults : List MmaFault :=
      (if refOff ra % 16 ≠ 0 then [(0x0A, ra, opInfo 0 0)] else []) ++
      (if refOff rb % 16 ≠ 0 then [(0x0A, rb, opInfo 1 0)] else []) ++
      (if wa.sk = .bf16 ∧ wa.soff % 2 = 1 then [(0x0A, fa, opInfo 3 0)] else []) ++
      (if wb.sk = .bf16 ∧ wb.soff % 2 = 1 then [(0x0A, fb, opInfo 4 0)] else []) ++
      rangeFaults tA ra aInfo (rows.map fun p => (p.1, opA.span kk p.2)) ++
      rangeFaults tB rb (fun _ => opInfo 1 0) (cols.map fun q => (q, opB.span kk q)) ++
      rangeFaults sA fa (fun i => if index.isSome then opInfo 6 (laneOf i) else opInfo 3 0)
        (rows.map fun p => (p.1, opA.scaleSpan kk p.2)) ++
      rangeFaults sB fb (fun _ => opInfo 4 0) (cols.map fun q => (q, opB.scaleSpan kk q)) ++
      (if tA.isNone then [(0x10, ra, opInfo 0 0)] else []) ++
      (if tB.isNone then [(0x10, rb, opInfo 1 0)] else []) ++
      (if tC.isNone then [(0x10, w, opInfo 2 0)] else []) ++
      (if wa.sk ≠ .none ∧ sA.isNone then [(0x10, fa, opInfo 3 0)] else []) ++
      (if wb.sk ≠ .none ∧ sB.isNone then [(0x10, fb, opInfo 4 0)] else []) ++
      countFaults s c bar
    match lowestMmaFault faults, tA, tB, tC with
    | some (cause, addr, info), _, _, _ => trapWith cause addr info
    | none, some tA, some tB, some tC =>
      .ok ⟨⟨opA, opB, kk, n, rows, if f / 4 % 2 = 1 then c.g.mskip.toNat else 0⟩, tC, tA, tB, sA, sB⟩
    | none, _, _, _ => trapWith 0x10

/-- The source entries: one hull for each distinct tile read (R281). -/
def MmaSetup.sources (u : MmaSetup) : List Hull :=
  let p := u.plan
  let cols := if p.rows = [] then [] else List.range p.n
  let hull (t : Tile) (spans : List (Nat × Nat)) : List Hull :=
    match hullOf spans with
    | some (lo, hi) => [⟨t.bankCore, t.range, false, false, lo, hi⟩]
    | none => []
  let scale (t : Option Tile) (spans : List (Nat × Nat)) : List Hull := t.elim [] fun t => hull t spans
  (hull u.ta (p.rows.map fun r => p.a.span p.k r.2) ++ hull u.tb (cols.map (p.b.span p.k))
    ++ scale u.sa (p.rows.map fun r => p.a.scaleSpan p.k r.2) ++ scale u.sb (cols.map (p.b.scaleSpan p.k))).foldl addHull []

/-- The chain's entry (R281): an instruction that finds it held joins it at issue; another registers it with its sources. -/
def chainHull (s : State) (core : Nat) (t : Tile) : List Hull :=
  if s.locks.any fun l => l.owner = chainOwner t.id then [] else [⟨core, t.range, true, false, 0, t.size⟩]

/-- The issue of MMA (`index = none`) and MMAG. -/
def mmaIssue (i : Instr) (s : State) (f : BitVec 4) (a b : BitVec 6) (index : Option (BitVec 6)) : Out :=
  runIssue s fun c => do
    let scalars : List RName := [.s a.toNat, .s (a.toNat + 1), .s (a.toNat + 2), .s (a.toNat + 3), .s b.toNat, .s (b.toNat + 1)]
    let m := bitsAt (c.sv (a.toNat + 2)).toNat 0 5 + 1
    let u : Uses :=
      { vr := (index.map fun v => (⟨v.toNat, 1, 2⟩ : VOp)).toList, vw := [], nr := c.emName :: scalars, nw := [],
        rl := c.em &&& maskOf fun i => decide (i < m), wl := 0 }
    c.prepWith i true u none (mmaIllegal c a.toNat b.toNat) (opInfo 6 0)
    let su ← mmaSetup s c f.toNat a.toNat b.toNat (index.map (·.toNat))
    let hs := su.sources
    need (hullsFit hs && decide (hullNeed hs c.who.core + 1 ≤ 64)) 9
    let s2 := hs.foldl (fun x h =>
      match h.range with
      | .tile d n =>
        (match x.tiles.find? fun t => t.dom = d && t.num = n && t.state == .live with
        | some t => flushRange x c.who.core (.tile t.id h.lo) (h.hi - h.lo)
        | none => x)
      | .global _ => x) s
    let e := c.engine s2 (.mma su.acc.id (f.toNat / 8 % 2 = 1) su.plan (c.sv (a.toNat + 3)) [] [] false false)
      (hs ++ chainHull s c.who.core su.acc)
    .ok (issueEngine s2 c e fun g => (g.lastReads c u).blockStake)

def execMma (f : BitVec 4) (a b : BitVec 6) (s : State) : Out := mmaIssue (.mma f a b) s f a b none

def execMmag (f : BitVec 4) (d a b : BitVec 6) (s : State) : Out := mmaIssue (.mmag f d a b) s f a b (some d)

/-! ## Gathering (R273, R274, R278, R282) -/

/-- One element and its scale, as the tiles hold them. -/
def gatherElement (s : State) (o : MmaOperand) (kk mskip p k : Nat) : MmaElem :=
  let ef := o.fw.ef
  let raw := leNat (readLoc s (.tile o.tile (o.byteOf p k)) (elemBytes ef))
  let inRow := if o.turned then p else k
  let bits := if ef.bits = 4 then (if inRow % 2 = 1 then raw / 16 else raw % 16) else raw
  if o.scaled then
    let sc := leNat (readLoc s (.tile o.scale (o.scaleAt kk p k)) (scaleBytes o.fw.sk))
    let exp := if o.fw.sk = .se8 then sc % 256 else sc / 128 % 256
    ⟨elemValue ef bits, scaleValue o.fw.sk sc, decide (exp < mskip) && decide (exp ≠ 255)⟩
  else ⟨elemValue ef bits, .fin false 1 0, false⟩

def gatherVector (s : State) (o : MmaOperand) (kk mskip p : Nat) : List MmaElem :=
  (List.range kk).map (gatherElement s o kk mskip p)

/-- MMA_GATHER_DONE: the operands are in the engine's buffers and the source entries are released. -/
def execMmaGatherDone (id : Nat) (s : State) : Out :=
  match s.engine? id with
  | none => .next s
  | some e =>
    match e.kind with
    | .mma acc z p bar _ _ false false =>
      if engineLive s e then
        let av := p.rows.map fun r => (r.1, gatherVector s p.a p.k p.mskip r.2)
        let bv := if p.rows = [] then [] else (List.range p.n).map fun q => (q, gatherVector s p.b p.k p.mskip q)
        .next ((releaseLocks s id).updEngine id fun x => { x with kind := .mma acc z p bar av bv true false })
      else .next s
    | _ => .next s

/-! ## Arithmetic (R41, R42, R277) -/

/-- The four sticky bits of R279: NANEL 0, NANSC 1, ZINF 2, INFINF 3. -/
structure Causes where
  nanEl : Bool
  nanSc : Bool
  zInf : Bool
  infInf : Bool
  deriving DecidableEq, Repr

def Causes.none : Causes := ⟨false, false, false, false⟩
def Causes.or (a b : Causes) : Causes := ⟨a.nanEl || b.nanEl, a.nanSc || b.nanSc, a.zInf || b.zInf, a.infInf || b.infInf⟩
def Causes.any (a : Causes) : Bool := a.nanEl || a.nanSc || a.zInf || a.infInf
def Causes.bits (a : Causes) : BitVec 4 :=
  BitVec.ofNat 4 (a.nanEl.toNat + 2 * a.nanSc.toNat + 4 * a.zInf.toNat + 8 * a.infInf.toNat)

/-- A chunk's exact sum: an integer times 2^exp, infinities seen, whether every product is −0, and the causes. -/
structure ChunkSum where
  num : Int
  exp : Int
  posInf : Bool
  negInf : Bool
  allNegZero : Bool
  causes : Causes
  deriving DecidableEq, Repr

def ChunkSum.start : ChunkSum := ⟨0, 0, false, false, true, Causes.none⟩

def Fp.isNan : Fp → Bool
  | .nan _ _ _ => true
  | _ => false
def Fp.isInf : Fp → Bool
  | .inf _ => true
  | _ => false
def Fp.isZero : Fp → Bool
  | .fin _ m _ => m = 0
  | _ => false
def Fp.neg : Fp → Bool
  | .nan n _ _ => n
  | .inf n => n
  | .fin n _ _ => n
def Fp.mag : Fp → Nat
  | .fin _ m _ => m
  | _ => 0
def Fp.expo : Fp → Int
  | .fin _ _ e => e
  | _ => 0

/-- Adds ±m × 2^e exactly. -/
def ChunkSum.addExact (t : ChunkSum) (neg : Bool) (m : Nat) (e : Int) : ChunkSum :=
  let lo := min t.exp e
  let a := t.num * 2 ^ (t.exp - lo).toNat
  let b : Int := (m * 2 ^ (e - lo).toNat : Nat)
  { t with num := a + (if neg then -b else b), exp := lo, allNegZero := t.allNegZero && m = 0 && neg }

/-- One product a × sa × b × sb enters a chunk's sum; a skipped one enters as +0 and is not examined (R278). A pair with a NaN scale
is not skipped, whatever the other scale is (R49). The sign of a product is that of its four factors; an element of an integer
format, or of DS8 or DS4, that is 0 has none and counts as +0, so its product with a negative factor is −0 (log 95). -/
def ChunkSum.add (t : ChunkSum) (x y : MmaElem) : ChunkSum :=
  if (x.low || y.low) && !x.sc.isNan && !y.sc.isNan then { t with allNegZero := false }
  else
    let fs := [x.el, x.sc, y.el, y.sc]
    let nanEl := x.el.isNan || y.el.isNan
    let nanSc := x.sc.isNan || y.sc.isNan
    let inf := fs.any Fp.isInf
    let zero := fs.any Fp.isZero
    let neg := fs.foldl (fun n f => n != f.neg) false
    let t1 := { t with causes := t.causes.or ⟨nanEl, nanSc, inf && zero, false⟩ }
    if nanEl || nanSc || (inf && zero) then { t1 with allNegZero := false }
    else if inf then { t1 with posInf := t1.posInf || !neg, negInf := t1.negInf || neg, allNegZero := false }
    else t1.addExact neg (fs.foldl (fun m f => m * f.mag) 1) (fs.foldl (fun e f => e + f.expo) 0)

def canonicalNan : Nat := 0x7FF8000000000000

/-- acc := round(acc + t), or the canonical NaN when a cause of R41 occurs (R42, R277). -/
def addChunk (acc : Nat) (t : ChunkSum) : Nat × Causes :=
  let u := fmt64.unpack acc
  let clash := (t.posInf && t.negInf) || (t.posInf && u.isInf && u.neg) || (t.negInf && u.isInf && !u.neg)
  let cs := t.causes.or ⟨false, false, false, clash⟩
  if cs.any || u.isNan then (canonicalNan, cs)
  else if t.posInf || t.negInf then (fmt64.withSign t.negInf fmt64.infBits, cs)
  else
    match u with
    | .inf _ => (acc, cs)
    | .fin n m e => (addFin fmt64 .rne n m e (if t.num = 0 then t.allNegZero else t.num < 0) t.num.natAbs t.exp, cs)
    | .nan _ _ _ => (canonicalNan, cs)

/-- Splits a vector into chunks of 32 (R42). -/
def chunkSum (av bv : List MmaElem) : ChunkSum :=
  (av.zip bv).foldl (fun t p => t.add p.1 p.2) ChunkSum.start

/-- The chunks of a dot product in increasing order. -/
def dotChunks (av bv : List MmaElem) : Nat → Nat × Causes → Nat × Causes
  | 0, r => r
  | n + 1, r =>
    let done := dotChunks av bv n r
    let (acc, cs) := addChunk done.1 (chunkSum ((av.drop (32 * n)).take 32) ((bv.drop (32 * n)).take 32))
    (acc, done.2.or cs)

/-- One selected element. -/
def mmaElement (zero : Bool) (k : Nat) (av bv : List MmaElem) (old : Nat) : Nat × Causes :=
  dotChunks av bv ((k + 31) / 32) (if zero then 0 else old, Causes.none)

/-- Byte offset of element (m, n) of an accumulator tile. -/
def accOff (m n : Nat) : Nat := 256 * m + 8 * n

/-- The selected elements of one instruction are computed and written (R277), with the causes that occurred. -/
def mmaCompute (zero : Bool) (k : Nat) (av bv : List (Nat × List MmaElem)) (bytes : Memory) : Memory × Causes :=
  (av.flatMap fun a => bv.map fun b => (a, b)).foldl (fun acc p =>
    let off := accOff p.1.1 p.2.1
    let (x, cs) := mmaElement zero k p.1.2 p.2.2 (readNat acc.1 off 8)
    (writeNat acc.1 off 8 x, acc.2.or cs)) (bytes, Causes.none)

/-! ## Completion (R279, R283) -/

/-- The matrix instruction that the engine of a core completes next: the first of those that it has received, which one that is
still held at issue is not (R282, R284). -/
def firstMma (s : State) (core : Nat) : Option Engine :=
  s.engines.find? fun e => e.core = core && e.admitted && match e.kind with
    | .mma _ _ _ _ _ _ _ done => !done
    | _ => false

/-- Instructions of the chain of an accumulator tile: those that have registered its entry or joined it (R281). -/
def chainOf (s : State) (acc : Nat) : List Engine :=
  s.engines.filter fun e => match e.kind with
    | .mma a _ _ _ _ _ _ _ => a = acc && (e.admitted || !e.hulls.any (·.dest))
    | _ => false

def mmaDone (e : Engine) : Bool :=
  match e.kind with
  | .mma _ _ _ _ _ _ _ done => done
  | _ => false

/-- The chain ends when its last instruction completes, or is withdrawn after the others have: its entry is released and the counts
arrive (R281, R283). -/
def endChain (s : State) (acc : Nat) : State :=
  let es := chainOf s acc
  if es.all mmaDone then
    let s1 := releaseLocks s (chainOwner acc)
    es.foldl (fun x e => (match e.kind with
      | .mma _ _ _ bar _ _ _ _ => if bar = 0 then x else countBytes x e.ctx e.dom bar 8192
      | _ => x).dropEngine e.id) s1
  else s

/-- MMA_COMPLETE. -/
def execMmaComplete (id : Nat) (s : State) : Out :=
  match s.engine? id with
  | none => .next s
  | some e =>
    match e.kind with
    | .mma acc z p bar av bv true false =>
      if engineLive s e ∧ ((firstMma s e.core).map (·.id) = some id) then
        match s.tiles.find? fun t => t.id = acc with
        | none => .next (endChain (s.updEngine id fun x => { x with kind := .mma acc z p bar av bv true true }) acc)
        | some t =>
          let (bytes, cs) := mmaCompute z p.k av bv t.bytes
          let put (x : Tile) : Tile := if x.id = acc then { x with bytes := bytes, tstat := x.tstat ||| cs.bits } else x
          let s1 : State := { s with tiles := s.tiles.map put }
          let s2 : State := match e.group with
            | some g => s1.updGroup g fun (x : Group) => if x.state = .tracked then x else { x with mstat := x.mstat ||| cs.bits }
            | none => s1
          .next (endChain (s2.updEngine id fun x => { x with kind := .mma acc z p bar av bv true true }) acc)
      else .next s
    | _ => .next s

/-- The chains whose entries are held. -/
def chainsHeld (s : State) : List Nat := (s.locks.filter fun l => 2 ^ 40 ≤ l.owner).map fun l => l.owner - 2 ^ 40

/-! ## TRD and TWR (R286 to R288) -/

/-- The checks of TRD and TWR on fields and on the reference s[a] (R86, R288): FADDR holds s[a]. -/
def Iss.accPrep (c : Iss) (i : Instr) (u : Uses) (r : DWord) (status : Bool) : Except Stop Unit :=
  c.prepWith i true u (some r) (need (refClean r && (!status || refOff r = 0)) 1 r) 0

/-- The other checks of R288 on an accumulator reference, and of R261. An index past 31 comes before the level of a valid handle. -/
def accRef (s : State) (c : Iss) (r : DWord) (write : Bool) : Except Stop (Tile × Nat) := do
  need ((s.tileOf (s.domOf c.g) (refHandle r)).isSome) 0x10 r
  need (decide (refOff r ≤ 31)) 0x0F r
  match usableTile s c.who.core (s.domOf c.g) (refHandle r) levelA with
  | none => trapWith 0x10 r
  | some t =>
    match tileLock s c t 0 t.size write r with
    | .ok _ => .ok (t, refOff r)
    | .error x => .error x

/-- Offset of the element that lane `i` moves. -/
def laneAccOff (col : Bool) (x i : Nat) : Nat := if col then accOff i x else accOff x i

/-- The registers a TRD form writes in a lane (R286). -/
def trdWords (form : Nat) (e : Nat) : List Word :=
  match form with
  | 0 => [BitVec.ofNat 32 e, BitVec.ofNat 32 (e / 2 ^ 32)]
  | 1 => [BitVec.ofNat 32 (convertFloat fmt64 fmt32 .rne false e)]
  | _ => [BitVec.ofNat 32 (convertFloat fmt64 fmtBf .rne false e)]

def execTrd (f : BitVec 4) (d a : BitVec 6) (s : State) : Out :=
  runIssue s fun c => do
    let form := f.toNat % 4
    let w := if form = 0 then 2 else 1
    c.accPrep (.trd f d a)
      { vr := [], vw := [⟨d.toNat, w, 3⟩], nr := [c.emName, .s a.toNat], nw := [], rl := 0, wl := c.em } (c.sv a.toNat) false
    c.room s 3
    let (t, x) ← accRef s c (c.sv a.toNat) false
    let lands := c.emLanes.flatMap fun i =>
      let ws := trdWords form (readNat t.bytes (laneAccOff (f.toNat / 4 % 2 = 1) x i) 8)
      (List.range w).map fun k => Landing.lane (d.toNat + k) i (ws.getD k 0)
    .ok (withGroup { s with seq := s.seq + 1 } c fun g =>
      (g.openDest c 3 d.toNat w c.em).addOp { OutOp.mk' 3 s.seq with lands := lands })

def execTrdSt (d a : BitVec 6) (s : State) : Out :=
  runIssue s fun c => do
    c.accPrep (.trdSt d a) (uniUses [.s a.toNat] [.s d.toNat]) (c.sv a.toNat) true
    c.room s 3
    let (t, _) ← accRef s c (c.sv a.toNat) false
    .ok (withGroup { s with seq := s.seq + 1 } c fun g => g.scalarLater c s.seq d.toNat (t.tstat.setWidth 64))

/-- The binary64 element that a TWR form stores (R287). -/
def twrElement (form : Nat) (lo hi : Word) : Nat :=
  let e := match form with
    | 0 => hi.toNat * 2 ^ 32 + lo.toNat
    | 1 => convertFloat fmt32 fmt64 .rne false lo.toNat
    | _ => convertFloat fmtBf fmt64 .rne false (lo.toNat % 65536)
  if (fmt64.unpack e).isNan then canonicalNan else e

def execTwr (f : BitVec 4) (a b : BitVec 6) (s : State) : Out :=
  runIssue s fun c => do
    let form := f.toNat % 4
    let w := if form = 0 then 2 else 1
    let u : Uses := { vr := [⟨b.toNat, w, 1⟩], vw := [], nr := [c.emName, .s a.toNat], nw := [], rl := c.em, wl := 0 }
    c.accPrep (.twr f a b) u (c.sv a.toNat) false
    let (t, x) ← accRef s c (c.sv a.toNat) true
    let bytes := c.emLanes.foldl (fun m i =>
      writeNat m (laneAccOff (f.toNat / 4 % 2 = 1) x i) 8 (twrElement form (c.v b.toNat i) (c.v b.toNat i 1))) t.bytes
    .ok (withGroup { s with tiles := s.tiles.map fun y => if y.id = t.id then { y with bytes := bytes } else y } c fun g =>
      g.lastReads c u)

end Sys2Proof.Machine
end

