-- ==== Sys2Proof/Machine/Observe.lean ====
section
/-! DEFINITION. The lantern (R410 to R412) and the registers and resumption of the branch-and-mask trace (R413 to R415,
R433). -/

namespace Sys2Proof.Machine

/-! ## LCTL (R410) -/

/-- LCTL_WRITE: a PERIOD outside 10 to 24 is ignored, and so is a LOG2N of 15. -/
def execLctlWrite (vf ctx : Nat) (value : DWord) (s : State) : Out :=
  match windowOf s vf ctx with
  | none => .next s
  | some _ =>
    let period := bitsAt value.toNat 3 5
    let log2n := bitsAt value.toNat 8 4
    .next (s.updCtx ctx fun c => { c with
      lbase := BitVec.ofNat 64 (value.toNat / 4096 * 4096)
      llog2n := if log2n ≤ 14 then log2n else c.llog2n
      lperiod := if 10 ≤ period ∧ period ≤ 24 then period else c.lperiod
      lsampled := if 10 ≤ period ∧ period ≤ 24 ∧ period ≠ c.lperiod then [] else c.lsampled
      len := value.getLsbD 0 })

/-! ## The record (R412) -/

/-- What a record says of a slot or of a group. -/
structure LanternEntry where
  cycle : Nat
  reach : Option Reach
  pc : DWord
  flags : Nat
  cause : Nat
  em : Word
  word : Word
  addr : DWord
  deriving DecidableEq, Repr

/-- A latency field holds 16 bits. -/
def latency (n : Nat) : List Byte := leBytes (min n 65535) 2

/-- LEVEL: what the addresses lead to, where the L1, the cluster's unit or the memory behind the home slice may have answered as
measured; an engine's own accesses as measured (log 118). -/
def levelOf (r : Option Reach) (measured : Nat) : Nat :=
  match r with
  | none => min measured 9
  | some r =>
    if r.level = 4 ∨ r.level = 5 then
      if measured = 6 then 6 else if r.near then max 3 (min measured r.level) else r.level
    else r.level

/-- XING: the fixed path of R16, none where a nearer level has answered; an engine's own accesses as measured, at most three boundaries
each way (log 118). -/
def xingOf (r : Option Reach) (m : Measured) : Nat :=
  match r with
  | none => min m.xing 6
  | some r => if r.near && decide (levelOf (some r) m.level < 5) then 0 else r.crossed

/-- The 64 bytes of a record. -/
def lanternBytes (s : State) (g : Group) (e : LanternEntry) (m : Measured) : List Byte :=
  leBytes e.cycle 8 ++ leBytes e.pc.toNat 8 ++ leBytes (blockWord s g.kid g.block).toNat 8
    ++ leBytes (vfState s (coreField g.at_.core)) 4 ++ leBytes e.flags 2 ++ leBytes (groupNumber g.at_) 2
    ++ latency m.fetchw ++ latency m.issuew ++ latency m.operw ++ latency m.exec ++ latency m.wback
    ++ leBytes (levelOf e.reach m.level) 1 ++ leBytes (xingOf e.reach m) 1 ++ leBytes g.at_.core 1 ++ leBytes g.gid 1 ++ leBytes e.cause 2
    ++ leBytes e.em.toNat 4 ++ leBytes e.word.toNat 4 ++ leBytes e.addr.toNat 8

/-- A record is dropped and counted. -/
def lanternDrop (s : State) (ctx : Nat) : State := s.updCtx ctx fun c => { c with ldrop := min (c.ldrop + 1) 0xFFFFFFFF }

/-- A record enters the ring of its context, or is dropped: on a full ring, or on a page that is absent or forbids the write
(R405). -/
def lanternPut (s : State) (g : Group) (bytes : List Byte) : State :=
  match s.ctx? g.ctx with
  | none => s
  | some c =>
    let n := 2 ^ (c.llog2n + 6)
    if (c.ltail - c.lhead).toNat ≥ n then lanternDrop s c.id
    else
      match writeVirtual s g.at_.core c.id (c.lbase.toNat + 64 * (c.ltail.toNat % n)) bytes with
      | some s1 => s1.updCtx c.id fun x => { x with ltail := x.ltail + 1 }
      | none => lanternDrop s c.id

def noLatency : Measured := ⟨0, 0, 0, 0, 0, 0, 0, 0⟩

/-! ## Sampling (R411) -/

/-- The slots of a quarter that hold a group of a context, by slot number, those in `tail` among them. -/
def lanternSlots (s : State) (ctx core quarter : Nat) : List Group :=
  (List.range 256).flatMap fun k => (slotted s core quarter).filter fun g => g.ctx = ctx && g.at_.slot = k

/-- The fragment of a group whose slot is next: the first in the order of R151 among those that do not wait. -/
def nextFragment (g : Group) : Option Fragment :=
  let live := g.frags.filter fragLive
  ((if live = [] then g.frags else live).foldl (fun (best : Option Fragment) f =>
    match best with
    | none => some f
    | some b => if before (g, f) (g, b) then some f else some b) none)

/-- What the lantern does with a chosen group: a tag, or a record at once with FETCH or GONE. -/
def lanternPick (s : State) (g : Group) : State :=
  let now := s.cycleOf g.at_.core
  if g.state = .tail then
    lanternPut s g (lanternBytes s g ⟨now, some Reach.nowhere, g.endPc, 2, 0, 0, 0, 0⟩ noLatency)
  else
    match nextFragment g with
    | none => s
    | some f =>
      if hasBundle s (fragOf g f) g.ctx f then s.updGroup g.at_ fun x => x.updFrag f.index fun y => y.tagNext now false
      else lanternPut s g (lanternBytes s g ⟨now, some Reach.nowhere, BitVec.ofNat 64 (bundleBase f.pc), 1, 0, g.emAt now f, 0, 0⟩ noLatency)

/-- The sampling period that a core's field is in: 2^PERIOD of its cycles, counted from its start (log 119). -/
def samplePeriod (s : State) (c : Context) (core : Nat) : Nat := s.cycleOf core / 2 ^ c.lperiod

/-- LANTERN_SAMPLE: the quarter's sampling cycle of the period has come, once in each period; `pick` is its draw. -/
def execLanternSample (ctx core quarter pick : Nat) (s : State) : Out :=
  match s.ctx? ctx with
  | none => .next s
  | some c =>
    let now := samplePeriod s c core
    if !c.len || c.lsampled.any (fun x => x.1 = (core, quarter) && x.2 = now) then .next s
    else
      let s1 := s.updCtx ctx fun x => { x with lsampled := upsert x.lsampled (fun y => y.1 = (core, quarter)) ((core, quarter), now) }
      match lanternSlots s ctx core quarter with
      | g :: gs => .next (lanternPick s1 (nth (g :: gs) (pick % (gs.length + 1)) g))
      | [] => .next s1

/-- The cycle of a period that a quarter has drawn, and its pick among the slots: of its own random source, which is seeded at each
start. -/
def lanternDraw (s : State) (core quarter period use : Nat) : Nat :=
  Config.freeNat use ((s.starts * 384 + core * 4 + quarter) * 2 ^ 64 + period)

/-- A quarter's drawn cycle has come, and it takes its sample. -/
def lanternDue (c : Context) (s : State) (core quarter : Nat) : State :=
  let now := samplePeriod s c core
  if (s.field (coreField core)).up ∧ lanternDraw s core quarter now 66 % 2 ^ c.lperiod ≤ s.cycleOf core % 2 ^ c.lperiod then
    match execLanternSample c.id core quarter (lanternDraw s core quarter now 67) s with
    | .next t => t
    | _ => s
  else s

/-- Every quarter of the chip in turn: those whose drawn cycle has come sample a context whose lantern is on (R411). -/
def lanternSamples (c : Context) (s : State) : Out :=
  if c.len then .next ((List.range 384).foldl (fun a k => lanternDue c a (k / 4) (k % 4)) s) else .next s

/-! ## Records of tagged slots (R412) -/

/-- The entry of a tag: BANK, LATCH and REBUILD are as measured, MELD, FORCED and TRAP as tagged. -/
def tagEntry (t : Tag) (m : Measured) (late : Bool) : LanternEntry :=
  ⟨t.cycle, t.reach, t.pc, (if t.cause = 0 then 0 else 4) + bitsAt m.flags 3 3 * 8 + t.melded.toNat * 64 + late.toNat * 128 + t.forced.toNat * 256,
    t.cause, t.em, t.word, t.addr⟩

/-- How an instruction accesses memory (R303, R305, R327). -/
inductive AccessWay where
  | load
  | store
  | clusterAtomic
  | homeAtomic
  | portAtomic
  deriving DecidableEq, Repr

/-- The way of an XCHG or CAS by its scope (R305). -/
def atomicWay (f : BitVec 3) : AccessWay :=
  match f.toNat % 4 with
  | 1 => .clusterAtomic
  | 2 => .homeAtomic
  | _ => .portAtomic

/-- The ways and the effective addresses of a memory instruction, of its lowest active lane first; none for any other. -/
def slotAccesses (c : Iss) (i : Instr) : List (AccessWay × DWord) :=
  let lanes (w : AccessWay) (sb a : BitVec 6) := (c.laneAccs sb a).map fun x => (w, x.ea)
  let granules (w : AccessWay) (a b : BitVec 6) :=
    let va := (c.sv a.toNat).toNat
    let n := min (c.sv b.toNat).toNat 0x1000000
    (List.range ((va + n + 255) / 256 - va / 256)).map fun k => (w, BitVec.ofNat 64 (max va ((va / 256 + k) * 256)))
  match i with
  | .ld _ _ sb a _ => lanes .load sb a
  | .ldf _ _ sb a _ => lanes .load sb a
  | .pref _ sb a => lanes .load sb a
  | .st _ _ sb a _ => lanes .store sb a
  | .atomC _ _ sb a _ => lanes .clusterAtomic sb a
  | .atomD _ _ sb a _ => lanes .homeAtomic sb a
  | .red _ _ sb a _ => lanes .homeAtomic sb a
  | .atomS _ _ sb a _ => lanes .portAtomic sb a
  | .xchg f _ sb a _ => lanes (atomicWay f) sb a
  | .cas f _ sb a _ => lanes (atomicWay f) sb a
  | .sld _ _ a b _ => [(.load, c.sv a.toNat + c.sv b.toNat)]
  | .sst _ _ a b _ => [(.store, c.sv a.toNat + c.sv b.toNat)]
  | .gread _ a => [(.homeAtomic, c.sv a.toNat)]
  | .gwait _ a b => granules .homeAtomic a b
  | .amend _ a b => granules .homeAtomic a b
  | _ => []

/-- The tile references of an instruction that accesses a tile, with the lane's offset where it has one, of the lowest active lane
first. -/
def slotTiles (c : Iss) (i : Instr) : List DWord :=
  let lanes (sb a : BitVec 6) := c.emLanes.map fun k => c.sv sb.toNat + (c.v a.toNat k).setWidth 64 <<< 16
  match i with
  | .ldl _ _ sb a _ => lanes sb a
  | .stl _ _ sb a _ => lanes sb a
  | .atoml _ _ sb a _ => lanes sb a
  | .bari a _ => [c.sv a.toNat]
  | .bariBytes a => [c.sv a.toNat]
  | .bara _ a _ => [c.sv a.toNat]
  | .barw a _ => [c.sv a.toNat]
  | .bart _ a _ _ => [c.sv a.toNat]
  | .barx a => [c.sv a.toNat]
  | .tzero a => [c.sv a.toNat]
  | .trd _ _ a => [c.sv a.toNat]
  | .trdSt _ a => [c.sv a.toNat]
  | .twr _ a _ => [c.sv a.toNat]
  | _ => []

/-- The instructions of the matrix engine, which reach the accumulator store. -/
def matrixAccess : Instr → Bool
  | .mma _ _ _ => true
  | .mmag _ _ _ _ => true
  | _ => false

/-- The instructions whose accesses an engine, a controller or another chip performs: the record takes how far they went as measured. -/
def engineAccess : Instr → Bool
  | .cpyk _ _ => true
  | .qenq _ _ _ _ _ => true
  | .qdeq _ _ _ _ _ => true
  | .qsteal _ _ _ _ => true
  | .launch _ _ _ => true
  | .renew _ _ _ => true
  | .signal _ _ _ _ => true
  | .pdecl _ _ => true
  | .pconv _ _ _ _ => true
  | .pld _ _ _ _ => true
  | .xsend _ _ _ => true
  | .coll _ _ _ => true
  | .stake _ => true
  | _ => false

/-- Boundaries between two fields on the fixed path: along the row, then across (R16). -/
def crossings (a b : Nat) : Nat := (if a % 3 ≤ b % 3 then b % 3 - a % 3 else a % 3 - b % 3) + (if a / 3 = b / 3 then 0 else 1)

/-- The field of the port that leads a partition to a chip (R10, R303): the first whose circuit is up, else the first that the pitch
names. -/
def portFieldTo (s : State) (part node : Nat) : Nat :=
  match currentPitch s part with
  | some p =>
    let ks := (List.range 16).filter fun k => PitchHas p k node
    let up := ks.filter fun k => nth s.ports k .dark == .up
    if (up ++ ks).headD 0 < 8 then 0 else 5
  | none => 0

/-- How far one access goes: to the home slice, to the atomic unit of P0 in F0, through F2 to the host, or through a port to another
chip, an outward write through the vestibule in F2 first (R15, R16, R303, R321). -/
def accessReach (s : State) (c : Iss) (way : AccessWay) (ea : DWord) : Reach :=
  let here := coreField c.who.core
  match walk s c.g.ctx ea.toNat with
  | none => Reach.nowhere
  | some e =>
    match e.locate ea.toNat with
    | .device pa =>
      let home := homeSlice s pa / 16
      ⟨if home = here then 4 else 5, way == .clusterAtomic || (way == .load && e.mt = 0),
        2 * crossings here (if way == .portAtomic then 0 else home)⟩
    | .remote node _ =>
      let port := portFieldTo s ((s.ctx? c.g.ctx).elim 0 (·.part)) node
      ⟨7, false, if way == .store || way == .portAtomic then crossings here 2 + crossings 2 port + crossings port here
        else 2 * crossings here port⟩
    | _ => ⟨8, false, 2 * crossings here 2⟩

/-- How far an access to a tile goes: the accumulator store, the core's own scratchpad, or a peer's of its cluster (R254). -/
def tileReach (s : State) (c : Iss) (ref : DWord) : Reach :=
  match s.tileOf (s.domOf c.g) (refHandle ref) with
  | some t => ⟨if t.level == .a then 9 else if t.core = c.who.core then 1 else 2, false, 0⟩
  | none => Reach.nowhere

/-- How far the accesses of a slot go together. -/
def slotReach (s : State) (c : Iss) (i : Instr) : Option Reach :=
  if engineAccess i then none
  else if matrixAccess i then some ⟨9, false, 0⟩
  else
    let rs := (slotAccesses c i).map (fun x => accessReach s c x.1 x.2) ++ (slotTiles c i).map (tileReach s c)
    some (rs.foldl (fun m r => ⟨max m.level r.level, m.near && r.near, max m.crossed r.crossed⟩) ⟨0, rs ≠ [], 0⟩)

/-- A tag as its slot leaves it: the word, and once it has issued the address, the path, and what is left to land; the engine operations
numbered from `first` on are its own. -/
def Tag.afterSlot (t : Tag) (s : State) (c : Iss) (i : Instr) (after : State) (g : Group) : Tag :=
  let at_ : Tag := { t with
    word := c.word, addr := ((slotAccesses c i).map (·.2) ++ slotTiles c i).headD 0, reach := slotReach s c i }
  if !t.issued || t.cause ≠ 0 then at_
  else
    { at_ with
      ops := (g.ops.filter fun o => decide (c.g.issued.getD o.counter 0 < o.index)).map fun o => (o.counter, o.index)
      engines := (List.range (after.nextEngine - s.nextEngine)).map (· + s.nextEngine)
      lands := (g.pend.filter fun p => !c.g.pend.contains p).foldl (fun m p => max m p.ready) 0 }

/-- After a slot, what the lantern's tag on it notes (R412): `s` is the state in which it issued, `t` the one after it. -/
def tagSlot (s t : State) (i : Instr) : State :=
  match s.issuer? with
  | none => t
  | some c =>
    match c.f.tags.find? fun x => !x.issued with
    | none => t
    | some x =>
      let mark (g : Group) (y : Tag) : Tag := if y.cycle = x.cycle && y.forced = x.forced then y.afterSlot s c i t g else y
      t.updGroup c.who.group fun g => { g with
        frags := g.frags.map fun f => if f.index = c.who.index then { f with tags := f.tags.map (mark g) } else f
        loose := g.loose.map fun p => if p.1 = c.who.index then (p.1, mark g p.2) else p
        frame := g.frame.map fun fr => { fr with frags := fr.frags.map fun f =>
          if f.index = c.who.index then { f with tags := f.tags.map (mark g) } else f } }

/-- The last effect of a tagged slot has landed, or it has trapped. -/
def Tag.over (t : Tag) (s : State) (g : Group) : Bool :=
  t.issued && (t.cause ≠ 0 || (decide (t.lands ≤ s.cycleOf g.at_.core)
    && (g.ops.all fun o => o.done || !t.ops.contains (o.counter, o.index))
    && s.engines.all fun e => !t.engines.contains e.id))

/-- A slot that has not issued, as it stands. -/
def Tag.present (em : Word) (f : Fragment) (t : Tag) : Tag := if t.issued then t else { t with pc := f.pc, em := em }

/-- The oldest tagged slot of a fragment that satisfies a test, and the group without it. An instruction that holds its fragment still
has an effect to come, unless it has trapped. -/
def takeTag (g : Group) (now index : Nat) (late : Bool) (ok : Tag → Bool) : Option (Tag × Group) :=
  match g.loose.find? fun p => p.1 = index && ok p.2 with
  | some p => some (p.2, { g with loose := g.loose.erase p })
  | none =>
    match g.frag? index with
    | none => none
    | some f => (f.tags.find? fun t => ok t && (late || t.cause ≠ 0 || f.park.isNone || t.pc ≠ f.pc)).map fun t => (t.present (g.emAt now f) f, g.updFrag index fun x => { x with tags := x.tags.erase t })

/-- A latency field has reached its limit. -/
def latencyFull (m : Measured) : Bool := [m.fetchw, m.issuew, m.operw, m.exec, m.wback].any fun n => decide (65535 ≤ n)

/-- The record of a tagged slot is written, and the tag is over. -/
def lanternEnd (s : State) (who : FragId) (m : Measured) (late : Bool) : State :=
  match (s.group? who.group).bind fun g => (takeTag g (s.cycleOf who.core) who.index late fun t => late || t.over s g).map fun p => (g, p) with
  | some (g, t, g1) => lanternPut (s.setGroup g1) g (lanternBytes s g (tagEntry t m late) m)
  | none => s

/-- LANTERN_RECORD: the last effect of a tagged slot has landed, or it has trapped. -/
def execLanternRecord (who : FragId) (meas : Measured) (s : State) : Out :=
  if latencyFull meas then .next s else .next (lanternEnd s who meas false)

/-- LANTERN_LATE: a latency field has reached 65,535. -/
def execLanternLate (who : FragId) (meas : Measured) (s : State) : Out :=
  if latencyFull meas then .next (lanternEnd s who meas true) else .next s

/-! ## TCTL and TRACE_RESUME (R413, R415, R433) -/

/-- TCTL_WRITE: EN stays 0 with LOG2B or SYNCI out of range. A block that is followed anew starts with a SYNC. -/
def execTctlWrite (vf ctx : Nat) (value : DWord) (s : State) : Out :=
  match windowOf s vf ctx with
  | none => .next s
  | some _ =>
    let v := value.toNat
    let synci := bitsAt v 12 4
    let log2b := bitsAt v 6 6
    let en := value.getLsbD 0 && decide (1 ≤ synci) && decide (synci ≤ 7) && decide (12 ≤ log2b) && decide (log2b ≤ 30)
    .next ((flushTrace s ctx).updCtx ctx fun c =>
      let t := c.trace
      let same := t.en && t.kid = bitsAt v 48 16 && t.blk = bitsAt v 16 32
      { c with trace := { t with
        kid := bitsAt v 48 16, blk := bitsAt v 16 32, synci := synci, log2b := log2b, en := en
        started := t.started && same, packets := if same then t.packets else 0 } })

/-- TRACE_RESUME: LOSS and then SYNC, once 1 KiB is free after a drop. -/
def execTraceResume (ctx : Nat) (s : State) : Out :=
  match s.ctx? ctx with
  | none => .next s
  | some c =>
    match traceCore s c.trace with
    | some core => if c.trace.en then .next (traceResumeOp s ctx core) else .next s
    | none => .next s

end Sys2Proof.Machine
end

