-- ==== Sys2Proof/Machine/Outside.lean ====
section
/-! DEFINITION. What other agents do: accesses of other chips to local memory (R15, R303), and writes by the host and by
other chips to memory that is not the chip's own. -/

namespace Sys2Proof.Machine

/-- The new value of a system-scope atomic of another chip, if it writes one: ATOM by its operation, 8 XCHG, 9 CAS (R305). -/
def remoteNew (op size : Nat) (operand extra : DWord) (old : Nat) : Option Nat :=
  if op = 8 then some (operand.toNat % 256 ^ size)
  else if op = 9 then (if old = operand.toNat % 256 ^ size then some (extra.toNat % 256 ^ size) else none)
  else some (atomOp op (BitVec.ofNat 32 old) (operand.setWidth 32)).toNat

def reply (s : State) (chip x : Nat) : State := { s with replies := s.replies ++ [(chip, x)] }

/-- Bytes of an access. -/
def remoteSize : RemoteKind → Nat
  | .load n => n
  | .store bs => bs.length
  | .atomic _ n _ _ => n

/-- An access of a chip of the partition to memory that the partition owns. -/
def remoteAct (s : State) (acc : RemoteAccess) : State :=
  let loc : Loc := .device acc.pa
  match acc.kind with
  | .load n => reply s acc.chip (leNat (readLoc s loc n))
  | .store bs => writeLoc s loc bs
  | .atomic op n x y =>
    let old := leNat (readLoc s loc n)
    let s1 := match remoteNew op n x y old with
      | some v => writeLoc s loc (leBytes v n)
      | none => s
    reply s1 acc.chip old

/-- An access that writes. -/
def remoteWrites : RemoteKind → Bool
  | .load _ => false
  | _ => true

/-- REMOTE_ACCESS_ARRIVAL: a system-scope write that left its port in window N is performed before window N + 2 begins (R372, R389). -/
def execRemoteAccessArrival (acc : RemoteAccess) (s : State) : Out :=
  if remoteWrites acc.kind && !inWindow s acc.part acc.window then .next s
  else if s.start = .ready ∧ (s.part? acc.part).isSome ∧ inPart s acc.part acc.pa (remoteSize acc.kind) then .next (remoteAct s acc) else .next s

/-- An agent outside the chip writes memory that is not the chip's. -/
def outsideWrite (s : State) (loc : Loc) (bytes : List Byte) : State :=
  match loc with
  | .host _ => writeLoc s loc bytes
  | .remote _ _ => writeLoc s loc bytes
  | _ => s

/-- The marks of a run of another chip are cleared before it is complete (R314). -/
def clearRemoteMarks (s : State) (chip kid : Nat) : State :=
  { s with marks := s.marks.filter fun m => !(m.chip = chip + 1 && m.kid = kid) }

end Sys2Proof.Machine
end

