-- ==== Sys2Proof/Machine/Power.lean ====
section
/-! DEFINITION. Field loss (R19), power samples and captures (R418, R419), throttles (R427), lean mode (R428), headroom
(R425). -/

namespace Sys2Proof.Machine

def State.updField (s : State) (f : Nat) (g : Field → Field) : State := s.setField f (g (s.field f))

/-! ## Field loss (R19) -/

/-- The record of a field loss: its cause, one of R7, and its address are not stated (log 3). -/
def fieldLossRecord (s : State) : FaultRec :=
  ⟨openAddr s, 0, 1 + Config.freeNat 32 s.freeCtr % 0x16, 2, 0xFFFF, 0xFF, 0, 0⟩

/-- A place in a field: its home slice, or the core that holds the tile. -/
def Loc.inField (s : State) (f : Nat) : Loc → Bool
  | .device pa => homeSlice s pa / 16 = f
  | .tile id _ => s.tiles.any fun t => t.id = id && t.core / 16 = f
  | _ => false

/-- The messages on their way to a lost field end with an error response: what they would store there is not performed (R19). -/
def dropLost (s : State) (f : Nat) : State :=
  let gone (l : Loc) : Bool := l.inField s f
  { s with
    wcb := s.wcb.filter fun l => !gone l.loc
    groups := s.groups.map fun g => { g with ops := g.ops.map fun o =>
      let st := o.stores.filter fun x => !gone x.loc
      let co := o.combining.filter fun x => !gone x
      { o with
        stores := st
        combining := co
        done := o.done || (decide (st ≠ o.stores ∨ co ≠ o.combining) && st.isEmpty && co.isEmpty) } } }

/-- Every context gets a record and moves to `stopping`; the loss enters the lifetime log. -/
def loseField (s : State) (f : Nat) : State :=
  let s1 := (dropLost (s.updField f fun x => { x with up := false }) f).count .fieldLoss f 0 1
  (s1.contexts.map (·.id)).foldl (fun a c => stopContext (pushFault a.fresh c (fieldLossRecord a)) c)
    { s1 with fieldsUp := s1.fieldsUp.filter (· ≠ f) }

/-! ## Captures (R418, R419) -/

/-- The bytes of a sample: time, VFSTATE, FHEAD, replays in the µs, temperature. -/
def sampleBytes (x : Sample) : List Byte :=
  leBytes x.time 4 ++ leBytes x.vf 4 ++ leBytes x.head 4 ++ leBytes x.replay 2 ++ leBytes x.temp 2

/-- The samples of a field before the trigger; those from before its first sample hold only their time. -/
def storedSamples (s : State) (f : Nat) : List Sample :=
  let have_ := (s.field f).samples
  let n := 64 - have_.length
  let first := (have_.head?).elim s.ptpns (·.time)
  ((List.range n).map fun k => ⟨first - 1000 * (n - k), 0, 0, 0, 0⟩) ++ have_

def captureHeader (s : State) (f kind : Nat) : List Byte :=
  leBytes kind 1 ++ leBytes f 1 ++ leBytes 0 2 ++ leBytes 0 4 ++ leBytes s.ptpns 8 ++ leBytes (s.field f).cycle 8
    ++ leBytes (vfState s f) 4 ++ List.replicate 36 0

def State.updCapture (s : State) (n : Nat) (g : Capture → Capture) : State :=
  { s with captures := s.captures.set n (g (nth s.captures n Capture.reset)) }

def writeCapture (s : State) (n off : Nat) (bs : List Byte) : State :=
  { s with mem := memWrite s ((nth s.captures n Capture.reset).base.toNat + off) bs }

/-- A slot that may take a capture. -/
def Capture.free (c : Capture) : Bool := c.arm && !c.busy && !c.done && c.base != 0

/-- The slot whose capture of a field runs. -/
def runningCapture (s : State) (f : Nat) : Option Nat :=
  (List.range 4).find? fun n => (nth s.captures n Capture.reset).busy && decide ((nth s.captures n Capture.reset).field = f)

/-- A field's capture takes the first free slot, or is missed. -/
def takeCapture (s : State) (f kind : Nat) : State :=
  match (List.range 4).find? fun n => (nth s.captures n Capture.reset).free with
  | some n =>
    let s1 := writeCapture (writeCapture s n 0 (captureHeader s f kind)) n 64 ((storedSamples s f).flatMap sampleBytes)
    s1.updCapture n fun x => { x with busy := true, field := f, kind := kind, taken := 0, repeats := 0, trig := s.ptpns, trigSub := s.ptpSub }
  | none => { s with missed := min (s.missed + 1) (2 ^ 64 - 1) }.count .capturesMissed 0 0 1

/-- The captures that fields above `f` have begun in this very cycle, by field and KIND. -/
def laterCaptures (s : State) (f : Nat) : List (Nat × Nat) :=
  (List.range 6).flatMap fun g => (s.captures.filter fun c => c.busy && decide (c.field = g) && decide (f < g) && c.trig = s.ptpns
    && c.trigSub = s.ptpSub && c.taken = 0 && c.repeats = 0).map fun c => (g, c.kind)

/-- A throttle of a field triggers a capture: KIND 1 power limit, 2 thermal, 2 when both begin in one µs. Captures of one cycle take the
slots in increasing FIELDID: those of higher fields make way. -/
def triggerCapture (s : State) (f kind : Nat) : State :=
  match runningCapture s f with
  | some n =>
    let c := nth s.captures n Capture.reset
    if c.taken = 0 ∧ c.repeats = 0 ∧ c.trig / 1000 = s.ptpns / 1000 then
      (if kind = 2 then writeCapture (s.updCapture n fun x => { x with kind := 2 }) n 0 (leBytes 2 1) else s)
    else writeCapture (s.updCapture n fun x => { x with repeats := x.repeats + 1 }) n 4 (leBytes (c.repeats + 1) 4)
  | none =>
    let others := laterCaptures s f
    let s1 := { s with captures := s.captures.map fun c => if others.any fun p => c.busy && c.field = p.1 then { c with busy := false } else c }
    others.foldl (fun a p => takeCapture a p.1 p.2) (takeCapture s1 f kind)

/-- A sample joins a running capture of its field. -/
def addCaptured (s : State) (f : Nat) (x : Sample) : State :=
  match runningCapture s f with
  | some n =>
    let k := (nth s.captures n Capture.reset).taken
    if k < 256 then (writeCapture s n (64 + 16 * (64 + k)) (sampleBytes x)).updCapture n fun c => { c with taken := k + 1 } else s
  | none => s

/-- CAPTURE_DONE. -/
def execCaptureDone (n : Nat) (s : State) : Out :=
  let c := nth s.captures n Capture.reset
  if n < 4 ∧ c.busy ∧ c.taken = 256 then .next (s.updCapture n fun x => { x with done := true, busy := false }) else .next s

/-- CAPBASE_WRITE: the buffer lies in device memory that no partition owns; ignored while the slot holds a capture. -/
def execCapbaseWrite (n : Nat) (value : DWord) (s : State) : Out :=
  let c := nth s.captures n Capture.reset
  let base := value.toNat % 2 ^ 48 / 8192 * 8192
  if n < 4 ∧ !c.busy ∧ !c.done ∧ base < hbmEnd ∧ (ownerOf s base).isNone then
    .next (s.updCapture n fun x => { x with base := BitVec.ofNat 64 base })
  else .next s

/-- CAPCTL_WRITE: ARM is written, DONE cleared by writing 1. -/
def execCapctlWrite (n : Nat) (value : DWord) (s : State) : Out :=
  if n < 4 then .next (s.updCapture n fun x => { x with arm := value.getLsbD 0, done := x.done && !value.getLsbD 1 }) else .next s

/-! ## Samples (R418) -/

/-- A temperature in 1/4 °C, 16 bits two's complement, is at or above a threshold. -/
def hotter (temp limit : Nat) : Bool := decide (temp % 65536 < 32768) && decide (limit ≤ temp % 65536)

/-- A count of consecutive µs that goes on or starts again. -/
def streak (on : Bool) (n : Nat) : Nat := if on then n + 1 else 0

/-- A µs passes in a field that is up: its current and temperature are measured. -/
def Field.measure (f : Field) (tthrot drawn temp : Nat) : Field :=
  let draw := drawn % 65536
  { f with
    draw := draw
    temp := temp % 65536
    overUs := streak (decide (f.limit < draw)) f.overUs
    underUs := streak (decide (16 * draw < 15 * f.limit)) f.underUs
    hotUs := streak (hotter temp tthrot) f.hotUs
    coolUs := streak (!hotter temp tthrot) f.coolUs }

/-- The sample of the present µs. -/
def sampleNow (s : State) (f : Nat) : Sample :=
  let x := s.field f
  if x.up then ⟨s.ptpns, vfState s f % 2 ^ 32, fheadWord s f % 2 ^ 32, min x.replaysUs 65535, x.temp⟩ else ⟨s.ptpns, 0, 0, 0, 0⟩

/-- The field has its sample of the present µs. -/
def sampled (s : State) (f : Nat) : Bool := ((s.field f).samples.getLast?).any fun x => decide (x.time / 1000 = s.ptpns / 1000)

/-- POWER_SAMPLE, once in each µs. -/
def execPowerSample (field draw temp : Nat) (s : State) : Out :=
  if field ≥ 6 ∨ sampled s field then .next s
  else
    let s1 := if (s.field field).up then s.updField field fun x => x.measure s.image.tthrot draw temp else s
    let x := sampleNow s1 field
    .next (addCaptured (s1.updField field fun y =>
      { y with samples := (y.samples ++ [x]).drop (y.samples.length + 1 - 64), replaysUs := 0 }) field x)

/-! ## Throttles (R427) -/

/-- Lean mode is off and the voltage nominal while a throttle is active; it starts again with a window (R428). -/
def Field.settleLean (f : Field) (enable : Bool) : Field :=
  if f.plim || f.therm then { f with lean := false, mv := 750 }
  else if enable && !f.lean then { f with lean := true, replays := 0, window := f.cycle }
  else { f with lean := enable }

def leanEnable (s : State) (f : Nat) : Bool := nth s.image.leanEnable f false

/-- A field changes, and lean mode with it. -/
def throttleField (s : State) (f : Nat) (g : Field → Field) : State := s.updField f fun x => (g x).settleLean (leanEnable s f)

/-- POWER_LIMIT_THROTTLE: DRAW above LIMIT for 10 consecutive µs. -/
def execPowerLimitThrottle (field : Nat) (s : State) : Out :=
  let x := s.field field
  if field < 6 ∧ x.up ∧ !x.plim ∧ 10 ≤ x.overUs then
    .next (triggerCapture ((throttleField s field fun y => { y with plim := true, overUs := 0, underUs := 0 }).count .powerThrottle field 0 1) field 1)
  else .next s

/-- THERMAL_THROTTLE: the temperature has reached TTHROT. -/
def execThermalThrottle (field : Nat) (s : State) : Out :=
  let x := s.field field
  if field < 6 ∧ x.up ∧ !x.therm ∧ hotter x.temp s.image.tthrot then
    .next (triggerCapture ((throttleField s field fun y => { y with therm := true, hotUs := 0, coolUs := 0 }).count .thermalThrottle field 0 1) field 2)
  else .next s

/-- The clock of the power-limit throttle: down by 100 MHz every 10 µs over LIMIT, up by 100 MHz for 100 µs below 15/16 of
it; back at 1.8 GHz the throttle ends. -/
def Field.stepPower (f : Field) : Field :=
  if !f.plim then f
  else if 10 ≤ f.overUs then { f with plimMhz := max 900 (f.plimMhz - 100), overUs := 0 }
  else if 100 ≤ f.underUs then
    { f with plimMhz := min 1800 (f.plimMhz + 100), underUs := 0, plim := decide (f.plimMhz + 100 < 1800) }
  else f

/-- The thermal throttle's clock takes the same steps by temperature; below TTHROT − 5 °C the throttle ends. -/
def Field.stepThermal (f : Field) (tthrot : Nat) : Field :=
  if !f.therm then f
  else if !hotter f.temp (tthrot - 20) then { f with therm := false, thermMhz := 1800, hotUs := 0, coolUs := 0 }
  else if 10 ≤ f.hotUs then { f with thermMhz := max 900 (f.thermMhz - 100), hotUs := 0 }
  else if 100 ≤ f.coolUs then { f with thermMhz := min 1800 (f.thermMhz + 100), coolUs := 0 }
  else f

/-- THROTTLE_CLOCK_STEP. -/
def execThrottleClockStep (field : Nat) (s : State) : Out :=
  if field < 6 ∧ (s.field field).up then
    .next (throttleField s field fun x => (x.stepPower).stepThermal s.image.tthrot)
  else .next s

/-! ## Lean mode (R428) -/

/-- LEAN_REPLAY: a replay changes only timing, and is counted; at nominal voltage none occurs. -/
def execLeanReplay (field : Nat) (s : State) : Out :=
  if field < 6 ∧ (s.field field).lean ∧ (s.field field).mv < 750 then
    .next (s.updField field fun x => { x with replays := x.replays + 1, replaysUs := x.replaysUs + 1 })
  else .next s

/-- The bucket of a window's replays (R429). -/
def replayBucket (n : Nat) : Nat := if n = 0 then 0 else if n ≤ 2 then 1 else if n ≤ 8 then 2 else if n ≤ 32 then 3 else 4

/-- A window of 64,000 cycles ends, and the next begins. -/
def Field.endWindow (f : Field) (floorMv now : Nat) : Field :=
  let g := { f with replays := 0, window := f.window + 64000 }
  if 32 < f.replays then { g with mv := min 750 (f.mv + 5) }
  else if f.replays ≤ 8 ∧ f.lowerAt ≤ now ∧ floorMv + 5 ≤ f.mv then { g with mv := f.mv - 5, lowerAt := now + 1000000 }
  else g

/-- LEAN_WINDOW_END: 64,000 cycles have passed in the window. -/
def execLeanWindowEnd (field : Nat) (s : State) : Out :=
  let x := s.field field
  if field < 6 ∧ x.lean ∧ x.window + 64000 ≤ x.cycle then
    .next ((s.updField field fun y => y.endWindow (nth s.image.floorMv field 750) s.ptpns).count .leanReplays field (replayBucket x.replays) 1)
  else .next s

/-- A ms of PTPNS. -/
def State.ms (s : State) : Nat := s.ptpns / 1000000

/-- HEAD is LIMIT less the baseline draw, 0 when that is negative (R425): the measurement of a ms. -/
def Field.measureHead (f : Field) (baseline ms : Nat) : Field := { f with head := f.limit - baseline, headAt := ms }

/-- HEADROOM_REMEASURE: one measurement in each ms. -/
def execHeadroomRemeasure (field baseline : Nat) (s : State) : Out :=
  let x := s.field field
  if field < 6 ∧ x.up ∧ x.headAt < s.ms then .next (s.updField field fun x => x.measureHead baseline s.ms) else .next s

/-- A field whose measurement of the last ms is still missing is measured: the baseline is whatever it draws (log 140). -/
def execHeadroomDue (field : Nat) (s : State) : Out :=
  let x := s.field field
  if field < 6 ∧ x.up ∧ x.headAt + 1 < s.ms then
    .next (s.fresh.updField field fun x => x.measureHead (Config.freeNat 63 s.freeCtr) (s.ms - 1))
  else .next s

end Sys2Proof.Machine
end

