-- ==== Sys2Proof/Machine/Registers.lean ====
section
/-! DEFINITION. Register writes without a behaviour of their own (R3, R89, R94), and the partition table's COMMIT (R93,
R94). -/

namespace Sys2Proof.Machine

/-! ## The window of a context (R89) -/

/-- Word `k` of a list of words. -/
def setWord (l : List DWord) (k : Nat) (x : DWord) : List DWord := l.set k x

/-- A write of 8 bytes to a register of a context's window; every other offset ignores it. -/
def Context.writeReg (c : Context) (offset : Nat) (x : DWord) : Context :=
  match offset with
  | 0x0008 => { c with ctxrec := x }
  | 0x0018 => { c with graphq := x }
  | 0x0020 => { c with fqhead := x.setWidth 32 }
  | 0x0040 => { c with qdesc := patchBytes c.qdesc 0 (leBytes x.toNat 8) }
  | 0x0048 => { c with qdesc := patchBytes c.qdesc 8 (leBytes x.toNat 8) }
  | 0x0050 => { c with qcmdcap := x }
  | 0x0080 => { c with mop := setWord c.mop 0 x }
  | 0x0088 => { c with mop := setWord c.mop 1 x }
  | 0x0090 => { c with mop := setWord c.mop 2 x }
  | 0x0100 => { c with dop := setWord c.dop 0 x }
  | 0x0108 => { c with dop := setWord c.dop 1 x }
  | 0x0110 => { c with dop := setWord c.dop 2 x }
  | 0x0118 => { c with dop := setWord c.dop 3 x }
  | 0x0208 => { c with lhead := x }
  | 0x0248 => { c with trace := { c.trace with base := BitVec.ofNat 64 (x.toNat / 4096 * 4096) } }
  | 0x0250 => { c with trace := { c.trace with head := x.toNat } }
  | _ => c

/-- A write to the enqueue window (R120): CAP and ITEM of a slot that is not busy. COMMIT has its own step. -/
def writeEnq (s : State) (c : Context) (off : Nat) (bytes : List Byte) : State :=
  let i := off / 128
  let o := off % 128
  let e := enqSlot c i
  if e.status = 4 then s
  else if o + bytes.length ≤ 8 then
    setEnqSlot s c.id i { e with cap := BitVec.ofNat 64 (fieldAt (patchBytes (leBytes e.cap.toNat 8) o bytes) 0 8) }
  else if 64 ≤ o ∧ o + bytes.length ≤ 128 then setEnqSlot s c.id i { e with item := patchBytes e.item (o - 64) bytes }
  else s

/-- A write of CTXCMD that names no command is refused (R88, R90); BIND to DESTROY have their own steps. -/
def writeCtxcmd (s : State) (c : Context) (x : DWord) : State :=
  if c.result = 4 ∨ (1 ≤ x.toNat % 256 ∧ x.toNat % 256 ≤ 6) then s else ctxResult s c.id c.state 1

/-- A write to a context's window: 8 bytes, 8-byte aligned, except in the enqueue window. -/
def writeContext (s : State) (c : Context) (offset size : Nat) (x : DWord) : State :=
  if size = 8 ∧ offset = 0 then writeCtxcmd s c x
  else if 0x1000 ≤ offset ∧ offset + size ≤ 0x2000 then writeEnq s c (offset - 0x1000) (leBytes x.toNat (min size 8))
  else if size = 8 ∧ offset % 8 = 0 then s.updCtx c.id fun y => y.writeReg offset x
  else s

/-! ## The physical function (R94) -/

/-- Writes staged bytes of PARTENT. -/
def writePartent (s : State) (off : Nat) (bytes : List Byte) : State :=
  { s with stagedParts := s.stagedParts.set (off / 64) (patchBytes (nth s.stagedParts (off / 64) unusedEntry) (off % 64) bytes) }

/-- Writes one staged entry of a slot table. -/
def writeSlot (s : State) (off x : Nat) : State :=
  let c := off / 256
  { s with stagedSlots := s.stagedSlots.set c ((nth s.stagedSlots c unusedSlots).set (off % 256 / 2) (x % 65536)) }

/-- A write to the physical function's window. -/
def writePhysical (s : State) (offset size : Nat) (x : DWord) : State :=
  if 0x10000 ≤ offset ∧ offset < 0x10400 ∧ size = 8 ∧ offset % 8 = 0 then writePartent s (offset - 0x10000) (leBytes x.toNat 8)
  else if 0x20000 ≤ offset ∧ offset < 0x20C00 ∧ size = 2 ∧ offset % 2 = 0 then writeSlot s (offset - 0x20000) x.toNat
  else if 0x20000 ≤ offset ∧ offset < 0x20C00 ∧ size = 8 ∧ offset % 8 = 0 then
    (List.range 4).foldl (fun a k => writeSlot a (offset - 0x20000 + 2 * k) (x.toNat / 2 ^ (16 * k))) s
  else s

/-- REGISTER_WRITE. The common page holds no register without a behaviour of its own. -/
def execRegisterWrite (win : Window) (offset size : Nat) (value : DWord) (s : State) : Out :=
  match win with
  | .vfCommon _ => .next s
  | .context vf ctx =>
    match windowOf s vf ctx with
    | some c => .next (writeContext s c offset size value)
    | none => .next s
  | .physical => .next (writePhysical s offset size value)

/-! ## COMMIT (R93, R94) -/

/-- The fields of a partition entry. -/
def PartEntry.read (b : List Byte) : PartEntry :=
  { partid := fieldAt b 0 2, vf := fieldAt b 2 1, wlus := fieldAt b 3 1, clusters := fieldAt b 4 4, ports := fieldAt b 8 2
    cmin := fieldAt b 10 1, nx := fieldAt b 11 1, ny := fieldAt b 12 1, nz := fieldAt b 13 1, vmin := fieldAt b 16 4
    ilog := fieldAt b 20 1
    banks := (List.range 12).map fun k => fieldAt b (24 + 2 * k) 2 }

def entryUsed (b : List Byte) : Bool := fieldAt b 0 2 ≠ 0xFFFF

/-- The limits of an entry's fields. -/
def PartEntry.ok (p : PartEntry) (b : List Byte) : Bool :=
  let extent (n : Nat) : Bool := decide (1 ≤ n) && decide (n ≤ 16)
  decide (1 ≤ p.vf) && decide (p.vf ≤ 16) && decide (p.wlus ≤ 8) && decide (p.clusters < 2 ^ 24) && decide (p.cmin ≤ 32)
    && extent p.nx && extent p.ny && extent p.nz && decide (p.vmin ≤ 8192) && decide (8 ≤ p.ilog) && decide (p.ilog ≤ 21)
    && fieldAt b 14 2 = 0 && fieldAt b 21 3 = 0 && (b.drop 48).all (· = 0)

/-- Two partitions share a cluster, a bank set or a port. -/
def PartEntry.shares (p q : PartEntry) : Bool :=
  (p.clusters &&& q.clusters) != 0 || (p.ports &&& q.ports) != 0 || (p.banks.zip q.banks).any fun x => (x.1 &&& x.2) != 0

/-- A context of a partition is `bound`, `running`, `pre-empted` or `stopping`. -/
def partActive (s : State) (part : Nat) : Bool := s.contexts.any fun c => c.part = part && decide (1 ≤ c.state) && decide (c.state ≤ 4)

/-- A slot table's entry of a partition changes. -/
def slotChanges (s : State) (part : Nat) : Bool :=
  (List.range 12).any fun c =>
    let old := nth s.slots c unusedSlots
    let new := nth s.stagedSlots c unusedSlots
    (old.zip new).any fun x => x.1 ≠ x.2 && (x.1 = part || x.2 = part)

/-- The staged entry `p` is at fault. -/
def entryFault (s : State) (p : Nat) : Bool :=
  let b := nth s.stagedParts p unusedEntry
  let old := nth s.partBytes p unusedEntry
  let x := PartEntry.read b
  let earlier := (s.stagedParts.take p).filter entryUsed
  let active (e : List Byte) : Bool := entryUsed e && partActive s (fieldAt e 0 2)
  (entryUsed b && (!x.ok b || earlier.any fun e => fieldAt e 0 2 = x.partid || (PartEntry.read e).shares x))
    || (b ≠ old && (active b || active old))
    || (active b && slotChanges s x.partid)
    || (active old && slotChanges s (fieldAt old 0 2))

/-- The guaranteed minima exceed what the chip holds. -/
def minimaExceed (s : State) : Bool :=
  let es := (s.stagedParts.filter entryUsed).map PartEntry.read
  decide (32 < es.foldl (fun n p => n + p.cmin) 0) || decide (8192 < es.foldl (fun n p => n + p.vmin) 0)

/-- A new partition table: the banks keep what they hold, so what an address reads follows the interleave (R439, log 103). -/
def newParts (s : State) (parts : List PartEntry) : State :=
  if parts = s.parts then s
  else
    { s with
      parts := parts
      mem := remapMemory s.parts parts s.mem
      tags := s.tags.map fun t => (addressOf parts (storedAt s.parts (256 * t.1)) / 256, t.2) }

/-- COMMIT checks the whole staged set and applies it in one step. While START is `off` or latched the management window is not up
and COMMIT does nothing; a slot entry that names a PARTID of no entry is accepted (log 104). -/
def execCommit (s : State) : Out :=
  if s.start = .off ∨ s.start = .latched then .next s
  else
    match (List.range 16).find? (entryFault s) with
    | some p => .next { s with ptres := resWord 3 p }
    | none =>
      if minimaExceed s then .next { s with ptres := resWord 3 0xFF }
      else
        let s1 := newParts s ((s.stagedParts.filter entryUsed).map PartEntry.read)
        .next { s1 with ptres := resWord 2 0, partBytes := s.stagedParts, slots := s.stagedSlots }

end Sys2Proof.Machine
end

