-- ==== Sys2Proof/Machine/Resolve.lean ====
section
/-! DEFINITION. The verdict on a tracked fault (R295 to R298, R440), and walks that complete (R293, R294). -/

namespace Sys2Proof.Machine

/-- PAGE_WALK_DONE: a walk for a core fills its TLBs with a present leaf that permits the access; an absent entry is never
cached, and the access that misses it records the fault when it issues (R294, R295). -/
def execPageWalkDone (core ctx : Nat) (va : DWord) (kind : Nat) (s : State) : Out :=
  if core ≥ 96 ∨ va.toNat ≥ 2 ^ 57 then .next s
  else
    match translate s core ctx va.toNat kind with
    | some (_, s1) => .next s1
    | none => .next s

/-- What a fragment is parked on, if that is a fault. -/
def faultOf (s : State) (w : FragId) : Option (Nat × Nat × DWord × Nat) :=
  ((s.group? w.group).bind fun g => g.frag? w.index).bind fun f =>
    match f.park with
    | some (.fault page kind addr lane) => some (page, kind, addr, lane)
    | _ => none

/-- A denied access takes a handler trap with cause 0x08 (R296). -/
def denyFrag (s : State) (w : FragId) : State :=
  match faultOf s w with
  | some (_, kind, addr, lane) => trapWaiting s w 8 addr (BitVec.ofNat 64 (kind + lane * 256))
  | none => s

/-- A denied engine access stops its operation (R265, R342, R370). -/
def denyEngine (s : State) (id : Nat) (va : DWord) (kind : Nat) : State :=
  match s.engine? id with
  | none => s
  | some e =>
    match e.kind with
    | .conv tid _ => (s.tensor? e.part tid).elim s fun t => haltConversion s t (some (8, va, kindFlags kind))
    | _ => failEngine s e 8 va (kindFlags kind)

/-- A denied operation of a controller ends with a record (R440): a graph item is dropped, a node's graph halts, a kernel
completes without its count, beats are discarded. -/
def denyCtl (ctx kind : Nat) (s : State) (w : CtlWait) (va : DWord) : State :=
  let record (a : State) : State := engineFault a ctx 8 va (kindFlags kind)
  match w with
  | .submit => record (s.updCtx ctx fun c => { c with graphItem := none })
  | .node gb n =>
    haltGraph ((record s).updNode ctx gb n fun x => if x.evaluating then { x with finished := true } else x) ctx gb
  | .kernel kid => (record s).updKernel kid fun k => { k with completion := 0 }
  | .beats b => breakSend (record s) b 9 va

/-- A denied access; of several denied fragments of one group the lowest index traps (R99). -/
def denyWaiter (t : Tracked) (s : State) : Waiter → State
  | .frag w => (byIndex (t.waiters.filterMap fun x =>
      match x with
      | .frag v => if v.group = w.group then some v else none
      | _ => none)).foldl denyFrag s
  | .engine id va => denyEngine s id va t.kind
  | .ctl w va => denyCtl t.ctx t.kind s w va

/-- A fragment's access. -/
def Waiter.isFrag : Waiter → Bool
  | .frag _ => true
  | _ => false

/-- The verdict applies to every access parked on the tracker's entry, in the order in which they parked: a denied one traps or
ends at once, in a halted block at DBGRESUME, and granted ones are still to replay. -/
def applyVerdict (s : State) (t : Tracked) (grant : Bool) : State :=
  let s1 := { s with tracker := s.tracker.filter fun x => !(x.ctx = t.ctx && x.page = t.page && x.kind = t.kind) }
  (if grant then s1 else t.waiters.foldl (denyWaiter t) s1).updCtx t.ctx fun c => 
    { c with replay := some ⟨t.page, t.kind, if grant then t.waiters else t.waiters.filter (·.isFrag)⟩ }

/-! ## Replays (R296, R298) -/

/-- A fragment that has woken to issue its parked instruction again, and has not yet. -/
def Fragment.toReplay (f : Fragment) : Bool := f.park.isNone && f.keptFloor.isSome

/-- The access has neither replayed nor trapped: its fragment waits for that fault alone, or is about to issue again. -/
def stillWaits (s : State) (r : Replay) : Waiter → Bool
  | .frag w =>
    ((faultOf s w).any fun p => p.1 = r.page && p.2.1 = r.kind) && !(s.tracker.any fun t => t.waiters.contains (.frag w))
      || ((s.group? w.group).bind fun g => g.frag? w.index).any (·.toReplay)
  | .engine id _ => (s.engine? id).isSome
  | .ctl _ _ => true

/-- In a halted block a granted access stays parked until DBGRESUME (R408). -/
def Waiter.halted (s : State) : Waiter → Bool
  | .frag w => (s.group? w.group).any (blockHalted s)
  | _ => false

/-- The turn of one access to replay: its fragment wakes, unless it has; `act` performs the access of an engine operation or a
controller. -/
def replayOne (act : State → Waiter → State) (s : State) : Waiter → State
  | .frag w => if (faultOf s w).isSome then retryFrag s w else s
  | w => act s w

/-- The accesses of a RESOLVE replay one after another, in the order in which they parked; with none left the command is done. -/
def replayStep (act : State → Waiter → State) (s : State) (ctx : Nat) : State :=
  match (s.ctx? ctx).bind (·.replay) with
  | none => s
  | some r =>
    let left := r.left.filter (stillWaits s r)
    if left = [] then (setMres s ctx 2).updCtx ctx fun c => { c with replay := none }
    else
      match left.find? fun w => !w.halted s with
      | none => s
      | some w =>
        let rest := match w with
          | .frag _ => left
          | _ => left.filter (· ≠ w)
        replayOne act (s.updCtx ctx fun c => { c with replay := some { r with left := rest } }) w

/-- RESOLVE: with no entry of the fault tracker it completes and has no effect (R299). -/
def execResolve (vf ctx : Nat) (s : State) : Out :=
  memCommand s vf ctx (fun c => mopAt c 1 % 256 < 3 && mopAt c 1 / 512 = 0 && mopAt c 2 = 0) fun c =>
    let page := mopAt c 0 / 65536
    let kind := mopAt c 1 % 256
    let grant := mopAt c 1 / 256 % 2 = 1
    match s.tracker.find? fun t => t.ctx = ctx && t.page = page && t.kind = kind with
    | none => setMres s ctx 2
    | some t => applyVerdict (setMres s ctx 1) t grant

end Sys2Proof.Machine
end

