-- ==== Sys2Proof/Machine/Start.lean ====
section
/-! DEFINITION. Starts (R420 to R424), attestation (R421) and the lifetime log (R429). -/

namespace Sys2Proof.Machine

/-! ## The states of a start (R422, R423) -/

/-- What every start and every loss of power leaves as it is: the controller's nonvolatile store, the host's and other chips'
memory, what has left the chip, time, and the model's own fields. -/
def State.cleared (s : State) : State :=
  { State.reset with
    failCount := s.failCount, starts := s.starts, paramSet := s.paramSet, paramOk := s.paramOk, flushedAt := s.flushedAt, image := s.image, portSampled := s.portSampled, ptpns := s.ptpns, ptpSub := s.ptpSub
    log := s.log, logFlushed := s.logFlushed, mgmtReply := s.mgmtReply, keyNumber := s.keyNumber, frames := s.frames
    frameSeq := s.frameSeq, sent := s.sent, acks := s.acks, replies := s.replies, chipid := s.chipid, mesh := s.mesh, hostMem := s.hostMem
    remoteMem := s.remoteMem, msix := s.msix, nextEngine := s.nextEngine, nextVest := s.nextVest, nextOrder := s.nextOrder
    seq := s.seq, agenda := s.agenda, freeCtr := s.freeCtr }

/-- A cold start begins at its first step. -/
def beginCold (s : State) : State :=
  { s.cleared with start := .cold, startStep := 1, starts := s.starts + 1 }.count .startCold 0 0 1

/-- COLD: from `off`. -/
def execCold (s : State) : Out := if s.start = .off then .next (beginCold s) else .next s

/-- The log is flushed (R429). -/
def State.flushLog (s : State) : State := { s with logFlushed := s.log, flushedAt := s.ptpns }

/-- WARM: every context is stopped and the warm steps run; the log is flushed (R429). -/
def execWarm (s : State) : Out :=
  if s.start = .ready then
    let s1 := (s.contexts.map (·.id)).foldl stopContext s
    let s2 := { s1 with start := .warm, startStep := 1, starts := s.starts + 1 }.count .startWarm 0 0 1
    .next s2.flushLog
  else .next s

/-- CLEARFAIL, with which the log may be cleared. -/
def execClearfail (clearLog : Bool) (s : State) : Out :=
  if s.start = .latched then
    .next { s with start := .off, failCount := 0, log := if clearLog then LifeLog.empty else s.log,
                   logFlushed := if clearLog then LifeLog.empty else s.logFlushed }
  else .next s

/-- A step fails: a warm start turns into a cold one, a cold one starts again, and the third failure in a row latches, which powers every
field down in good order: the log is flushed (R422, R429). -/
def failStart (s : State) (field : Option Nat) : State :=
  let s1 := s.count .startFailed s.startStep 0 1
  let s2 := { s1 with log := { s1.log with startFailure := some (s.startStep, field, s.ptpns) } }
  if s.start = .warm then beginCold s2
  else if s.failCount + 1 < 3 then beginCold { s2 with failCount := s.failCount + 1 }
  else { s2.flushLog.cleared with start := .latched, failCount := s.failCount + 1 }

/-- The image's bytes, as the model writes them out: all that is signed and measured. -/
def Image.bytes (i : Image) : List Byte :=
  i.firmware ++ i.repairs ++ i.limits.flatMap (leBytes · 2) ++ i.leanEnable.map (BitVec.ofBool · |>.setWidth 8)
    ++ i.floorMv.flatMap (leBytes · 2) ++ leBytes i.tthrot 2 ++ leBytes i.ttrip 2

/-- The image passes its check: its digest is that of its contents, the signature over the digest passes with the check key, and the key is
the one whose digest the ROM holds (R420). -/
def Image.valid (i : Image) : Bool :=
  decide (i.digest = shake256 i.bytes) && decide (shake256 i.key = Config.romKeyDigest) && Config.signatureOk i.key i.digest i.signature

/-- The order in which the fields start (R424). -/
def fieldOrder : List Nat := [2, 0, 5, 1, 3, 4]

/-- The field that starts next. -/
def nextField (s : State) : Option Nat := fieldOrder.find? fun f => !s.fieldsUp.contains f

/-- The chip is `ready` (R422): KQ is drawn, TGEN is 0, and a cold start has saved its training parameters. -/
def becomeReady (s : State) : State :=
  { s with start := .ready, startStep := 0, failCount := 0, keyNumber := s.keyNumber + 1, links := []
           paramSet := if s.start = .cold then s.starts else s.paramSet, paramOk := s.start == .cold || s.paramOk }

/-- What the start of step 2 or 6 does: every field goes down, with what its units hold; every port trains. -/
def enterStep (s : State) (n : Nat) : State :=
  let s1 := { s with startStep := n }
  if n = 2 then
    { s1 with fieldsUp := [], railAt := s.ptpns, fields := s.fields.map fun f => { f with up := false }, ports := List.replicate 16 .dark
              links := [], unacked := [], buffered := [], tlb := [], l1 := [], loopBufs := [], locks := [], engines := [] }
  else if n = 6 then { s1 with ports := List.replicate 16 .training }
  else s1

/-- The step after a completed one: a warm start skips 3 to 5, and fails without a saved set of parameters that passes its SHAKE256
check. -/
def afterStep (s : State) : State :=
  if s.startStep = 7 then becomeReady s
  else if s.start = .warm ∧ s.startStep = 2 then (if s.paramSet = 0 ∨ !s.paramOk then failStart s none else enterStep s 6)
  else enterStep s (s.startStep + 1)

def starting (s : State) : Bool := s.start == .cold || s.start == .warm

/-- What a step needs before it is over: the image passes its check, contexts have stopped, every port has trained. -/
def stepReady (s : State) : Bool :=
  match s.startStep with
  | 1 => !s.contexts.any fun c => c.state = 4
  | 2 => false
  | 6 => !s.ports.any (· == .training)
  | _ => true

/-- START_STEP_COMPLETE: the present step is over, or has failed. Step 2 is over when every field is up. -/
def execStartStepComplete (ok : Bool) (s : State) : Out :=
  if !starting s then .next s
  else if !ok ∨ (s.startStep = 1 ∧ !s.image.valid) then .next (failStart s none)
  else if stepReady s then .next (afterStep s)
  else .next s

/-- A field has 10 ms for its rail-good and lock (R424). -/
def railLimit : Nat := 10000000

/-- A field as it comes up: its clock is locked at 1.8 GHz and its cycles count from 0 (R103, R424, R425). -/
def Field.start (s : State) (f : Nat) : Field :=
  let limit := nth s.image.limits f 0
  { Field.reset with up := true, limit := limit, head := limit, headAt := s.ms, lean := leanEnable s f }

/-- FIELD_UP: rail-good and lock of the field that starts now, within 10 ms of the request of its rail; the next field's rail is asked
for. -/
def execFieldUp (field : Nat) (s : State) : Out :=
  if starting s ∧ s.startStep = 2 ∧ nextField s = some field ∧ s.ptpns ≤ s.railAt + railLimit then
    let s1 := (s.setField field (Field.start s field))
    let s2 := { s1 with fieldsUp := s1.fieldsUp ++ [field], railAt := s.ptpns }
    .next (if (nextField s2).isNone then afterStep s2 else s2)
  else .next s

/-- FIELD_START_TIMEOUT: 10 ms have passed without rail-good or lock. -/
def execFieldStartTimeout (s : State) : Out :=
  if starting s ∧ s.startStep = 2 ∧ s.railAt + railLimit < s.ptpns then .next (failStart s (nextField s)) else .next s

/-- FIELD_LOSS: while the chip runs (R19), or in a start, whose step fails (R424). -/
def execFieldLoss (field : Nat) (s : State) : Out :=
  if field ≥ 6 ∨ !(s.field field).up then .next s
  else if starting s then .next (failStart s (some field))
  else .next (loseField s field)

/-- THERMAL_TRIP: at TTRIP the field's rail is removed, which is a field loss, and the trip is recorded (R427, R429); in a start the step
fails (R424). -/
def execThermalTrip (field : Nat) (s : State) : Out :=
  let x := s.field field
  if field < 6 ∧ x.up ∧ hotter x.temp s.image.ttrip then
    let s1 := s.count .thermalTrip field 0 1
    let s2 := { s1 with log := { s1.log with trips := upsert s1.log.trips (fun p => p.1 = field) (field, s.ptpns) } }
    .next (if starting s then failStart s2 (some field) else loseField s2 field)
  else .next s

/-- STANDBY_POWER_LOSS: the chip is off, and the log is what was flushed last. -/
def execStandbyPowerLoss (s : State) : Out := .next { s.cleared with log := s.logFlushed, mgmtReply := .none }

/-! ## ATTEST (R421) -/

def execAttest (nonce : BitVec 256) (s : State) : Out :=
  let m := Config.measurement s.image.bytes s.paramSet s.paramOk
  .next { s with mgmtReply :=
    match s.start with
    | .ready => .report m nonce s.starts (Config.attestSignature m nonce s.starts)
    | .cold => if s.image.valid then .measurement (Config.imageMeasurement s.image.bytes) else .failed
    | .warm => if s.image.valid then .measurement (Config.imageMeasurement s.image.bytes) else .failed
    | _ => .failed }

/-! ## The log (R429) -/

def execLogread (s : State) : Out := .next { s with mgmtReply := .log s.log }

/-- LOG_FLUSH, every 60 s: the last flush is as long ago. -/
def execLogFlush (s : State) : Out := if s.flushedAt + State.flushPeriod ≤ s.ptpns then .next s.flushLog else .next s

/-- HBM_RETRAIN (R95). -/
def execHbmRetrain (stack : Nat) (s : State) : Out := if stack < 12 then .next (s.count .hbmRetrain stack 0 1) else .next s

/-- An hour of PTPNS. -/
def State.hour (s : State) : Nat := s.ptpns / 3600000000000

/-- The hours whose sample a port has. -/
def State.hoursOf (s : State) (port : Nat) : Nat := nth s.portSampled port 0

/-- A port's sample of an hour enters the log, in the bucket of its rate. -/
def samplePort (s : State) (port bucket hours : Nat) : State :=
  { s with portSampled := s.portSampled.set port hours }.count .portError port bucket 1

/-- PORT_ERROR_SAMPLE: one sample an hour. -/
def execPortErrorSample (port bucket : Nat) (s : State) : Out :=
  if port < 16 ∧ bucket < 8 ∧ s.hoursOf port ≤ s.hour then .next (samplePort s port bucket (s.hour + 1)) else .next s

/-- A port whose sample of an hour that is over is missing is sampled: the rate is whatever it was (log 140). -/
def execPortErrorDue (port : Nat) (s : State) : Out :=
  if port < 16 ∧ s.hoursOf port < s.hour then
    .next (samplePort s.fresh port (Config.freeNat 65 s.freeCtr % 8) (s.hoursOf port + 1))
  else .next s

end Sys2Proof.Machine
end

