-- ==== Sys2Proof/Machine/TileInstr.lean ====
section
/-! DEFINITION. Tile accesses by lanes (R269, R270) and tile management (R266, R267). -/

namespace Sys2Proof.Machine

/-! ## LDL, STL, ATOML

With em = 0 they read no register (R270), so with ordering bits they act as a FENCE at a scope that no tile decides: LDL and STL at
device scope, ATOML at cluster scope, the widest that a tile has (R307, log 100). -/

/-- Effective offsets of the lanes in em (R269). -/
def Iss.laneOffs (c : Iss) (sb a : BitVec 6) : List (Nat × Nat) :=
  c.emLanes.map fun i => (i, refOff (c.sv sb.toNat) + (c.v a.toNat i).toNat)

/-- FINFO of a lane access (R270): the lane and its offset. -/
def offInfo (a : Nat × Nat) : DWord := BitVec.ofNat 64 (a.1 * 256 + a.2 % 2 ^ 32 * 2 ^ 32)

/-- The checks of R86 for a lane access to a tile; with em = 0 it reads no reference (R270). -/
def Iss.tilePrep (c : Iss) (i : Instr) (u : Uses) (sb a : BitVec 6) : Except Stop Unit :=
  c.prepOwn i false u (if c.em = 0 then .ok () else refOwn (c.sv sb.toNat) (((c.laneOffs sb a).head?).elim 0 offInfo))

/-- The checks of R270 for a lane access: the tile, or the stop. -/
def tileChecks (s : State) (c : Iss) (r : DWord) (as : List (Nat × Nat)) (size : Nat) (write : Bool) : Except Stop Tile := do
  let fi := offInfo
  let (t, _) ← tileRef s c r levelSC ((as.head?).elim 0 fi)
  match as.find? fun a => decide (a.2 + size > t.size), as.find? fun a => decide (a.2 % size ≠ 0) with
  | some a, _ => trapWith 0x0F r (fi a)
  | none, some a => trapWith 0x0A r (fi a)
  | none, none =>
    match tileLocks s c t as size write r with
    | .ok _ => .ok t
    | .error e => .error e

def execLdl (f : BitVec 3) (d : BitVec 7) (sb a : BitVec 6) (o : BitVec 2) (s : State) : Out :=
  runIssue s fun c => do
    let (size, signed) := ldForm f.toNat
    let w := sizeRegs size
    let u := c.memUses sb a d 0 w
    c.tilePrep (.ldl f d sb a o) u sb a
    c.room s 1
    let r := c.sv sb.toNat
    if c.em = 0 then blockDest c d.toNat w (emptyAct s c u o.toNat 2 (some 1))
    else
      let as := c.laneOffs sb a
      let t ← tileChecks s c r as size false
      let scope := tileScope c t
      let s1 := if ordRel o.toNat then releaseScope s c scope else s
      let s2 := as.foldl (fun x p => flushRange x c.who.core (.tile t.id p.2) size) s1
      let vs : List (Acc × BitVec 64) := as.map fun p => (⟨some p.1, 0⟩,
        (extendTo (32 * w) size signed (leNat (readLoc s2 (.tile t.id p.2) size))).setWidth 64)
      let s3 := if ordAcq o.toNat then acquireScope s2 c scope else s2
      .ok (withGroup { s3 with seq := s3.seq + 1 } c fun g =>
        ((g.lastReads c u).openDest c 1 d.toNat w c.em).addOp
          { OutOp.mk' 1 s3.seq with lands := c.wordLandings d.toNat w vs })

def execStl (f : BitVec 3) (d : BitVec 7) (sb a : BitVec 6) (o : BitVec 2) (s : State) : Out :=
  runIssue s fun c => do
    let size := stSize f.toNat
    let u := c.memUses sb a d (sizeRegs size) 0
    c.tilePrep (.stl f d sb a o) u sb a
    c.room s 2
    let r := c.sv sb.toNat
    if c.em = 0 then emptyAct s c u o.toNat 2 (some 2)
    else
      let as := c.laneOffs sb a
      let t ← tileChecks s c r as size true
      let scope := tileScope c t
      let s1 := if ordRel o.toNat then releaseCore s c.who.core scope else s
      let s2 := if ordAcq o.toNat then acquireScope s1 c scope else s1
      let ops : List StoreOp := as.map fun p => .bytes (.tile t.id p.2) (c.storeData d size ⟨some p.1, 0⟩)
      let s3 := withGroup { s2 with seq := s2.seq + 1 } c fun g =>
        (g.lastReads c u).addOp { OutOp.mk' 2 s2.seq with stores := ops, release := ordRel o.toNat }
      .ok (if ordAcq o.toNat then acquireStore s3 c s2.seq [] else s3)

/-- One lane's step of an ATOML (R269). -/
def atomlNew (c : Iss) (f : Nat) (d : BitVec 7) (i : Nat) (old : Word) : Word :=
  match f with
  | 6 => c.v d.toNat i
  | 7 => if old = c.v d.toNat i then c.v d.toNat i 1 else old
  | _ => atomOp f old (c.v d.toNat i)

/-- The lanes act in increasing order, each on what the lanes before it left. -/
def atomlAll (c : Iss) (f : Nat) (d : BitVec 7) (id : Nat) : List (Nat × Nat) → State → List (Acc × BitVec 64) × State
  | [], s => ([], s)
  | (i, off) :: rest, s =>
    let old : Word := BitVec.ofNat 32 (leNat (readLoc s (.tile id off) 4))
    let s1 := writeLoc s (.tile id off) (leBytes (atomlNew c f d i old).toNat 4)
    let (vs, s2) := atomlAll c f d id rest s1
    ((⟨some i, 0⟩, old.setWidth 64) :: vs, s2)

def execAtoml (f : BitVec 3) (d : BitVec 7) (sb a : BitVec 6) (o : BitVec 2) (s : State) : Out :=
  runIssue s fun c => do
    let u := c.memUses sb a d (if f.toNat = 7 then 2 else 1) 1
    c.tilePrep (.atoml f d sb a o) u sb a
    c.room s 1
    let r := c.sv sb.toNat
    if c.em = 0 then blockAfter c (emptyAct s c u o.toNat 1 (some 1))
    else
      let as := c.laneOffs sb a
      let t ← tileChecks s c r as 4 true
      let scope := tileScope c t
      let s1 := if ordRel o.toNat then releaseScope s c scope else s
      let s2 := as.foldl (fun x p => flushRange x c.who.core (.tile t.id p.2) 4) s1
      let (vs, s3) := atomlAll c f.toNat d t.id as s2
      let s4 := if ordAcq o.toNat then acquireScope s3 c scope else s3
      .ok (withGroup { s4 with seq := s4.seq + 1 } c fun g =>
        (((g.lastReads c u).openDest c 1 d.toNat 1 c.em).blockStake).addOp
          { OutOp.mk' 1 s4.seq with lands := c.wordLandings d.toNat 1 vs })

/-! ## TALLOC, TFREE, TINFO, TZERO (R266, R267) -/

/-- The level that TALLOC's g names. -/
def tallocLevel (g : Nat) : TileLevel :=
  match g with
  | 0 => .s
  | 1 => .c
  | _ => .a

/-- A refusal's result (R266). -/
def tallocRefused (reason : Nat) : DWord := BitVec.ofNat 64 (2 ^ 63 + reason)

/-- A tile whose contents read as zero (R256). -/
def newTile (s : State) (c : Iss) (level : TileLevel) (k rows rb : Nat) (shape : Word) (p : Nat × Nat × Nat × Nat) : Tile :=
  let dom := s.domOf c.g
  { id := s.nextEngine, ctx := c.g.ctx, dom := dom, kid := c.g.kid, num := p.1, gen := genOf s dom p.1, level := level,
    core := c.who.core, holder := p.2.1, peer := if level = .c then k else 0, shape := shape, rows := rows, rb := rb,
    base := p.2.2.1, phase := p.2.2.2, bytes := [], tstat := 0, state := .live }

/-- TALLOC blocks a rewind at issue, but for one that is refused (R159, R266). -/
def execTalloc (d a b : BitVec 6) (g : BitVec 2) (s : State) : Out :=
  runIssue s fun c => do
    let level := tallocLevel g.toNat
    c.prep (.talloc d a b g) true (uniUses (.s a.toNat :: if level = .c then [.s b.toNat] else []) [.s d.toNat])
    c.room s 3
    let x := c.sv a.toNat
    let k := (c.sv b.toNat).toNat
    match shapeOf x with
    | none => trapWith 9 none x
    | some (rows, rb) =>
      need (shapeAllowed level x rows rb) 9 none x
      need (level ≠ .c || (decide (1 ≤ k) && decide (k ≤ 3))) 9
      match placeTile s c.who.core (s.domOf c.g) level k rows rb with
      | .error reason =>
        .ok (withGroup { s.fresh with seq := s.seq + 1 } c fun g => g.answer c.f.slices 3 s.seq d.toNat (tallocRefused reason))
      | .ok p =>
        let t := newTile s c level k rows rb (x.setWidth 32) p
        .ok (withGroup { s.fresh with seq := s.seq + 1, nextEngine := s.nextEngine + 1, tiles := s.tiles ++ [t] } c fun g =>
          g.blockStake.answer c.f.slices 3 s.seq d.toNat (BitVec.ofNat 64 (t.gen * 4096 + t.num)))

def execTfree (a : BitVec 6) (s : State) : Out :=
  runIssue s fun c => do
    let r := c.sv a.toNat
    c.prepOwn (.tfree a) true (uniUses [.s a.toNat] []) (refOwn r)
    let (t, _) ← tileRef s c r levelAny
    match lockOn s t with
    | some l => trapWith 5 r (lockFinfo l 0 0)
    | none => .ok (withGroup (freeTile s t) c Group.blockStake)

/-- LEVEL of a descriptor word (R255, R267). -/
def levelCode : TileLevel → Nat
  | .s => 1
  | .c => 2
  | .a => 3

/-- The descriptor word of a tile. -/
def tileInfo (s : State) (t : Tile) : DWord :=
  BitVec.ofNat 64 (t.shape.toNat * 2 ^ 32 + levelCode t.level * 2 ^ 30 + t.peer * 2 ^ 28
    + (if (lockOn s t).isSome then 2 ^ 24 else 0) + t.size / 16)

/-- TINFO: 0 for an invalid handle; an A handle of another core traps (R254). -/
def execTinfo (d a : BitVec 6) (s : State) : Out :=
  runIssue s fun c => do
    c.prep (.tinfo d a) true (uniUses [.s a.toNat] [.s d.toNat])
    c.room s 3
    let r := c.sv a.toNat
    let found := if refClean r then s.tileOf (s.domOf c.g) (refHandle r) else none
    need (found.all fun t => t.level != .a || t.core = c.who.core) 0x10 r
    .ok (withGroup { s with seq := s.seq + 1 } c fun g => g.answer c.f.slices 3 s.seq d.toNat (found.elim 0 (tileInfo s)))

/-- The free-space word of a core (R267). -/
def freeSpace (s : State) (core : Nat) : DWord :=
  let chunks := (inBanks s core).foldl (fun n t => n + t.size / 16) 0
  BitVec.ofNat 64 ((4096 - tableUse s core) * 2 ^ 48 + (64 - (inStore s core).length) * 2 ^ 32 + (32 * 6144 - chunks))

def execTinfoFree (d : BitVec 6) (s : State) : Out :=
  runIssue s fun c => do
    c.prep (.tinfoFree d) true (uniUses [] [.s d.toNat])
    c.room s 3
    .ok (withGroup { s with seq := s.seq + 1 } c fun g => g.answer c.f.slices 3 s.seq d.toNat (freeSpace s c.who.core))

/-- TZERO: an A tile whole, with TSTAT cleared (R279); an S or C tile from OFF to its end. -/
def execTzero (a : BitVec 6) (s : State) : Out :=
  runIssue s fun c => do
    let r := c.sv a.toNat
    c.prepOwn (.tzero a) true (uniUses [.s a.toNat] []) (refOwn r)
    let (t, o) ← tileRef s c r levelAny
    let off := if t.level = .a then 0 else o
    need (decide (off < t.size)) 0x0F r
    tileLock s c t off (t.size - off) true r
    let s1 := flushRange s c.who.core (.tile t.id off) (t.size - off)
    .ok (withGroup { s1 with tiles := s1.tiles.map fun x =>
      if x.id = t.id then { x with bytes := x.bytes.filter fun p => p.1 < off, tstat := if t.level = .a then 0 else x.tstat }
      else x } c id)

end Sys2Proof.Machine
end

