-- ==== Sys2Proof/Machine/Dispatch.lean ====
section
/-! DEFINITION. One arm for each instruction, step and event of the opcode table. -/

namespace Sys2Proof.Machine

def exec (i : Instr) (s : State) : Host.Outcome State Fault Refusal :=
  match i with
  | .iadd f d a b => Sys2Proof.Machine.execIadd f d a b s
  | .isub f d a b => Sys2Proof.Machine.execIsub f d a b s
  | .imul f d a b => Sys2Proof.Machine.execImul f d a b s
  | .imad f d a b => Sys2Proof.Machine.execImad f d a b s
  | .imin f d a b => Sys2Proof.Machine.execImin f d a b s
  | .imax f d a b => Sys2Proof.Machine.execImax f d a b s
  | .iabs f d a => Sys2Proof.Machine.execIabs f d a s
  | .ineg f d a => Sys2Proof.Machine.execIneg f d a s
  | .and d a b => Sys2Proof.Machine.execAnd d a b s
  | .or d a b => Sys2Proof.Machine.execOr d a b s
  | .xor d a b => Sys2Proof.Machine.execXor d a b s
  | .andn d a b => Sys2Proof.Machine.execAndn d a b s
  | .not d a => Sys2Proof.Machine.execNot d a s
  | .shl d a b => Sys2Proof.Machine.execShl d a b s
  | .shr f d a b => Sys2Proof.Machine.execShr f d a b s
  | .rot f d a b => Sys2Proof.Machine.execRot f d a b s
  | .popc d a => Sys2Proof.Machine.execPopc d a s
  | .clz d a => Sys2Proof.Machine.execClz d a s
  | .brev d a => Sys2Proof.Machine.execBrev d a s
  | .bfx f d a b => Sys2Proof.Machine.execBfx f d a b s
  | .bfi d a b => Sys2Proof.Machine.execBfi d a b s
  | .icmp f d a b => Sys2Proof.Machine.execIcmp f d a b s
  | .icmpu f d a b => Sys2Proof.Machine.execIcmpu f d a b s
  | .sel f d a b => Sys2Proof.Machine.execSel f d a b s
  | .mov d a => Sys2Proof.Machine.execMov d a s
  | .movl d => Sys2Proof.Machine.execMovl d s
  | .iadd64 d a b => Sys2Proof.Machine.execIadd64 d a b s
  | .imulw f d a b => Sys2Proof.Machine.execImulw f d a b s
  | .cvti f d a => Sys2Proof.Machine.execCvti f d a s
  | .idot4 f d a b => Sys2Proof.Machine.execIdot4 f d a b s
  | .lidx f d => Sys2Proof.Machine.execLidx f d s
  | .permb f d a b => Sys2Proof.Machine.execPermb f d a b s
  | .balign f d a b => Sys2Proof.Machine.execBalign f d a b s
  | .shfl d a b => Sys2Proof.Machine.execShfl d a b s
  | .shup f d a b => Sys2Proof.Machine.execShup f d a b s
  | .shdn f d a b => Sys2Proof.Machine.execShdn f d a b s
  | .shflx d a b => Sys2Proof.Machine.execShflx d a b s
  | .bcst d a b => Sys2Proof.Machine.execBcst d a b s
  | .bsel d a b => Sys2Proof.Machine.execBsel d a b s
  | .fadd f d a b => Sys2Proof.Machine.execFadd f d a b s
  | .fsub f d a b => Sys2Proof.Machine.execFsub f d a b s
  | .fmul f d a b => Sys2Proof.Machine.execFmul f d a b s
  | .ffma f d a b => Sys2Proof.Machine.execFfma f d a b s
  | .fmin d a b => Sys2Proof.Machine.execFmin d a b s
  | .fmax d a b => Sys2Proof.Machine.execFmax d a b s
  | .fsgn f d a b => Sys2Proof.Machine.execFsgn f d a b s
  | .fcmp f d a b => Sys2Proof.Machine.execFcmp f d a b s
  | .fclass d a b => Sys2Proof.Machine.execFclass d a b s
  | .frcp f d a => Sys2Proof.Machine.execFrcp f d a s
  | .frsq f d a => Sys2Proof.Machine.execFrsq f d a s
  | .fsqrt f d a => Sys2Proof.Machine.execFsqrt f d a s
  | .fexp2 f d a => Sys2Proof.Machine.execFexp2 f d a s
  | .flog2 f d a => Sys2Proof.Machine.execFlog2 f d a s
  | .ftanh f d a => Sys2Proof.Machine.execFtanh f d a s
  | .fdiv f d a b => Sys2Proof.Machine.execFdiv f d a b s
  | .hadd2 f d a b => Sys2Proof.Machine.execHadd2 f d a b s
  | .hmul2 f d a b => Sys2Proof.Machine.execHmul2 f d a b s
  | .hfma2 f d a b => Sys2Proof.Machine.execHfma2 f d a b s
  | .cvtf f d a b => Sys2Proof.Machine.execCvtf f d a b s
  | .frnd f d a => Sys2Proof.Machine.execFrnd f d a s
  | .fscl f d a b => Sys2Proof.Machine.execFscl f d a b s
  | .cvtfi f d a b => Sys2Proof.Machine.execCvtfi f d a b s
  | .cvtif f d a b => Sys2Proof.Machine.execCvtif f d a b s
  | .packn f d a b => Sys2Proof.Machine.execPackn f d a b s
  | .unpkn f d a b => Sys2Proof.Machine.execUnpkn f d a b s
  | .ld f d sb a o => Sys2Proof.Machine.execLd f d sb a o s
  | .st f d sb a o => Sys2Proof.Machine.execSt f d sb a o s
  | .ldl f d sb a o => Sys2Proof.Machine.execLdl f d sb a o s
  | .stl f d sb a o => Sys2Proof.Machine.execStl f d sb a o s
  | .atomC f d sb a o => Sys2Proof.Machine.execAtomC f d sb a o s
  | .atomD f d sb a o => Sys2Proof.Machine.execAtomD f d sb a o s
  | .atomS f d sb a o => Sys2Proof.Machine.execAtomS f d sb a o s
  | .atoml f d sb a o => Sys2Proof.Machine.execAtoml f d sb a o s
  | .xchg f d sb a o => Sys2Proof.Machine.execXchg f d sb a o s
  | .cas f d sb a o => Sys2Proof.Machine.execCas f d sb a o s
  | .red f d sb a o => Sys2Proof.Machine.execRed f d sb a o s
  | .ldf f d sb a o => Sys2Proof.Machine.execLdf f d sb a o s
  | .pref f sb a => Sys2Proof.Machine.execPref f sb a s
  | .sadd f d a b => Sys2Proof.Machine.execSadd f d a b s
  | .ssub f d a b => Sys2Proof.Machine.execSsub f d a b s
  | .smul d a b => Sys2Proof.Machine.execSmul d a b s
  | .smulh f d a b => Sys2Proof.Machine.execSmulh f d a b s
  | .sand d a b => Sys2Proof.Machine.execSand d a b s
  | .sor d a b => Sys2Proof.Machine.execSor d a b s
  | .sxor d a b => Sys2Proof.Machine.execSxor d a b s
  | .sshl d a b => Sys2Proof.Machine.execSshl d a b s
  | .sshr f d a b => Sys2Proof.Machine.execSshr f d a b s
  | .smin f d a b => Sys2Proof.Machine.execSmin f d a b s
  | .smax f d a b => Sys2Proof.Machine.execSmax f d a b s
  | .scmp f d a b => Sys2Proof.Machine.execScmp f d a b s
  | .ssel d a b => Sys2Proof.Machine.execSsel d a b s
  | .smov d a => Sys2Proof.Machine.execSmov d a s
  | .smovi d imm => Sys2Proof.Machine.execSmovi d imm s
  | .slui f d imm => Sys2Proof.Machine.execSlui f d imm s
  | .smovl d => Sys2Proof.Machine.execSmovl d s
  | .spopc d a => Sys2Proof.Machine.execSpopc d a s
  | .sclz d a => Sys2Proof.Machine.execSclz d a s
  | .sbfx f d a b => Sys2Proof.Machine.execSbfx f d a b s
  | .sld f d a b g => Sys2Proof.Machine.execSld f d a b g s
  | .sst f d a b g => Sys2Proof.Machine.execSst f d a b g s
  | .saddi d imm => Sys2Proof.Machine.execSaddi d imm s
  | .mand d a b => Sys2Proof.Machine.execMand d a b s
  | .mor d a b => Sys2Proof.Machine.execMor d a b s
  | .mxor d a b => Sys2Proof.Machine.execMxor d a b s
  | .mnot d a => Sys2Proof.Machine.execMnot d a s
  | .mmov f d a => Sys2Proof.Machine.execMmov f d a s
  | .emrd f d => Sys2Proof.Machine.execEmrd f d s
  | .emwr f a => Sys2Proof.Machine.execEmwr f a s
  | .ballot d a => Sys2Proof.Machine.execBallot d a s
  | .mpopc f d a => Sys2Proof.Machine.execMpopc f d a s
  | .mfirst f d a => Sys2Proof.Machine.execMfirst f d a s
  | .rdlane d a b g => Sys2Proof.Machine.execRdlane d a b g s
  | .wrlane d a b g => Sys2Proof.Machine.execWrlane d a b g s
  | .redux f d a => Sys2Proof.Machine.execRedux f d a s
  | .vbcst f d a => Sys2Proof.Machine.execVbcst f d a s
  | .srd f d a => Sys2Proof.Machine.execSrd f d a s
  | .swr d a => Sys2Proof.Machine.execSwr d a s
  | .bra c r p => Sys2Proof.Machine.execBra c r p s
  | .jmpi a => Sys2Proof.Machine.execJmpi a s
  | .call p => Sys2Proof.Machine.execCall p s
  | .calli a => Sys2Proof.Machine.execCalli a s
  | .ret => Sys2Proof.Machine.execRet s
  | .split c r p => Sys2Proof.Machine.execSplit c r p s
  | .regang => Sys2Proof.Machine.execRegang s
  | .meld d imm => Sys2Proof.Machine.execMeld d imm s
  | .mtab d a g => Sys2Proof.Machine.execMtab d a g s
  | .mtabClr => Sys2Proof.Machine.execMtabClr s
  | .stake imm => Sys2Proof.Machine.execStake imm s
  | .tail => Sys2Proof.Machine.execTail s
  | .exit => Sys2Proof.Machine.execExit s
  | .yield p => Sys2Proof.Machine.execYield p s
  | .wait f imm => Sys2Proof.Machine.execWait f imm s
  | .syncl a => Sys2Proof.Machine.execSyncl a s
  | .trap imm => Sys2Proof.Machine.execTrap imm s
  | .tret => Sys2Proof.Machine.execTret s
  | .brk imm => Sys2Proof.Machine.execBrk imm s
  | .icinv a b g => Sys2Proof.Machine.execIcinv a b g s
  | .ifence => Sys2Proof.Machine.execIfence s
  | .fence g => Sys2Proof.Machine.execFence g s
  | .nop => Sys2Proof.Machine.execNop s
  | .loopb c r p => Sys2Proof.Machine.execLoopb c r p s
  | .tmark f imm => Sys2Proof.Machine.execTmark f imm s
  | .bari a b => Sys2Proof.Machine.execBari a b s
  | .bariBytes a => Sys2Proof.Machine.execBariBytes a s
  | .bara d a g => Sys2Proof.Machine.execBara d a g s
  | .barw a b => Sys2Proof.Machine.execBarw a b s
  | .bart d a b g => Sys2Proof.Machine.execBart d a b g s
  | .barx a => Sys2Proof.Machine.execBarx a s
  | .barb => Sys2Proof.Machine.execBarb s
  | .phase f d a => Sys2Proof.Machine.execPhase f d a s
  | .talloc d a b g => Sys2Proof.Machine.execTalloc d a b g s
  | .tfree a => Sys2Proof.Machine.execTfree a s
  | .tinfo d a => Sys2Proof.Machine.execTinfo d a s
  | .tinfoFree d => Sys2Proof.Machine.execTinfoFree d s
  | .tzero a => Sys2Proof.Machine.execTzero a s
  | .trd f d a => Sys2Proof.Machine.execTrd f d a s
  | .trdSt d a => Sys2Proof.Machine.execTrdSt d a s
  | .twr f a b => Sys2Proof.Machine.execTwr f a b s
  | .mma f a b => Sys2Proof.Machine.execMma f a b s
  | .mmag f d a b => Sys2Proof.Machine.execMmag f d a b s
  | .cpyk a b => Sys2Proof.Machine.execCpyk a b s
  | .qenq f d a b g => Sys2Proof.Machine.execQenq f d a b g s
  | .qdeq f d a b g => Sys2Proof.Machine.execQdeq f d a b g s
  | .qsteal f d a b => Sys2Proof.Machine.execQsteal f d a b s
  | .qinfo d a => Sys2Proof.Machine.execQinfo d a s
  | .qcap f d a => Sys2Proof.Machine.execQcap f d a s
  | .launch d a b => Sys2Proof.Machine.execLaunch d a b s
  | .renew d a b => Sys2Proof.Machine.execRenew d a b s
  | .signal d a b g => Sys2Proof.Machine.execSignal d a b g s
  | .gfloor imm => Sys2Proof.Machine.execGfloor imm s
  | .gcap imm => Sys2Proof.Machine.execGcap imm s
  | .gread d a => Sys2Proof.Machine.execGread d a s
  | .gwait f a b => Sys2Proof.Machine.execGwait f a b s
  | .amend f a b => Sys2Proof.Machine.execAmend f a b s
  | .gstat f d => Sys2Proof.Machine.execGstat f d s
  | .pdecl d a => Sys2Proof.Machine.execPdecl d a s
  | .pconv d a b g => Sys2Proof.Machine.execPconv d a b g s
  | .pld d a b g => Sys2Proof.Machine.execPld d a b g s
  | .pstat f d a => Sys2Proof.Machine.execPstat f d a s
  | .pfree a => Sys2Proof.Machine.execPfree a s
  | .xsend d a b => Sys2Proof.Machine.execXsend d a b s
  | .xsendLand d a => Sys2Proof.Machine.execXsendLand d a s
  | .reconf d a b => Sys2Proof.Machine.execReconf d a b s
  | .slots d a b => Sys2Proof.Machine.execSlots d a b s
  | .coll f d a => Sys2Proof.Machine.execColl f d a s
  | .illegalInstruction => Sys2Proof.Machine.execIllegalInstruction s
  | .faultyBundle => Sys2Proof.Machine.execFaultyBundle s
  | .create vf => Sys2Proof.Machine.execCreate vf s
  | .bind vf ctx upper => Sys2Proof.Machine.execBind vf ctx upper s
  | .run vf ctx upper => Sys2Proof.Machine.execRun vf ctx upper s
  | .preempt vf ctx upper => Sys2Proof.Machine.execPreempt vf ctx upper s
  | .preemptDone ctx => Sys2Proof.Machine.execPreemptDone ctx s
  | .resume vf ctx upper => Sys2Proof.Machine.execResume vf ctx upper s
  | .stop vf ctx upper => Sys2Proof.Machine.execStop vf ctx upper s
  | .contextStopped ctx => Sys2Proof.Machine.execContextStopped ctx s
  | .destroy vf ctx upper => Sys2Proof.Machine.execDestroy vf ctx upper s
  | .qcreate vf ctx => Sys2Proof.Machine.execQcreate vf ctx s
  | .seal vf ctx => Sys2Proof.Machine.execSeal vf ctx s
  | .qdestroy vf ctx => Sys2Proof.Machine.execQdestroy vf ctx s
  | .enqCommit vf ctx slot value => Sys2Proof.Machine.execEnqCommit vf ctx slot value s
  | .inval vf ctx => Sys2Proof.Machine.execInval vf ctx s
  | .invalDone ctx => Sys2Proof.Machine.execInvalDone ctx s
  | .resolve vf ctx => Sys2Proof.Machine.execResolve vf ctx s
  | .dirtyscan vf ctx => Sys2Proof.Machine.execDirtyscan vf ctx s
  | .hostAmend vf ctx => Sys2Proof.Machine.execHostAmend vf ctx s
  | .dbgstop vf ctx => Sys2Proof.Machine.execDbgstop vf ctx s
  | .blockHalted kid block => Sys2Proof.Machine.execBlockHalted kid block s
  | .dbgread vf ctx => Sys2Proof.Machine.execDbgread vf ctx s
  | .dbgresume vf ctx => Sys2Proof.Machine.execDbgresume vf ctx s
  | .dbgctl vf ctx => Sys2Proof.Machine.execDbgctl vf ctx s
  | .commit => Sys2Proof.Machine.execCommit s
  | .pitchWrite ix bytes => Sys2Proof.Machine.execPitchWrite ix bytes s
  | .capbaseWrite n value => Sys2Proof.Machine.execCapbaseWrite n value s
  | .capctlWrite n value => Sys2Proof.Machine.execCapctlWrite n value s
  | .lctlWrite vf ctx value => Sys2Proof.Machine.execLctlWrite vf ctx value s
  | .tctlWrite vf ctx value => Sys2Proof.Machine.execTctlWrite vf ctx value s
  | .registerWrite win offset size value => Sys2Proof.Machine.execRegisterWrite win offset size value s
  | .attest nonce => Sys2Proof.Machine.execAttest nonce s
  | .cold => Sys2Proof.Machine.execCold s
  | .warm => Sys2Proof.Machine.execWarm s
  | .clearfail clearLog => Sys2Proof.Machine.execClearfail clearLog s
  | .logread => Sys2Proof.Machine.execLogread s
  | .fieldUp field => Sys2Proof.Machine.execFieldUp field s
  | .fieldStartTimeout => Sys2Proof.Machine.execFieldStartTimeout s
  | .fieldLoss field => Sys2Proof.Machine.execFieldLoss field s
  | .portTrained port => Sys2Proof.Machine.execPortTrained port s
  | .circuitUp port => Sys2Proof.Machine.execCircuitUp port s
  | .portDrained port => Sys2Proof.Machine.execPortDrained port s
  | .portFault port => Sys2Proof.Machine.execPortFault port s
  | .portRetrained port => Sys2Proof.Machine.execPortRetrained port s
  | .reconfDrained part => Sys2Proof.Machine.execReconfDrained part s
  | .switchDone seq part gen => Sys2Proof.Machine.execSwitchDone seq part gen s
  | .switchNak seq part gen reason => Sys2Proof.Machine.execSwitchNak seq part gen reason s
  | .switchPlanok seq part gen => Sys2Proof.Machine.execSwitchPlanok seq part gen s
  | .switchTime time => Sys2Proof.Machine.execSwitchTime time s
  | .controlRetryTimeout part => Sys2Proof.Machine.execControlRetryTimeout part s
  | .planEpoch part => Sys2Proof.Machine.execPlanEpoch part s
  | .slotStart part => Sys2Proof.Machine.execSlotStart part s
  | .slotWindowOpen part => Sys2Proof.Machine.execSlotWindowOpen part s
  | .slotWindowClose part => Sys2Proof.Machine.execSlotWindowClose part s
  | .sendBeatArrival beats => Sys2Proof.Machine.execSendBeatArrival beats s
  | .sendComplete id => Sys2Proof.Machine.execSendComplete id s
  | .phaseFlitArrival part key count chip => Sys2Proof.Machine.execPhaseFlitArrival part key count chip s
  | .phaseRelease kid level inst => Sys2Proof.Machine.execPhaseRelease kid level inst s
  | .blockBarrierRelease kid block => Sys2Proof.Machine.execBlockBarrierRelease kid block s
  | .combineSlotGrant id => Sys2Proof.Machine.execCombineSlotGrant id s
  | .collChunkDone id chunk => Sys2Proof.Machine.execCollChunkDone id chunk s
  | .collTimeoutFlush id => Sys2Proof.Machine.execCollTimeoutFlush id s
  | .lateContribution id rank grade bytes => Sys2Proof.Machine.execLateContribution id rank grade bytes s
  | .placementDescriptorArrival part chip bytes => Sys2Proof.Machine.execPlacementDescriptorArrival part chip bytes s
  | .conversionStep part tid peers => Sys2Proof.Machine.execConversionStep part tid peers s
  | .conversionTileArrival part tid tile => Sys2Proof.Machine.execConversionTileArrival part tid tile s
  | .conversionComplete part tid => Sys2Proof.Machine.execConversionComplete part tid s
  | .placementCommit part tid => Sys2Proof.Machine.execPlacementCommit part tid s
  | .pldCopyDone id => Sys2Proof.Machine.execPldCopyDone id s
  | .copyRecordDone id => Sys2Proof.Machine.execCopyRecordDone id s
  | .engineLockAdmit id => Sys2Proof.Machine.execEngineLockAdmit id s
  | .mmaGatherDone id => Sys2Proof.Machine.execMmaGatherDone id s
  | .mmaComplete id => Sys2Proof.Machine.execMmaComplete id s
  | .loadDataLands g counter index lanes => Sys2Proof.Machine.execLoadDataLands g counter index lanes s
  | .storePerformed g index => Sys2Proof.Machine.execStorePerformed g index s
  | .vcResultLands g index lanes => Sys2Proof.Machine.execVcResultLands g index lanes s
  | .pageWalkDone core ctx va kind => Sys2Proof.Machine.execPageWalkDone core ctx va kind s
  | .faultRecordWrite ctx => Sys2Proof.Machine.execFaultRecordWrite ctx s
  | .fragmentWake who => Sys2Proof.Machine.execFragmentWake who s
  | .gradePollReissue who => Sys2Proof.Machine.execGradePollReissue who s
  | .amendmentReport => Sys2Proof.Machine.execAmendmentReport s
  | .vestibuleRelease => Sys2Proof.Machine.execVestibuleRelease s
  | .vestibuleSpaceFreed => Sys2Proof.Machine.execVestibuleSpaceFreed s
  | .hostGradedWriteDrop pa => Sys2Proof.Machine.execHostGradedWriteDrop pa s
  | .engineEnqueueRetry id => Sys2Proof.Machine.execEngineEnqueueRetry id s
  | .ringHeadPoll ctx desc => Sys2Proof.Machine.execRingHeadPoll ctx desc s
  | .ringTmaxExpiry ctx desc => Sys2Proof.Machine.execRingTmaxExpiry ctx desc s
  | .graphSubmit ctx => Sys2Proof.Machine.execGraphSubmit ctx s
  | .nodeFire ctx gbase node => Sys2Proof.Machine.execNodeFire ctx gbase node s
  | .nodeComplete ctx gbase node => Sys2Proof.Machine.execNodeComplete ctx gbase node s
  | .blockPlace kid => Sys2Proof.Machine.execBlockPlace kid s
  | .launchStarvationTimeout kid => Sys2Proof.Machine.execLaunchStarvationTimeout kid s
  | .governorEvaluation => Sys2Proof.Machine.execGovernorEvaluation s
  | .kernelComplete kid => Sys2Proof.Machine.execKernelComplete kid s
  | .groupRetire g => Sys2Proof.Machine.execGroupRetire g s
  | .trackerEntryFreed g => Sys2Proof.Machine.execTrackerEntryFreed g s
  | .tileScrubDone id => Sys2Proof.Machine.execTileScrubDone id s
  | .scratchpadEccError core dom handle kind => Sys2Proof.Machine.execScratchpadEccError core dom handle kind s
  | .regangFuse g => Sys2Proof.Machine.execRegangFuse g s
  | .fragmentPromote who => Sys2Proof.Machine.execFragmentPromote who s
  | .stakemaxFullSave g => Sys2Proof.Machine.execStakemaxFullSave g s
  | .wcLineDrain core line => Sys2Proof.Machine.execWcLineDrain core line s
  | .lanternSample ctx core quarter pick => Sys2Proof.Machine.execLanternSample ctx core quarter pick s
  | .lanternRecord who meas => Sys2Proof.Machine.execLanternRecord who meas s
  | .lanternLate who meas => Sys2Proof.Machine.execLanternLate who meas s
  | .traceResume ctx => Sys2Proof.Machine.execTraceResume ctx s
  | .powerSample field draw temp => Sys2Proof.Machine.execPowerSample field draw temp s
  | .captureDone n => Sys2Proof.Machine.execCaptureDone n s
  | .powerLimitThrottle field => Sys2Proof.Machine.execPowerLimitThrottle field s
  | .throttleClockStep field => Sys2Proof.Machine.execThrottleClockStep field s
  | .thermalThrottle field => Sys2Proof.Machine.execThermalThrottle field s
  | .thermalTrip field => Sys2Proof.Machine.execThermalTrip field s
  | .leanReplay field => Sys2Proof.Machine.execLeanReplay field s
  | .leanWindowEnd field => Sys2Proof.Machine.execLeanWindowEnd field s
  | .headroomRemeasure field baseline => Sys2Proof.Machine.execHeadroomRemeasure field baseline s
  | .logFlush => Sys2Proof.Machine.execLogFlush s
  | .startStepComplete ok => Sys2Proof.Machine.execStartStepComplete ok s
  | .standbyPowerLoss => Sys2Proof.Machine.execStandbyPowerLoss s
  | .remoteAccessArrival acc => Sys2Proof.Machine.execRemoteAccessArrival acc s
  | .collectivePeerFlit id rank flit => Sys2Proof.Machine.execCollectivePeerFlit id rank flit s
  | .sendFaultReport id cause addr => Sys2Proof.Machine.execSendFaultReport id cause addr s
  | .hostMemoryWrite pa bytes => Sys2Proof.Machine.execHostMemoryWrite pa bytes s
  | .controlFrameCrcFail => Sys2Proof.Machine.execControlFrameCrcFail s
  | .hbmRetrain stack => Sys2Proof.Machine.execHbmRetrain stack s
  | .portErrorSample port bucket => Sys2Proof.Machine.execPortErrorSample port bucket s

end Sys2Proof.Machine
end

