-- ==== Sys2Proof/Machine/Place.lean ====
section
/-! DEFINITION. The placing of one instruction for the next step (log 7): what system software and a LAUNCH would have
built around it. -/

namespace Sys2Proof.Machine

/-- Page tables with one leaf of 1 GiB at virtual address 0, readable, writable, executable and dirty (R290, R291). -/
def placeTables (m : Memory) : Memory :=
  writeNat (writeNat (writeNat m 0x1000 8 0x2001) 0x2000 8 0x3001) 0x3000 8 0x7B

/-- MOVL and SMOVL stand only in slot 2 of a literal bundle (R66). -/
def needsLiteral (w : Word) : Bool := w.toNat / 2 ^ 24 = 0x19 || w.toNat / 2 ^ 24 = 0x90

/-- The bundle that holds the word: slot 1 of a plain bundle, or slot 2 of a literal one with literal 0. -/
def placeBundle (w : Word) : Nat :=
  if needsLiteral w then 0x40000000 + 0xBD000000 * 2 ^ 32 + w.toNat * 2 ^ 64
  else w.toNat * 2 ^ 32 + 0xBD000000 * 2 ^ 64 + 0xBD000000 * 2 ^ 96

def placePart : PartEntry :=
  { partid := 1, vf := 1, wlus := 2, clusters := 0xFFFFFF, ports := 0, cmin := 0, nx := 1, ny := 1, nz := 1, vmin := 0,
    ilog := 8, banks := List.replicate 12 0xFFFF }

def placeRecord : CtxRec :=
  { ptroot := 0x1000, tvec := 0x10004, fqbase := 0x4000, fqsize := 16, fqvec := 0, amdepth := 8, stakemax := 50000,
    stataddr := 0x5000, dirtyaddr := 0, partid := 1 }

def placeLaunch : LaunchRec :=
  { code := 0x10000, gridX := 1, gridY := 1, gridZ := 1, groups := 1, roles := [⟨64, 0, 0, 1, 4⟩],
    levels := [0x0F, 0x1F, 0x2F, 0x3F, 0xFF, 0xFF, 0xFF, 0xFF], clblk := 1, chk := false, floor := 3, cap := 3, bamps := 0,
    sqcap := [0, 0, 0, 0], arg := 0, inputs := [], tensors := [], ghi := 0, glo := 0 }

def placeKernel : Kernel :=
  { kid := 0, ctx := 0, record := 0x20000, launch := placeLaunch, state := .resident, placed := 1, completion := 0,
    node := none, depth := 0, seen := [], waitedSince := 0, starved := false, order := 0 }

def placeField (f : Field) : Field := if f.mhz = 0 then { f with up := true, plimMhz := 1800, thermMhz := 1800 } else { f with up := true }

/-- A running context, kernel, block and group with the word at its next slot, and that fragment's turn. -/
def placeWord (s : State) (w : Word) : State :=
  let now := s.cycleOf 0
  let g0 := Group.start placeLaunch 0x20000 0 0 0 0 0 ⟨0, 0, 0⟩ now
  let g := g0.updFrag 0 fun f => { f with pc := if needsLiteral w then 0x10008 else 0x10004 }
  { s with
    start := .ready
    fields := s.fields.map placeField
    fieldsUp := s.fieldsUp ++ (List.range 6).filter fun f => !s.fieldsUp.contains f
    parts := placePart :: s.parts.filter fun p => p.partid ≠ 1 && !p.ownsPair 0
    contexts := { Context.created 0 1 1 with state := 2, record := some placeRecord } :: s.contexts.filter fun c => c.id ≠ 0
    kernels := placeKernel :: s.kernels.filter fun k => k.kid ≠ 0
    blocks := Block.start 0 0 0 0 0 1 :: s.blocks.filter fun b => b.kid ≠ 0
    groups := g :: s.groups.filter fun x => x.at_ ≠ ⟨0, 0, 0⟩
    loopBufs := s.loopBufs.filter fun b => !(b.core = 0 && b.quarter = 0)
    tlb := s.tlb.filter fun e => e.ctx ≠ 0
    mem := writeNat (placeTables s.mem) 0x10000 16 (placeBundle w)
    agenda := [.issue ⟨0, 0, 0, 0⟩]
    cur := none }

end Sys2Proof.Machine
end

