-- ==== Sys2Proof/Machine/Schedule.lean ====
section
/-! DEFINITION. Turns that are no instruction, and what happens when the agenda is empty: an event inside the chip, else the
winners of the cycle issue (R151), else a cycle passes. -/

namespace Sys2Proof.Machine

/-- The next bundle enters a fragment's fetch buffer (R157). -/
def prefetch (s : State) (w : FragId) : State :=
  match s.group? w.group with
  | none => s
  | some g =>
    match g.frag? w.index with
    | none => s
    | some f =>
      let base := bundleBase f.pc + 16
      if f.fetched.length ≥ 2 ∨ (f.fetched.any fun p => p.1 = base) then s
      else
        match fetchAfresh s w g.ctx base with
        | .got b s1 => s1.updGroup w.group fun x => x.updFrag w.index fun y => { y with fetched := y.fetched ++ [(base, b)] }
        | _ => s

/-- Beats of a copy's present record, or of the first send of a queue, move (R369, R386). -/
def moveSome (s : State) (id n : Nat) : State :=
  match s.engine? id with
  | none => s
  | some e =>
    if !engineLive s e then s
    else
      match e.kind with
      | .copy _ _ _ _ _ _ => advanceCopy s e n
      | .send _ _ _ _ _ _ _ _ _ _ _ _ _ _ _ => if maySend s e then leaveBeats s e n else s
      | _ => s

/-! ## Events inside the chip -/

/-- Every lane. -/
def allLanes : Word := 0xFFFFFFFF

/-- An event of the chip: what it does to the state. -/
abbrev Happening := State → Out

/-- Events of a group: its outstanding operations, its fragments' waits, its end. -/
def groupEvents (g : Group) : List Happening :=
  (g.ops.filter fun o => !o.done).map (fun o =>
    if o.counter = 0 then execVcResultLands g.at_ o.index allLanes
    else if o.counter = 2 then execStorePerformed g.at_ o.index
    else execLoadDataLands g.at_ o.counter o.index allLanes)
  ++ (groupFrags g).flatMap (fun w => [execFragmentWake w, execGradePollReissue w, execFragmentPromote w])
  ++ [execRegangFuse g.at_, execGroupRetire g.at_, execTrackerEntryFreed g.at_, execStakemaxFullSave g.at_]

/-- Events of an engine operation. -/
def engineEvents (s : State) (e : Engine) : List Happening :=
  match e.kind with
  | .copy _ _ _ _ _ _ => [execEngineLockAdmit e.id, execCopyRecordDone e.id]
  | .mma _ _ _ _ _ _ _ _ => [execEngineLockAdmit e.id, execMmaGatherDone e.id, execMmaComplete e.id]
  | .send _ _ _ _ _ _ _ _ _ _ _ _ _ _ _ => [execEngineLockAdmit e.id, execSendComplete e.id]
  | .pld _ _ _ _ _ _ _ _ => [execEngineLockAdmit e.id, execPldCopyDone e.id, execEngineEnqueueRetry e.id]
  | .coll c => [execEngineLockAdmit e.id, execCombineSlotGrant e.id, execCollTimeoutFlush e.id, execEngineEnqueueRetry e.id]
      ++ (List.range (collChunks c.rec_ c.n)).map (execCollChunkDone e.id)
  | .conv tid _ =>
    [execEngineLockAdmit e.id, execConversionStep e.part tid [], execEngineEnqueueRetry e.id]
      ++ (match s.tensor? e.part tid with
        | some t => (List.range (t.desc.tiles (t.spanOf s ((t.pending.head?).elim t.tail (·.target))))).map (execConversionTileArrival e.part tid)
        | none => [])
      ++ [execConversionComplete e.part tid]
  | .items => [execEngineEnqueueRetry e.id]

/-- Events of a context and of its graphs. -/
def ctxEvents (s : State) (c : Context) : List Happening :=
  [execInvalDone c.id, execFaultRecordWrite c.id, execPreemptDone c.id, execContextStopped c.id, execGraphSubmit c.id,
    execTraceResume c.id]
    ++ (s.graphs.filter fun g => g.ctx = c.id).flatMap fun g =>
      g.nodes.flatMap fun x => [execNodeComplete c.id g.gbase x.node, execNodeFire c.id g.gbase x.node]

/-- The chip's own descriptor of a declared tensor arrives (R337). -/
def ownDescriptor (s : State) (t : Tensor) : List Happening :=
  if t.state == .declaring then
    [execPlacementDescriptorArrival t.part s.chipid (t.key.take 24 ++ List.replicate 16 0 ++ t.key.drop 24)]
  else []

/-- In a partition of one chip, this chip's completion of a conversion is the last one's (R345). -/
def ownCommit (s : State) (t : Tensor) : List Happening :=
  (if partChips s t.part = 1 then
    (t.commitAt.head?).toList.map fun p => fun (x : State) => .next (placementOver x t.part t.desc.tid p.1)
  else []) ++ [execPlacementCommit t.part t.desc.tid]

/-- The rings that a context's writers wait for, or whose entries wait for an interrupt (R142, R143). -/
def ringEvents (s : State) : List Happening :=
  (s.groups.flatMap fun g => g.frags.flatMap fun f =>
    match f.park with
    | some (.ring d) => [execRingHeadPoll g.ctx d]
    | _ => [])
  ++ s.rings.map fun r => execRingTmaxExpiry r.ctx r.desc

/-- Events of a partition's fabric whose time has come (R360, R365, R366). -/
def linkEvents (part : Nat) : List Happening :=
  [execReconfDrained part, execControlRetryTimeout part, execPlanEpoch part, execSlotWindowOpen part, execSlotWindowClose part,
    execSlotStart part]

/-- The events of what a waiter waits for: the first that changes anything is its replay. -/
def waiterEvents (s : State) (ctx : Nat) : Waiter → List Happening
  | .frag _ => []
  | .engine id _ => (s.engine? id).elim [] (engineEvents s)
  | .ctl .submit _ => [execGraphSubmit ctx]
  | .ctl (.node gb n) _ => [execNodeFire ctx gb n]
  | .ctl (.kernel kid) _ => [execKernelComplete kid]
  | .ctl (.beats b) _ => [fun x => .next (receiveBeats x b)]

/-- The state after an event that changes something. -/
def happens (s : State) (e : Happening) : Option State :=
  match e s with
  | .next t => if t = s then none else some t
  | _ => none

/-- The access of an engine operation or a controller replays; a send that waited goes on from now (R437). -/
def replayAct (ctx : Nat) (s0 : State) (w : Waiter) : State :=
  let s := match w with
    | .engine id _ => s0.updEngine id fun e => e.notBefore s0.ptpns
    | _ => s0
  ((waiterEvents s ctx w).findSome? (happens s)).getD s

/-- What the controller does with the fields by what it has measured (R418, R427 to R429): trips first, then throttles, clocks and lean
windows, in increasing FIELDID; captures that are full; measurements and samples that are due; the flush of the log; the end of a start
whose field does not come up. -/
def fieldEvents : List Happening :=
  [execThermalTrip, execPowerLimitThrottle, execThermalThrottle, execThrottleClockStep, execLeanWindowEnd, execHeadroomDue].flatMap
      (fun e => (List.range 6).map e)
    ++ (List.range 4).map execCaptureDone ++ (List.range 16).map execPortErrorDue ++ [execLogFlush, execFieldStartTimeout]

/-- Events that need nothing from outside the chip, in the order in which the model tries them; a step whose time has not
come changes nothing. Released writes leave before anything reads what they write (R431), and a tile domain ends before a kernel takes
its number again (R256, R438). -/
def insideEvents (s : State) : List Happening :=
  s.contexts.map (fun c => fun x => .next (replayStep (replayAct c.id) x c.id))
    ++ [execVestibuleRelease]
    ++ s.contexts.map lanternSamples
    ++ s.groups.flatMap groupEvents
    ++ s.blocks.flatMap (fun b => [execBlockBarrierRelease b.kid b.linear, execBlockHalted b.kid b.linear])
    ++ [fun x => .next (endBlocks x)]
    ++ s.phases.map (fun n => execPhaseRelease n.kid n.level n.inst)
    ++ s.engines.flatMap (engineEvents s)
    ++ (chainsHeld s).map (fun acc => fun x => .next (endChain x acc))
    ++ s.tensors.flatMap (fun t => ownDescriptor s t ++ ownCommit s t)
    ++ s.contexts.flatMap (ctxEvents s)
    ++ s.kernels.flatMap (fun k => [execBlockPlace k.kid, execKernelComplete k.kid, execLaunchStarvationTimeout k.kid])
    ++ s.tiles.map (fun t => execTileScrubDone t.id)
    ++ [execGovernorEvaluation, execAmendmentReport, execVestibuleSpaceFreed, phaseFlitsLeave]
    ++ s.wcb.map (fun l => execWcLineDrain l.core 0)
    ++ ringEvents s
    ++ fieldEvents
    ++ s.buffered.map bufferTurn
    ++ s.links.flatMap (fun l => linkEvents l.part)
    ++ (if s.links = [] then [] else (List.range 16).map execPortDrained)

/-- Nominal cycles until every field of the winners' cores has counted one cycle more. -/
def cyclePast (s : State) (ws : List FragId) : Nat :=
  ws.foldl (fun n w => max n (cyclesTo s w.core (s.cycleOf w.core + 1))) 1

/-- With an empty agenda the first event inside the chip that changes anything happens; else a bundle that a fragment waits for is
fetched (R150); else the winners of R151 take their turns, in the order of R116, requests take effect (R175), and their cycle
passes; else a cycle of the
nominal clock passes. -/
def schedule (s : State) : State :=
  match (insideEvents s).findSome? (happens s) with
  | some t => t
  | none =>
    match (hungry s).filter fun w => !fetchTraps s w with
    | w :: _ => fillFrag s w
    | [] =>
      match allWinners s with
      | [] => if requestsDue s then requests s else (flushTraces s 1).tick 1
      | ws => { openTraces (ws.foldl serve s) with agenda := ws.map .slot ++ [.requests, .pass (cyclePast s ws)] }

end Sys2Proof.Machine
end

