-- ==== Sys2Proof/Machine/Step.lean ====
section
/-! DEFINITION. One step of the chip: the next turn of the agenda, or what the schedule chooses (R151). -/

namespace Sys2Proof.Machine

/-- After an issue of `i` in the state `s` the lantern's tag on the slot notes what it leaves (R412), and no fragment is issuing. -/
def afterIssue (s : State) (i : Instr) : Host.Outcome State Fault Refusal → Host.Outcome State Fault Refusal
  | .next t => .next { tagSlot s t i with cur := none }
  | .fault f => .fault f
  | .refused r => .refused r

/-- A slot has sent its group into the handler, halted its block, or stopped its context. -/
def trapped (w : FragId) (s : State) : Host.Outcome State Fault Refusal → Bool
  | .next t =>
    match s.group? w.group, t.group? w.group with
    | some g, some g' => (!g.h && g'.h) || (s.block? g.kid g.block).map (·.debug) ≠ (t.block? g'.kid g'.block).map (·.debug)
        || (s.ctx? g.ctx).map (·.state) ≠ (t.ctx? g'.ctx).map (·.state)
    | _, _ => false
  | _ => false

/-- A turn goes behind another. -/
def turnBehind (w v : FragId) : List Turn → List Turn
  | [] => []
  | .slot x :: rest => if x = v then .slot x :: .slot w :: rest else .slot x :: turnBehind w v rest
  | t :: rest => t :: turnBehind w v rest

/-- The fragment of the same group with a lower index whose turn of the cycle is still to come: of two that trap the lower index takes
the trap (R99). -/
def lowerTurn (s : State) (w : FragId) (rest : List Turn) : Option FragId :=
  rest.findSome? fun t =>
    match t with
    | .slot v => if v.group = w.group ∧ v.index < w.index ∧ stillReady s v then some v else none
    | _ => none

/-- A winner's slot. -/
def slotTurn (s : State) (w : FragId) (rest : List Turn) : Host.Outcome State Fault Refusal :=
  let out := match nextIssue { s with agenda := rest } w with
    | .idle t => .next t
    | .issue i t => afterIssue t i (exec i t)
  match lowerTurn s w rest with
  | some v => if trapped w s out then .next { s with agenda := turnBehind w v rest } else out
  | none => out

def step (s : State) : Host.Outcome State Fault Refusal :=
  match s.agenda with
  | [] => .next (schedule s)
  | .event i :: rest => exec i { s with agenda := rest, cur := none }
  | .outside loc bytes :: rest => .next (outsideWrite { s with agenda := rest } loc bytes)
  | .beats id n :: rest => .next (moveSome { s with agenda := rest } id n)
  | .requests :: rest => .next (requests (fuseDue { s with agenda := rest }))
  | .placementOver part tid last :: rest => .next (placementOver { s with agenda := rest } part tid last)
  | .remoteRunOver chip kid :: rest => .next (clearRemoteMarks { s with agenda := rest } chip kid)
  | .pass n :: rest => .next ((flushTraces { s with agenda := rest } n).tick n)
  | .acked id flits :: rest => .next (acknowledge { s with agenda := rest } id flits)
  | .paramsSpoilt :: rest => .next { s with agenda := rest, paramOk := false }
  | .prefetch w :: rest => .next (prefetch { s with agenda := rest } w)
  | .slot w :: rest =>
    if stillReady s w then slotTurn s w rest
    else .next { s with agenda := rest }
  | .issue w :: rest =>
    match nextIssue { s with agenda := rest } w with
    | .idle s' => .next s'
    | .issue i s' => afterIssue s' i (exec i s')

/-- The instruction of `nbits` bits placed where the next step fetches it: a running context and kernel, one group whose
fragment 0 is at its slot, and that fragment's turn (log 7). -/
def State.withFetchWord (s : State) (nbits w : Nat) : State := placeWord s (BitVec.ofNat 32 (w % 2 ^ nbits))

end Sys2Proof.Machine
end

