-- ==== Sys2Proof/Machine/Windows.lean ====
section
/-! DEFINITION. What a read of a register window returns (R3, R89, R94, R120, R299, R357, R406, R410, R413, R419, R422). A read
changes nothing: it is no step of the machine. -/

namespace Sys2Proof.Machine

/-- A read that is dropped returns all ones (R89). -/
def droppedRead (size : Nat) : Nat := 2 ^ (8 * size) - 1

/-! ## The common page (R89) -/

/-- The command's result word of a virtual function; IDLE before the first. -/
def vfresWord (s : State) (vf : Nat) : Nat := ((s.vfres.find? fun p => p.1 = vf).map (·.2)).getD 0

/-- A register of the common page; VFCMD is write only and every other offset reserved. -/
def readCommon (s : State) (vf offset : Nat) : Nat :=
  match offset with
  | 0x008 => vfresWord s vf
  | 0x010 => s.vfPart vf
  | _ => 0

/-! ## A context's window (R89) -/

/-- LCTL (R410). -/
def lctlWord (c : Context) : Nat := c.lbase.toNat / 4096 * 4096 + c.llog2n * 2 ^ 8 + c.lperiod * 2 ^ 3 + c.len.toNat

/-- TCTL (R413). -/
def tctlWord (t : TraceState) : Nat :=
  t.kid * 2 ^ 48 + t.blk * 2 ^ 16 + t.synci * 2 ^ 12 + t.log2b * 2 ^ 6 + t.en.toNat

/-- A register of a context's window. CTXCMD, QCMD, MCMD and DCMD are write only, and every other offset is reserved. -/
def Context.readReg (c : Context) (offset : Nat) : Nat :=
  match offset with
  | 0x0008 => c.ctxrec.toNat
  | 0x0010 => (statusWord c).toNat
  | 0x0018 => c.graphq.toNat
  | 0x0020 => c.fqhead.toNat
  | 0x0028 => c.fqtail.toNat
  | 0x0040 => fieldAt c.qdesc 0 8
  | 0x0048 => fieldAt c.qdesc 8 8
  | 0x0050 => c.qcmdcap.toNat
  | 0x0060 => c.qres
  | 0x0068 => c.qcapout.toNat
  | 0x0080 => (nth c.mop 0 0).toNat
  | 0x0088 => (nth c.mop 1 0).toNat
  | 0x0090 => (nth c.mop 2 0).toNat
  | 0x00A0 => c.mres
  | 0x0100 => (nth c.dop 0 0).toNat
  | 0x0108 => (nth c.dop 1 0).toNat
  | 0x0110 => (nth c.dop 2 0).toNat
  | 0x0118 => (nth c.dop 3 0).toNat
  | 0x0128 => c.dres
  | 0x0130 => c.dval.toNat
  | 0x0200 => lctlWord c
  | 0x0208 => c.lhead.toNat
  | 0x0210 => c.ltail.toNat
  | 0x0218 => c.ldrop
  | 0x0240 => tctlWord c.trace
  | 0x0248 => c.trace.base.toNat
  | 0x0250 => c.trace.head
  | 0x0258 => c.trace.tail
  | _ => 0

/-- The 128 bytes of a slot of the enqueue window (R120): COMMIT is written only. -/
def EnqSlot.image (e : EnqSlot) : List Byte :=
  leBytes e.cap.toNat 8 ++ leBytes 0 8 ++ leBytes e.status 8 ++ List.replicate 40 0 ++ (e.item.take 64)

/-- A read of a context's window: 8 bytes, 8-byte aligned, except in the enqueue window, where a read keeps to one slot. -/
def readContext (s : State) (vf ctx offset size : Nat) : Nat :=
  match windowOf s vf ctx with
  | none => 0
  | some c =>
    if 0x1000 ≤ offset ∧ offset + size ≤ 0x2000 then fieldAt (enqSlot c ((offset - 0x1000) / 128)).image (offset % 128) size
    else if size = 8 ∧ offset % 8 = 0 then c.readReg offset
    else droppedRead size

/-! ## The physical function's window (R94) -/

def StartState.code : StartState → Nat
  | .off => 0 | .cold => 1 | .warm => 2 | .ready => 3 | .latched => 4

def PortState.code : PortState → Nat
  | .dark => 0 | .training => 1 | .idle => 2 | .up => 3 | .draining => 4 | .fault => 5

/-- PORTSTAT of a port, with its owner's PARTID. -/
def portstatWord (s : State) (port : Nat) : Nat :=
  (nth s.ports port .dark).code + ((portOwner s port).elim 0xFFFF (·.partid)) * 2 ^ 16

/-- A pitch-table entry as it was last written (R357); one never written is empty. -/
def Pitch.image (p : Pitch) : List Byte :=
  leBytes p.part 2 ++ leBytes p.ports 2 ++ leBytes p.route 4 ++ List.replicate 8 0 ++ (p.peers.flatMap fun x => leBytes x 2)
    ++ List.replicate 16 0

def pitchImage (s : State) (i : Nat) : List Byte :=
  ((s.pitches.find? fun p => p.index = i).map Pitch.image).getD unusedEntry

/-- CAPCTL of a slot (R419). -/
def capctlWord (c : Capture) : Nat := c.arm.toNat + 2 * c.done.toNat + 4 * c.busy.toNat

/-- The staged slot tables, as bytes of the window from 0x2_0000 on. -/
def slotBytes (s : State) (off n : Nat) : Nat :=
  fieldAt ((nth s.stagedSlots (off / 256) unusedSlots).flatMap fun x => leBytes x 2) (off % 256) n

/-- An 8-byte register of the physical function; PTCMD is write only and every other offset reserved. -/
def readPhysicalReg (s : State) (offset : Nat) : Nat :=
  if offset = 0 then s.start.code + s.failCount % 256 * 256
  else if offset = 8 then s.missed
  else if 0x100 ≤ offset ∧ offset < 0x140 then
    let c := nth s.captures ((offset - 0x100) / 16) Capture.reset
    if offset % 16 = 0 then c.base.toNat else capctlWord c
  else if 0x200 ≤ offset ∧ offset < 0x280 then portstatWord s ((offset - 0x200) / 8)
  else if 0x10000 ≤ offset ∧ offset < 0x10400 then
    fieldAt (nth s.stagedParts ((offset - 0x10000) / 64) unusedEntry) (offset % 64) 8
  else if offset = 0x10408 then s.ptres
  else if 0x20000 ≤ offset ∧ offset < 0x20C00 then slotBytes s (offset - 0x20000) 8
  else if 0x30000 ≤ offset ∧ offset < 0x34000 then fieldAt (pitchImage s ((offset - 0x30000) / 64)) (offset % 64) 8
  else 0

/-- A read of the physical function's window: 8 bytes, 8-byte aligned, or one entry of a slot table. -/
def readPhysical (s : State) (offset size : Nat) : Nat :=
  if size = 2 ∧ offset % 2 = 0 ∧ 0x20000 ≤ offset ∧ offset < 0x20C00 then slotBytes s (offset - 0x20000) 2
  else if size = 8 ∧ offset % 8 = 0 then readPhysicalReg s offset
  else droppedRead size

/-- What a register read returns. The functions are offered while the chip is `ready` (R422); before that their windows read as
zero (log 97). -/
def readWindow (s : State) (win : Window) (offset size : Nat) : Nat :=
  match win with
  | .vfCommon vf =>
    if s.start ≠ .ready then 0
    else if size = 8 ∧ offset % 8 = 0 then readCommon s vf offset
    else droppedRead size
  | .context vf ctx => readContext s vf ctx offset size
  | .physical => readPhysical s offset size

end Sys2Proof.Machine
end

