-- ==== Sys2Proof/Safety.lean ====
section
/-! DEFINITION. The terms of the statements: the invariant that every step keeps, when a slot has its effect, and what an
effect leaves as it was. -/

namespace Sys2Proof.Machine

/-- The memories, and the bytes of every tile, keep their canonical form (log 1). -/
def State.memOk (s : State) : Bool := s.mem.wf && s.hostMem.wf && s.remoteMem.wf && s.tiles.all fun t => Memory.wf t.bytes

/-- `exec` answers a next state, of which `P` holds. -/
def Answers (i : Instr) (s : State) (P : State → Prop) : Prop := ∃ t, exec i s = .next t ∧ P t

/-- The conditions on the state and the operands under which a slot passes the checks of R86: its fields and its place are
legal (R66, R81, R188), its registers may be named (R154), and with CHK = 1 no stall is undersized and no register it reads
is unallocated (R70, R156). -/
def Iss.Passes (c : Iss) (i : Instr) (uni : Bool) (u : Uses) : Prop :=
  i.wellFormed = true ∧ literalOk i c.lit.isSome = true ∧ (uni = true → c.f.meldLeft = 0)
    ∧ (∀ o ∈ u.vr ++ u.vw, c.legalOp o = true)
    ∧ (c.g.chk = true → c.hazard u = false ∧ c.unallocated? u = none)

/-- Everything but one group is as it was: memory, tiles, contexts and every other group. -/
def OnlyGroup (id : GroupId) (s t : State) : Prop :=
  { t with groups := s.groups } = s ∧ ∀ x, x ≠ id → t.group? x = s.group? x

/-- The issuing fragment goes on at `pc`; every other fragment is as it was. -/
def Iss.WentOn (c : Iss) (pc : DWord) (g g' : Group) : Prop :=
  g'.frags = g.frags.map fun f => if f.index = c.who.index then f.after c pc else f

/-- The group after a write of `w` lane registers from field `d` in lanes `m`, where lane `i` of register `k` takes
`value k i`: no other lane of no other register changes, and nothing else but the latency of the write and a rewind blocker. -/
def LaneResult (c : Iss) (u : Uses) (d w : Nat) (m : Word) (value : Nat → Nat → Word) (g' : Group) : Prop :=
  let g := c.g.lastReads c u
  (∀ i k, i < 32 → k < w → bitOf m i = true → (g'.vNew (c.rename d i + k)).get i = value k i)
    ∧ (∀ n i, i < 32 → (∀ k, k < w → ¬(bitOf m i = true ∧ n = c.rename d i + k)) → (g'.vNew n).get i = (g.vNew n).get i)
    ∧ { g' with vregs := g.vregs, deferred := g.deferred, pend := g.pend, board := g.board, stake := g.stake,
                frags := g.frags } = g
    ∧ c.WentOn c.next g g'

/-- The group after a write of scalar `d`: what another fragment's earlier instruction would still land there is overruled (R179). -/
def ScalarResult (c : Iss) (u : Uses) (d : Nat) (x : DWord) (g' : Group) : Prop :=
  let g := c.g.lastReads c u
  g'.sNew d = x ∧ (∀ n, n ≠ d → g'.sNew n = g.sNew n)
    ∧ { g' with sregs := g.sregs, pend := g.pend, board := g.board, stake := g.stake, frags := g.frags } = g.overrule c.f.slices d
    ∧ c.WentOn c.next g g'

/-- The group after a write of mask `d`: only the lanes of the issuing fragment change (R179). -/
def MaskResult (c : Iss) (u : Uses) (d : Nat) (x : Word) (g' : Group) : Prop :=
  let g := c.g.lastReads c u
  g'.mNew d = (g.mNew d &&& ~~~c.lanes) ||| (x &&& c.lanes) ∧ (∀ n, n ≠ d → g'.mNew n = g.mNew n)
    ∧ { g' with mregs := g.mregs, pend := g.pend, board := g.board, frags := g.frags } = g
    ∧ c.WentOn c.next g g'

/-- The instruction completes for the issuing fragment whenever its checks pass, and touches its group alone. -/
def Completes (i : Instr) (uni : Bool) (u : Iss → Uses) (P : State → Iss → Group → Prop) : Prop :=
  ∀ s c, s.issuer? = some c → c.Passes i uni (u c) →
    Answers i s fun t => OnlyGroup c.who.group s t ∧ ∃ g', t.group? c.who.group = some g' ∧ P s c g'

/-- A lane result of one register in em. -/
def LaneGives (i : Instr) (u : Iss → Uses) (d : BitVec 7) (value : Iss → Nat → Word) : Prop :=
  Completes i false u fun _ c g' => LaneResult c (u c) d.toNat 1 c.em (fun _ k => value c k) g'

/-- A lane result of a pair in em: the low word in the first register (R194). -/
def PairGives (i : Instr) (u : Iss → Uses) (d : BitVec 7) (value : Iss → Nat → DWord) : Prop :=
  Completes i false u fun _ c g' =>
    LaneResult c (u c) d.toNat 2 c.em (fun k i => (value c i).extractLsb' (32 * k) 32) g'

def ScalarGives (i : Instr) (u : Iss → Uses) (d : BitVec 6) (value : Iss → DWord) : Prop :=
  Completes i true u fun _ c g' => ScalarResult c (u c) d.toNat (value c) g'

def MaskGives (i : Instr) (uni : Bool) (u : Iss → Uses) (d : Nat) (value : Iss → Word) : Prop :=
  Completes i uni u fun _ c g' => MaskResult c (u c) d (value c) g'

/-- Operands a, b and d of a lane instruction, and a destination d. -/
def usesA (a d : BitVec 7) (c : Iss) : Uses := c.laneUses [.a a] [.d d]
def usesAB (a b d : BitVec 7) (c : Iss) : Uses := c.laneUses (.a a :: c.bOp (.b b)) [.d d]
def usesABD (a b d : BitVec 7) (c : Iss) : Uses := c.laneUses (.a a :: (c.bOp (.b b) ++ [.d d])) [.d d]

/-- A lane instruction of one, two or three operands: lane `k` of d takes `f` of lane `k` of the operands. -/
def Lane1Gives (i : Instr) (d a : BitVec 7) (f : Word → Word) : Prop :=
  LaneGives i (usesA a d) d fun c k => f (c.v a.toNat k)
def Lane2Gives (i : Instr) (d a b : BitVec 7) (f : Word → Word → Word) : Prop :=
  LaneGives i (usesAB a b d) d fun c k => f (c.v a.toNat k) (c.bv b.toNat k)
def Lane3Gives (i : Instr) (d a b : BitVec 7) (f : Word → Word → Word → Word) : Prop :=
  LaneGives i (usesABD a b d) d fun c k => f (c.v a.toNat k) (c.bv b.toNat k) (c.v d.toNat k)

/-- A scalar instruction of one or two operands. -/
def Scalar1Gives (i : Instr) (d a : BitVec 6) (f : DWord → DWord) : Prop :=
  ScalarGives i (fun _ => uniUses [.s a.toNat] [.s d.toNat]) d fun c => f (c.sv a.toNat)
def Scalar2Gives (i : Instr) (d a b : BitVec 6) (f : DWord → DWord → DWord) : Prop :=
  ScalarGives i (fun c => uniUses (.s a.toNat :: c.bName b) [.s d.toNat]) d fun c => f (c.sv a.toNat) (c.bs b.toNat)

/-- The slot takes a trap in place of its effect (R98), with the FADDR that its entry states. -/
def Traps (i : Instr) (s : State) (c : Iss) (cause : Nat) (faddr finfo : DWord) : Prop :=
  exec i s = .next (takeTrap s c.who cause faddr finfo c.pc c.pc)

/-- The slot takes a trap whose entry states no FADDR: it is a free value (log 3). -/
def TrapsOpen (i : Instr) (s : State) (c : Iss) (cause : Nat) (finfo : DWord) : Prop :=
  exec i s = .next (takeTrap s.fresh c.who cause (openAddr s) finfo c.pc c.pc)

/-- The registers and settings of a group are as they were. -/
def SameRegisters (g g' : Group) : Prop :=
  g'.vregs = g.vregs ∧ g'.sregs = g.sregs ∧ g'.mregs = g.mregs ∧ g'.t0 = g.t0 ∧ g'.t1 = g.t1 ∧ g'.floor = g.floor
    ∧ g'.outgrade = g.outgrade ∧ g'.chk = g.chk ∧ g'.fnthr = g.fnthr ∧ g'.mskip = g.mskip ∧ g'.mstat = g.mstat ∧ g'.h = g.h
    ∧ g'.frame = g.frame ∧ g'.fcause = g.fcause ∧ g'.faddr = g.faddr ∧ g'.fpc = g.fpc ∧ g'.finfo = g.finfo

/-- The issuing fragment goes on at `pc` with the return stack `st`, and every other fragment and group is as it was; `g` is the
group as it stood, with what else the instruction writes. -/
def Iss.GoesTo (c : Iss) (g : Group) (pc : DWord) (st : List DWord) (s t : State) : Prop :=
  ∃ g' f', t.group? c.who.group = some g' ∧ SameRegisters g g' ∧ g'.state = g.state
    ∧ g'.frag? c.who.index = some f' ∧ f'.pc = pc ∧ f'.rstack = st ∧ f'.slices = c.f.slices ∧ f'.em = c.f.em ∧ f'.park = none
    ∧ f'.readyAt = c.now + 1 + c.stall
    ∧ (∀ k, k ≠ c.who.index → g'.frag? k = g.frag? k)
    ∧ ∀ x, x ≠ c.who.group → t.group? x = s.group? x

/-- The fragment waits at its slot, or just issued and holds there, for what `k` says (R152). -/
def Iss.WaitsOn (c : Iss) (k : ParkKind) (t : State) : Prop :=
  ∃ g' f', t.group? c.who.group = some g' ∧ g'.frag? c.who.index = some f' ∧ f'.pc = c.pc ∧ f'.park = some k

/-- A load of the accesses `as` that passes every check (R306, R312): its values, as `lands` places them, are left to land on the
counter, the fragment goes on, and no scalar or mask changes; an acquire drops the core's L1 lines, and without a release or a
store of the core on its way no byte of memory changes. -/
def LoadGives (i : Instr) (s : State) (c : Iss) (ctr size o floor : Nat) (as : List Acc) (lands : List (Acc × Nat) → List Landing) :
    Prop :=
  ∀ ts s0, accessChecks s c as size false = .ok (ts, s0) → (∀ t ∈ ts, notCarveOut t = true) →
    let s1 := ts.foldl (lineLeaves c.who.core) s0
    (∀ t ∈ ts, t.ent.graded = true → c.loadFloor floor ≤ (seenTag s1 c.who.core t).grade) →
    let o' := typeOrd ts o
    let s2 := if ordRel o' then releaseNow s1 c 2 else s1
    Answers i s fun t => ∃ g' f' op, t.group? c.who.group = some g' ∧ g'.frag? c.who.index = some f' ∧ f'.pc = c.next
      ∧ op ∈ g'.ops ∧ op.counter = ctr ∧ op.index = c.g.nextIndex ctr ∧ op.done = false ∧ op.lands = lands (loadAll s2 c size ts).1
      ∧ op.read = (loadAll s2 c size ts).2.1 ∧ g'.sregs = c.g.sregs ∧ g'.mregs = c.g.mregs
      ∧ (ordAcq o' = true → ∀ l ∈ t.l1, l.core ≠ c.who.core)
      ∧ (ordRel o' = false → waitingStores s1 c.who.core = [] → t.mem = s.mem ∧ t.hostMem = s.hostMem ∧ t.remoteMem = s.remoteMem
          ∧ t.tiles = s.tiles)

/-- Alignment traps for the lowest lane that breaks it (R306). -/
def MisalignedTraps (i : Instr) (s : State) (c : Iss) (size : Nat) (as : List Acc) : Prop :=
  ∀ a, (∀ x ∈ as, x.ea.toNat < 2 ^ 57) → as.find? (fun x => decide (x.ea.toNat % size ≠ 0)) = some a →
    Traps i s c 0x0A a.ea (BitVec.ofNat 64 (a.lane.getD 0 * 256))

/-- The fragment has gone on at the next slot, and an operation counted on `ctr` is outstanding with `stores` to perform; no
scalar and no mask has changed. -/
def Iss.LeftToPerform (c : Iss) (ctr : Nat) (release : Bool) (stores : List StoreOp) (t : State) : Prop :=
  ∃ g' f' x, t.group? c.who.group = some g' ∧ g'.frag? c.who.index = some f' ∧ f'.pc = c.next
    ∧ x ∈ g'.ops ∧ x.counter = ctr ∧ x.index = c.g.nextIndex ctr ∧ x.done = false ∧ x.stores = stores ∧ x.release = release
    ∧ g'.sregs = c.g.sregs ∧ g'.mregs = c.g.mregs

/-- A local ungraded access to a page of type N that is dirty already. -/
def TAcc.plain (t : TAcc) : Prop := t.ent.graded = false ∧ t.ent.mt = 0 ∧ t.ent.loc = 0 ∧ t.ent.dirty = true

/-- The fragment has gone on at the next slot, nothing of the operation `seq` is left to be performed, the core holds no L1 line, and
no scalar and no mask has changed. -/
def Iss.Performed (c : Iss) (seq : Nat) (t : State) : Prop :=
  ∃ g' f', t.group? c.who.group = some g' ∧ g'.frag? c.who.index = some f' ∧ f'.pc = c.next ∧ f'.park = none
    ∧ (∀ x ∈ g'.ops, x.seq = seq → x.stores = []) ∧ (∀ l ∈ t.l1, l.core ≠ c.who.core)
    ∧ g'.sregs = c.g.sregs ∧ g'.mregs = c.g.mregs

/-- A store of the accesses `as` that passes every check (R306, R307, R316, R323): what its pages leave to be performed is counted on
SC. On plain pages that is every byte it stores, and without a release no byte of memory changes yet. A store that acquires is
performed before it has gone on: on plain pages, with no other store of the core on its way, memory holds its bytes. -/
def StoreGives (i : Instr) (s : State) (c : Iss) (size o : Nat) (as : List Acc) (data : Acc → List Byte) : Prop :=
  ∀ ts s1, accessChecks s c as size true = .ok (ts, s1) → (∀ t ∈ ts, notCarveOut t = true) → checkGrades s1 c ts = .ok () →
    checkVest s1 c ts size = .ok () →
    let o' := typeOrd ts o
    let s2 := dirtyAll s1 ts
    let s3 := if ordRel o' then (if ts.any TAcc.acts then releaseNow s2 c 2 else releaseCore s2 c.who.core 2) else s2
    let r := storeAll (storeTags s3 c ts) c (c.part s) (ts.map fun t => (t, data t.acc))
    (ordAcq o' = false → Answers i s fun t => t.mem = r.1.mem ∧ t.vest = r.1.vest ∧ c.LeftToPerform 2 (ordRel o') r.2.1 t)
    ∧ (ordAcq o' = true → Answers i s fun t => c.Performed r.1.seq t
        ∧ ((∀ t ∈ ts, t.plain ∧ lostRange s t.pa size = false) → (s.groups.map (·.at_)).Nodup → waitingStores r.1 c.who.core = [] →
            t.mem = ts.foldl (fun m x => writeBytes m x.pa (data x.acc)) r.1.mem))
    ∧ ((∀ t ∈ ts, t.plain) → r.2.1 = ts.map (fun t => .bytes t.loc (data t.acc)) ∧ (ordRel o = false → r.1.mem = s.mem))

/-- A place whose bytes lie in the memory it names: a chip's memory ends at 2^48 (R291). -/
def Loc.inRange (n : Nat) : Loc → Prop
  | .remote _ pa => pa + n ≤ 2 ^ 48
  | _ => True

/-- A place that answers: no home slice of it is in a lost field, and its tile exists (R19, R256). -/
def Loc.answers (s : State) (n : Nat) : Loc → Prop
  | .device pa => lostRange s pa n = false
  | .tile id _ => ∃ t ∈ s.tiles, t.id = id
  | l => l.inRange n

/-- The bytes that a store or a reduction leaves at its place (R305). -/
def StoreOp.result (s : State) : StoreOp → List Byte
  | .bytes _ data => data
  | .reduce loc op x => leBytes (atomOp op (BitVec.ofNat 32 (leNat (readLoc s loc 4))) x).toNat 4

/-- An atomic with a result on pages that its scope allows and that are dirty already: every access acts in turn, and the old
values land on LC. -/
def AtomicGives (i : Instr) (s : State) (c : Iss) (scope size o w : Nat) (d : BitVec 7) (sb a : BitVec 6) (f : Nat → Nat → Option Nat) :
    Prop :=
  ∀ ts s1, accessChecks s c (c.laneAccs sb a) size true = .ok (ts, s1) →
    (∀ t ∈ ts, notCarveOut t = true ∧ atomicAllowed scope t = true ∧ t.ent.loc = 0 ∧ t.ent.mt ≤ 2 ∧ t.ent.dirty = true) →
    let s2 := if ordRel o then releaseNow s1 c scope else s1
    let r := rmwAll s2 c scope size (fun x old => f (x.lane.getD 0) old) ts
    Answers i s fun t => t.mem = r.2.mem ∧ t.cluster = r.2.cluster ∧ t.hostMem = r.2.hostMem ∧ ∃ g' f' op,
      t.group? c.who.group = some g' ∧ g'.frag? c.who.index = some f' ∧ f'.pc = c.next ∧ op ∈ g'.ops ∧ op.counter = 1
        ∧ op.lands = c.wordLandings d.toNat w (r.1.map fun p => (p.1, BitVec.ofNat 64 p.2)) ∧ g'.stake.valid = false
        ∧ g'.sregs = c.g.sregs ∧ g'.mregs = c.g.mregs

/-- A store with em = 0 (R307): without ordering bits it only counts, and with them it is the FENCE of its scope. -/
def IdleGives (i : Instr) (s : State) (c : Iss) (ctr : Nat) (u : Uses) (o scope : Nat) : Prop :=
  c.em = 0 → c.g.level ctr < 255 → c.Passes i false u →
    (o = 0 → Answers i s fun t => t.mem = s.mem ∧ t.tiles = s.tiles ∧ c.LeftToPerform ctr false [] t)
    ∧ (o ≠ 0 → c.f.meldLeft = 0 → ∀ g : BitVec 2, g.toNat = scope → exec i s = exec (.fence g) s)

/-- A load, an atomic or a reduction with em = 0: as `IdleGives`, and at its issue, also where the fence holds it, it blocks a rewind of
the group's stake as `blocks` says: a load by its destination names, the others always (R159). -/
def IdleBlocks (i : Instr) (s : State) (c : Iss) (ctr : Nat) (u : Uses) (o scope : Nat) (blocks : Group → Group) : Prop :=
  c.em = 0 → c.g.level ctr < 255 → c.Passes i false u →
    (o = 0 → Answers i s fun t => t.mem = s.mem ∧ t.tiles = s.tiles ∧ c.LeftToPerform ctr false [] t
      ∧ ∀ g', t.group? c.who.group = some g' → g'.stake = (blocks c.g).stake)
    ∧ (o ≠ 0 → c.f.meldLeft = 0 → ∀ (g : BitVec 2), g.toNat = scope →
        ∃ y, exec (.fence g) s = .next y ∧ exec i s = .next (y.updGroup c.who.group blocks))

/-- How the names of a load's destination block a rewind. -/
def Iss.destBlocks (c : Iss) (d : BitVec 7) (w : Nat) (g : Group) : Group :=
  g.blockV ((List.range w).flatMap fun k => (c.destNames d.toNat).map (· + k))

/-- The fragment has gone on at the next slot with its answers written: scalar `n` holds `new n` where that is given, and no
other scalar, no lane register and no mask has changed. -/
def Iss.Answered (c : Iss) (new : Nat → Option DWord) (t : State) : Prop :=
  ∃ g' f', t.group? c.who.group = some g' ∧ g'.frag? c.who.index = some f' ∧ f'.pc = c.next ∧ f'.park = none
    ∧ (∀ n, n < 64 → g'.sNew n = (new n).getD (c.g.sNew n)) ∧ g'.vregs = c.g.vregs ∧ g'.mregs = c.g.mregs

/-- The answer of one scalar, and of none. -/
def oneNew (d : BitVec 6) (x : DWord) (n : Nat) : Option DWord := if n = d.toNat then some x else none
def noneNew (_ : Nat) : Option DWord := none

/-- The fragment has gone on at the next slot, and `x` is left to land in scalar `d`, counted on UC (R169). -/
def Iss.ScalarToLand (c : Iss) (d : Nat) (x : DWord) (t : State) : Prop :=
  ∃ g' f' op, t.group? c.who.group = some g' ∧ g'.frag? c.who.index = some f' ∧ f'.pc = c.next ∧ f'.park = none
    ∧ op ∈ g'.ops ∧ op.counter = 3 ∧ op.index = c.g.nextIndex 3 ∧ op.done = false ∧ op.lands = [.scalar d x]
    ∧ g'.sregs = c.g.sregs ∧ g'.vregs = c.g.vregs ∧ g'.mregs = c.g.mregs

/-- No store of a core is on its way to its home (R302). -/
def settledCore (s : State) (core : Nat) : Prop := waitingStores s core = [] ∧ s.wcb = [] ∧ s.cluster = []

/-- A fragment of this group that is answered goes on at once: neither a halt of its block nor pre-emption has stopped it. -/
def goesOn (s : State) (id : GroupId) : Prop :=
  ∀ g, s.group? id = some g → blockHalted s g = false ∧ g.stopped = false ∧ g.state ≠ .saved

/-- The fragment goes on at the slot after its own: its wait is over (R152). -/
def WentOnAfter (w : FragId) (s t : State) : Prop :=
  ∀ g f, s.group? w.group = some g → g.frag? w.index = some f →
    ∃ g' f', t.group? w.group = some g' ∧ SameRegisters g g' ∧ g'.frag? w.index = some f' ∧ f'.pc = nextSlot f.pc false ∧ f'.park = none

/-- The fragment issues its slot again: its wait is over (R152). -/
def Retries (w : FragId) (s t : State) : Prop :=
  ∀ g f, s.group? w.group = some g → g.frag? w.index = some f →
    ∃ g' f', t.group? w.group = some g' ∧ SameRegisters g g' ∧ g'.frag? w.index = some f' ∧ f'.pc = f.pc ∧ f'.park = none

end Sys2Proof.Machine
end

