-- ==== Sys2Proof/Certificates/Slice0/Obligations.lean ====
section
/-! DEFINITION. The statements for the provers. -/

open Sys2Proof Sys2Proof.Machine

/-! ## Encoding (R75 to R85) -/

/-- A few words of the manual's encodings, written out from its format rulers (R75 to R80), and what they decode to: the words
of the examples of chapters 5, 24 and 25. -/
def Obligations.ManualWordsDecode : Prop :=
  decodeWord 0x00010204#32 = .ok (.iadd 0 4 4 4)
  ∧ decodeWord 0x1E010000#32 = .ok (.lidx 0 4)
  ∧ decodeWord 0xA600C200#32 = .ok (.srd 0 3 2)
  ∧ decodeWord 0x8E015FFF#32 = .ok (.smovi 5 0x1FFF)
  ∧ decodeWord 0x8701450C#32 = .ok (.sshl 5 5 3)
  ∧ decodeWord 0xAD210007#32 = .ok (.split 2 1 7)
  ∧ decodeWord 0xAF004002#32 = .ok (.meld 1 2)
  ∧ decodeWord 0xB3000000#32 = .ok .exit
  ∧ decodeWord 0xE4300414#32 = .ok (.amend 3 4 5)
  ∧ decodeWord 0xCE000830#32 = .ok (.mma 0 8 12)

/-- Decoding what the encoder writes for a well-formed instruction gives that instruction, whatever its operands. -/
def Obligations.DecodeOfEncode : Prop :=
  ∀ i w, i.wellFormed = true → encode i = some w → decodeWord w = .ok i

/-- Every word that decodes is the encoding of the well-formed instruction it decodes to: a word has one meaning, and no field
that an entry leaves unused is ignored (R81, R85). -/
def Obligations.EncodeOfDecode : Prop :=
  ∀ w i, decodeWord w = .ok i → i.wellFormed = true ∧ encode i = some w

/-! ## One step -/

/-- A fragment whose turn it is, in a live group, runs the instruction that its next slot holds: the clock runs until the
fragment is ready, its bundle is supplied, and the step is `exec i` at the state that names the fragment and its slot's control
byte (R59 to R62, R67, R86), the lantern's tag on the slot notes what it leaves (R412), and no fragment issues after it. A turn in a
cycle's winners runs so too, but that a slot that traps waits behind a fragment of its group with a lower index whose turn is
still to come: of two that trap in one cycle the lower index enters the handler (R99). -/
def Obligations.StepRunsDecoded : Prop :=
  ∀ (s : State) (w : FragId) (rest : List Turn) (g : Group) (f : Fragment) (b : BitVec 128) (s0 s1 : State) (i : Instr),
    s.group? w.group = some g → g.frag? w.index = some f →
    groupLive s g = true → f.park = none →
    s0 = ({ s with agenda := rest } : State).tick (cyclesTo s w.core f.readyAt) → f.readyAt ≤ s0.cycleOf w.core →
    supply s0 w g.ctx f = .got b s1 →
    bundleFaulty b = false → slotOk b f.pc.toNat = true → (bundleKind b = 1 && isTransfer (bundleWord b (f.pc.toNat / 4 % 4))) = false →
    decodeWord (bundleWord b (f.pc.toNat / 4 % 4)) = .ok i →
    let s2 := { takeBundle s1 w g f b with cur := some (issuerOf w b (f.pc.toNat / 4 % 4)) }
    let out := afterIssue s2 i (exec i s2)
    (s.agenda = .issue w :: rest → step s = out)
    ∧ (s.agenda = .slot w :: rest → stillReady s w = true → (lowerTurn s w rest = none ∨ trapped w s out = false) → step s = out)
    ∧ (∀ v, s.agenda = .slot w :: rest → stillReady s w = true → lowerTurn s w rest = some v → trapped w s out = true →
        step s = .next { s with agenda := turnBehind w v rest })

/-- Every step keeps the canonical form of the memories (the model's own invariant, log 1). -/
def Obligations.StepKeepsMemories : Prop :=
  ∀ s t, s.memOk = true → step s = .next t → t.memOk = true

/-- The memories have their canonical form after reset (the model's own, log 1). -/
def Obligations.ResetMemories : Prop := State.reset.memOk = true

/-- A group as the launcher allocates it (R127): one fragment of every slice at CODE + ENTRY with em all ones, every mask 0, no
lane register but v124 to v127 allocated and those 0, s0 to s2 from the launch and every other scalar 0, both renaming tables
the identity, FLOOR, CAP and CHK of the record, handler mode off. -/
def Obligations.NewGroupState : Prop :=
  ∀ (l : LaunchRec) (record : DWord) (ctx kid linear gid role : Nat) (place : GroupId) (now : Nat),
    let g := Group.start l record ctx kid linear gid role place now
    let r := l.roles.getD role ⟨8, 0, 0, 0, 0⟩
    (∃ f, g.frags = [f] ∧ f.slices = 0xFF ∧ f.em = 0xFFFFFFFF ∧ f.pc = l.code + BitVec.ofNat 64 r.entry ∧ f.rstack = []
      ∧ f.meldLeft = 0)
    ∧ (∀ n, g.mNew n = 0)
    ∧ (∀ n, g.allocated n = true ↔ 124 ≤ n ∧ n ≤ 127) ∧ (∀ n k, (g.vNew n).get k = 0)
    ∧ g.sNew 0 = l.arg ∧ g.sNew 1 = record ∧ g.sNew 2 = BitVec.ofNat 64 (linear * 256 + role) ∧ (∀ n, 2 < n → g.sNew n = 0)
    ∧ (∀ n, n < 64 → (g.t0.toList.getD n 0).toNat = n ∧ (g.t1.toList.getD n 0).toNat = n)
    ∧ g.floor = l.floor ∧ g.outgrade = l.cap ∧ g.chk = l.chk ∧ g.h = false ∧ g.regs = r.regs

/-! ## Lane instructions (R193 to R208, R217 to R233) -/

/-- The lane arithmetic: each lane of em takes its result, and nothing else changes (R193, R195).

The arithmetic of the forms: sums, differences and products wrapped, or the nearest value of the format to the exact one (R195, R210);
the high half of a product is its quotient by 2^32, rounded down; the smaller and the larger operand as signed or unsigned numbers; and
the magnitude of the most negative number kept as its bits under wrap, clamped under .sat. -/
def Obligations.LaneArithmetic : Prop :=
  (∀ (f : BitVec 3) (d a b : BitVec 7),
      Lane2Gives (.iadd f d a b) d a b (addMode f.toNat)
      ∧ Lane2Gives (.isub f d a b) d a b (subMode f.toNat)
      ∧ Lane2Gives (.imul f d a b) d a b (mulMode f.toNat)
      ∧ Lane3Gives (.imad f d a b) d a b (madMode f.toNat)
      ∧ Lane2Gives (.imin f d a b) d a b (minMode f.toNat)
      ∧ Lane2Gives (.imax f d a b) d a b (maxMode f.toNat)
      ∧ Lane1Gives (.iabs f d a) d a (absMode f.toNat)
      ∧ Lane1Gives (.ineg f d a) d a (negMode f.toNat))
  ∧ (∀ (x y z : Word),
      (addMode 0 x y).toNat = (x.toNat + y.toNat) % 2 ^ 32
      ∧ (subMode 0 x y).toNat = (x.toNat + 2 ^ 32 - y.toNat) % 2 ^ 32
      ∧ (mulMode 0 x y).toNat = x.toNat * y.toNat % 2 ^ 32
      ∧ (mulMode 1 x y).toInt = x.toInt * y.toInt / 2 ^ 32
      ∧ (mulMode 2 x y).toNat = x.toNat * y.toNat / 2 ^ 32
      ∧ (madMode 0 x y z).toInt = (x.toInt * y.toInt + z.toInt).bmod (2 ^ 32)
      ∧ (madMode 1 x y z).toInt = max (-2 ^ 31) (min (2 ^ 31 - 1) (x.toInt * y.toInt + z.toInt))
      ∧ (minMode 0 x y).toInt = min x.toInt y.toInt ∧ (minMode 1 x y).toNat = min x.toNat y.toNat
      ∧ (maxMode 0 x y).toInt = max x.toInt y.toInt ∧ (maxMode 1 x y).toNat = max x.toNat y.toNat
      ∧ (absMode 0 x).toNat = x.toInt.natAbs ∧ (absMode 1 x).toInt = min (2 ^ 31 - 1) (x.toInt.natAbs : Int)
      ∧ (negMode 0 x).toNat = (2 ^ 32 - x.toNat) % 2 ^ 32 ∧ (negMode 1 x).toInt = min (2 ^ 31 - 1) (-x.toInt)
      ∧ (addMode 1 x y).toInt = max (-2 ^ 31) (min (2 ^ 31 - 1) (x.toInt + y.toInt))
      ∧ (addMode 2 x y).toNat = min (2 ^ 32 - 1) (x.toNat + y.toNat)
      ∧ (subMode 1 x y).toInt = max (-2 ^ 31) (min (2 ^ 31 - 1) (x.toInt - y.toInt))
      ∧ (subMode 2 x y).toNat = x.toNat - y.toNat)

/-- Logic, shifts, bit counts and bit fields (R196, R197): shifts by the whole of b[31:0], counts of 32 bits. -/
def Obligations.LaneLogicAndShifts : Prop :=
  ∀ (f : BitVec 3) (d a b : BitVec 7),
    Lane2Gives (.and d a b) d a b (fun x y => x &&& y)
    ∧ Lane2Gives (.or d a b) d a b (fun x y => x ||| y)
    ∧ Lane2Gives (.xor d a b) d a b (fun x y => x ^^^ y)
    ∧ Lane2Gives (.andn d a b) d a b (fun x y => x &&& ~~~y)
    ∧ Lane1Gives (.not d a) d a (fun x => ~~~x)
    ∧ Lane2Gives (.shl d a b) d a b (fun x y => BitVec.ofNat 32 (x.toNat * 2 ^ y.toNat))
    ∧ Lane2Gives (.shr f d a b) d a b (fun x y =>
        if f.toNat = 1 then BitVec.ofInt 32 (x.toInt / 2 ^ y.toNat) else BitVec.ofNat 32 (x.toNat / 2 ^ y.toNat))
    ∧ Lane2Gives (.rot f d a b) d a b (rotMode f.toNat)
    ∧ Lane1Gives (.popc d a) d a (fun x => BitVec.ofNat 32 (popcount x))
    ∧ Lane1Gives (.clz d a) d a (fun x => BitVec.ofNat 32 (clz x))
    ∧ Lane1Gives (.brev d a) d a (fun x => maskOf fun i => bitOf x (31 - i))
    ∧ Lane2Gives (.bfx f d a b) d a b (bfx f.toNat)
    ∧ Lane3Gives (.bfi d a b) d a b bfi

/-- Selection, moves, the lane number, and the wide and narrow integer forms (R198 to R202).

The lane movers (R203 to R208): which lane of which operand each lane of em takes. -/
def Obligations.LaneMovesAndPermutes : Prop :=
  (∀ (f : BitVec 3) (d a b : BitVec 7),
      LaneGives (.sel f d a b) (fun c => c.laneUses (.a a :: c.bOp (.b b)) [.d d] [.m f.toNat]) d
        (fun c k => if bitOf (c.mv f.toNat) k then c.v a.toNat k else c.bv b.toNat k)
      ∧ Lane1Gives (.mov d a) d a id
      ∧ LaneGives (.movl d) (fun c => c.laneUses [] [.d d]) d (fun c _ => c.lit.getD 0)
      ∧ LaneGives (.lidx f d) (fun c => c.laneUses [] [.d d]) d
          (fun _ k => BitVec.ofNat 32 (if f.toNat = 0 then k else if f.toNat = 1 then k / 4 else k % 4))
      ∧ PairGives (.iadd64 d a b) (fun c => c.laneUses (⟨a.toNat, 2, 0⟩ :: c.bOp ⟨b.toNat, 2, 1⟩) [⟨d.toNat, 2, 2⟩]) d
          (fun c k => c.v64 a.toNat k + c.bv64 b.toNat k)
      ∧ PairGives (.imulw f d a b) (fun c => c.laneUses (.a a :: c.bOp (.b b)) [⟨d.toNat, 2, 2⟩]) d
          (fun c k => if f.toNat = 1 then BitVec.ofNat 64 ((c.v a.toNat k).toNat * (c.bv b.toNat k).toNat)
            else BitVec.ofInt 64 ((c.v a.toNat k).toInt * (c.bv b.toNat k).toInt))
      ∧ Lane1Gives (.cvti f d a) d a (cvti f.toNat)
      ∧ Lane3Gives (.idot4 f d a b) d a b (idot4 f.toNat))
  ∧ (∀ (f : BitVec 3) (d a b : BitVec 7),
      LaneGives (.permb f d a b)
        (fun c => c.laneUses (c.bOp (.b b)) [.d d] [.s a.toNat, .s (a.toNat + 1)]) d
        (fun c k => permb f.toNat (permTable (c.sv a.toNat) (c.sv (a.toNat + 1))) (c.bv b.toNat k))
      ∧ Lane2Gives (.balign f d a b) d a b (balign f.toNat)
      ∧ Lane3Gives (.bsel d a b) d a b (fun x y z => (z &&& x) ||| (~~~z &&& y))
      ∧ LaneGives (.shfl d a b) (fun c => c.crossUses (.a a :: c.bOp (.b b)) [.d d]) d
          (fun c k => c.vFrom a.toNat k ((c.bv b.toNat k).toNat % 32))
      ∧ LaneGives (.shup f d a b) (fun c => c.crossUses (.a a :: c.bOp (.b b)) [.d d]) d
          (fun c k => if k ≥ f.toNat + 1 then c.vFrom a.toNat k (k - (f.toNat + 1))
            else c.bFrom b.toNat k (32 + k - (f.toNat + 1)))
      ∧ LaneGives (.shdn f d a b) (fun c => c.crossUses (.a a :: c.bOp (.b b)) [.d d]) d
          (fun c k => if k + (f.toNat + 1) ≤ 31 then c.vFrom a.toNat k (k + (f.toNat + 1))
            else c.bFrom b.toNat k (k + (f.toNat + 1) - 32))
      ∧ LaneGives (.shflx d a b) (fun c => c.crossUses (.a a :: c.bOp (.b b)) [.d d]) d
          (fun c k => c.vFrom a.toNat k (k ^^^ ((c.bv b.toNat k).toNat % 32)))
      ∧ LaneGives (.bcst d a b) (fun c => c.crossUses (.a a :: c.bOp (.b b)) [.d d]) d
          (fun c k => c.vFrom a.toNat k ((c.bv b.toNat (lowestOne c.em)).toNat % 32)))

/-- The binary32 and packed arithmetic, the function family and the conversions (R218 to R228): each lane of em takes the
operation's value under the rounding mode that f names, and nothing else changes. -/
def Obligations.LaneFloat : Prop :=
  ∀ (f : BitVec 3) (d a b : BitVec 7),
    let m := Rnd.of f.toNat
    Lane2Gives (.fadd f d a b) d a b (word2 (fadd fmt32 m))
    ∧ Lane2Gives (.fsub f d a b) d a b (word2 (fsub fmt32 m))
    ∧ Lane2Gives (.fmul f d a b) d a b (word2 (fmul fmt32 m))
    ∧ Lane3Gives (.ffma f d a b) d a b (fun x y z => BitVec.ofNat 32 (ffma fmt32 m x.toNat y.toNat z.toNat))
    ∧ Lane2Gives (.fmin d a b) d a b (fminmax false)
    ∧ Lane2Gives (.fmax d a b) d a b (fminmax true)
    ∧ Lane2Gives (.fsgn f d a b) d a b (fsgn f.toNat)
    ∧ LaneGives (.frcp f d a) (usesA a d) d (fun c k => funcLane 0 (f.toNat ≥ 4) m c.g.fnthr (c.v a.toNat k))
    ∧ LaneGives (.frsq f d a) (usesA a d) d (fun c k => funcLane 1 (f.toNat ≥ 4) m c.g.fnthr (c.v a.toNat k))
    ∧ LaneGives (.fexp2 f d a) (usesA a d) d (fun c k => funcLane 2 (f.toNat ≥ 4) m c.g.fnthr (c.v a.toNat k))
    ∧ LaneGives (.flog2 f d a) (usesA a d) d (fun c k => funcLane 3 (f.toNat ≥ 4) m c.g.fnthr (c.v a.toNat k))
    ∧ LaneGives (.ftanh f d a) (usesA a d) d (fun c k => funcLane 4 (f.toNat ≥ 4) m c.g.fnthr (c.v a.toNat k))
    ∧ Lane2Gives (.hadd2 f d a b) d a b (fun x y => packedOp 0 (f.toNat ≥ 4) m x y 0)
    ∧ Lane2Gives (.hmul2 f d a b) d a b (fun x y => packedOp 1 (f.toNat ≥ 4) m x y 0)
    ∧ Lane3Gives (.hfma2 f d a b) d a b (packedOp 2 (f.toNat ≥ 4) m)
    ∧ LaneGives (.cvtf f d a b) (fun c => c.laneUses (.a a :: if b.toNat % 8 ≠ 0 then [.d d] else []) [.d d]) d
        (fun c k => cvtf (f.toNat ≥ 4) m (b.toNat / 8) (b.toNat % 8) (c.v a.toNat k) (c.v d.toNat k))
    ∧ Lane1Gives (.cvtfi f d a b) d a (cvtfi m (b.toNat / 8) (b.toNat % 8))
    ∧ LaneGives (.cvtif f d a b) (fun c => c.laneUses (.a a :: if b.toNat % 8 ≠ 0 then [.d d] else []) [.d d]) d
        (fun c k => cvtif m (b.toNat / 8) (b.toNat % 8) (c.v a.toNat k) (c.v d.toNat k))
    ∧ Lane1Gives (.frnd f d a) d a (frnd m)
    ∧ Lane2Gives (.fscl f d a b) d a b (fscl m)

/-- The comparisons write a mask: 1 in the lanes of em where the relation holds, 0 in the fragment's other lanes, and no bit
outside its lanes; with em = 0 a lane comparison writes nothing (R179, R198, R216, R220, BALLOT of R191). -/
def Obligations.ComparisonsWriteMasks : Prop :=
  ∀ (f : BitVec 3) (d a b : BitVec 7) (dm am : BitVec 6),
    MaskGives (.icmp f d a b) false (fun c => c.laneUses (.a a :: c.bOp (.b b)) [] [] [.m d.toNat]) d.toNat
      (fun c => if c.em = 0 then c.g.mNew d.toNat else maskOf fun k => bitOf c.em k && relHolds f.toNat (c.v a.toNat k).toInt (c.bv b.toNat k).toInt)
    ∧ MaskGives (.icmpu f d a b) false (fun c => c.laneUses (.a a :: c.bOp (.b b)) [] [] [.m d.toNat]) d.toNat
      (fun c => if c.em = 0 then c.g.mNew d.toNat else maskOf fun k => bitOf c.em k && relHolds f.toNat (c.v a.toNat k).toNat (c.bv b.toNat k).toNat)
    ∧ MaskGives (.fcmp f d a b) false (fun c => c.laneUses (.a a :: c.bOp (.b b)) [] [] [.m d.toNat]) d.toNat
      (fun c => if c.em = 0 then c.g.mNew d.toNat else maskOf fun k => bitOf c.em k && fcmp f.toNat (c.v a.toNat k) (c.bv b.toNat k))
    ∧ MaskGives (.fclass d a b) false (fun c => c.laneUses (.a a :: c.bOp (.b b)) [] [] [.m d.toNat]) d.toNat
      (fun c => if c.em = 0 then c.g.mNew d.toNat else maskOf fun k => bitOf c.em k && bitOf (c.bv b.toNat k) (fclass (c.v a.toNat k)))
    ∧ MaskGives (.ballot dm am) true
      (fun c => { vr := [⟨am.toNat, 1, 0⟩], vw := [], nr := [c.emName], nw := [.m dm.toNat], rl := c.em, wl := 0 }) dm.toNat
      (fun c => maskOf fun i => bitOf c.em i && c.v am.toNat i != 0)

/-- FDIV and FSQRT (R221): the destination is allocated at issue, and the quotient or root of each lane of em is left to land,
counted on VC (R69, R169). -/
def Obligations.DivisionIsCounted : Prop :=
  ∀ (f : BitVec 3) (d a b : BitVec 7) (s : State) (c : Iss), s.issuer? = some c → c.g.level 0 < 255 →
    (c.Passes (.fdiv f d a b) false (usesAB a b d c) →
      Answers (.fdiv f d a b) s fun t => ∃ g' op, t.group? c.who.group = some g' ∧ g'.ops = (c.g.lastReads c (usesAB a b d c)).ops ++ [op]
        ∧ op.counter = 0 ∧ op.index = c.g.nextIndex 0 ∧ op.done = false
        ∧ op.lands = c.landings d.toNat 0 c.em (fun k => word2 (fdiv fmt32 (Rnd.of f.toNat)) (c.v a.toNat k) (c.bv b.toNat k))
        ∧ g'.level 0 = (c.g.lastReads c (usesAB a b d c)).level 0 + 1 ∧ (c.em ≠ 0 → c.melded = false → g'.allocated d.toNat = true))
    ∧ (c.Passes (.fsqrt f d a) false (usesA a d c) →
      Answers (.fsqrt f d a) s fun t => ∃ g' op, t.group? c.who.group = some g' ∧ g'.ops = (c.g.lastReads c (usesA a d c)).ops ++ [op]
        ∧ op.counter = 0 ∧ op.index = c.g.nextIndex 0 ∧ op.done = false
        ∧ op.lands = c.landings d.toNat 0 c.em (fun k => BitVec.ofNat 32 (fsqrt fmt32 (Rnd.of f.toNat) (c.v a.toNat k).toNat))
        ∧ g'.level 0 = (c.g.lastReads c (usesA a d c)).level 0 + 1 ∧ (c.em ≠ 0 → c.melded = false → g'.allocated d.toNat = true))

/-- PACKN and UNPKN (R229 to R232): under a valid packable format, each lane of em takes its four elements packed with the
scale that d holds, or with f[2] set the scale that its lane block's values choose; UNPKN takes the elements of a word, one to a
register; with em = 0 both only go on (R216). What UNPKN checks and releases with em = 0 is the
model's choice (log 114). -/
def Obligations.NarrowPacking : Prop :=
  ∀ (f : BitVec 3) (d a b : BitVec 7) (s : State) (c : Iss) (fw : FormatWord), s.issuer? = some c →
    c.lit = none → (c.em = 0 ∨ formatWord (c.sv b.toNat) = some fw) →
    let one := c.laneUses (⟨a.toNat, 4, 0⟩ :: if fw.sk = .none then [] else [.d d]) [.d d] [.s b.toNat]
    let all : Uses := { c.laneUses [⟨a.toNat, 4, 0⟩] [.d d] [.s b.toNat] with rl := c.em ||| (blockLanes c fw &&& ~~~c.lanes) }
    (c.em = 0 → c.Passes (.packn f d a b) false (c.laneUses [⟨a.toNat, 4, 0⟩] [.d d]) → (4 ≤ f.toNat → c.melded = false) →
      Answers (.packn f d a b) s (c.GoesTo (c.g.lastReads c (c.laneUses [⟨a.toNat, 4, 0⟩] [.d d])) c.next c.f.rstack s))
    ∧ (c.em = 0 → c.Passes (.unpkn f d a b) false (c.laneUses [⟨a.toNat, 1, 0⟩] [⟨d.toNat, 2, 2⟩]) →
      Answers (.unpkn f d a b) s (c.GoesTo (c.g.lastReads c (c.laneUses [⟨a.toNat, 1, 0⟩] [⟨d.toNat, 2, 2⟩])) c.next c.f.rstack s))
    ∧ (c.em ≠ 0 → f.toNat < 4 → packable fw.ef = true → c.Passes (.packn f d a b) false one →
      Answers (.packn f d a b) s fun t => OnlyGroup c.who.group s t ∧ ∃ g', t.group? c.who.group = some g' ∧
        LaneResult c one d.toNat 1 c.em (fun _ k => packWord fw (Rnd.of f.toNat) (c.v d.toNat k) fun q => c.v a.toNat k q) g')
    ∧ (c.em ≠ 0 → f.toNat ≥ 4 → packable fw.ef = true → fw.sk ≠ .none → c.melded = false → c.Passes (.packn f d a b) false all →
      Answers (.packn f d a b) s fun t => OnlyGroup c.who.group s t ∧ ∃ g', t.group? c.who.group = some g' ∧
        LaneResult c all d.toNat 1 c.em (fun _ k => chooseScale fw.ef fw.sk (blockValues c fw a.toNat k)) g')
    ∧ (∀ w, c.em ≠ 0 → unpackWidth fw.ef = some w → (f.toNat < 4 ∨ fw.ef.bits = 4) →
      let u := c.laneUses [⟨a.toNat, if fw.sk = .none then 1 else 2, 0⟩] [⟨d.toNat, w, 2⟩] [.s b.toNat]
      c.Passes (.unpkn f d a b) false u →
        Answers (.unpkn f d a b) s fun t => OnlyGroup c.who.group s t ∧ ∃ g', t.group? c.who.group = some g' ∧
          LaneResult c u d.toNat w c.em (fun q k => unpackElement fw.ef fw.sk (Rnd.of f.toNat) (scaleBits fw.sk (c.v a.toNat k 1))
            (packedElement fw (f.toNat / 4) q (c.v a.toNat k))) g')

/-- The checks before an effect, in their order (R86), for IADD: an illegal field or place (0x01), then an undersized stall
(0x03), then a read of an unallocated register (0x04), whose name FADDR holds. -/
def Obligations.IssueChecksInOrder : Prop :=
  ∀ (f : BitVec 3) (d a b : BitVec 7) (s : State) (c : Iss), s.issuer? = some c →
    let i := Instr.iadd f d a b
    let u := usesAB a b d c
    let legal := i.wellFormed = true ∧ literalOk i c.lit.isSome = true ∧ ∀ o ∈ u.vr ++ u.vw, c.legalOp o = true
    (¬legal → TrapsOpen i s c 1 0)
    ∧ (legal → c.g.chk = true → c.hazard u = true → TrapsOpen i s c 3 0)
    ∧ (∀ n, legal → c.g.chk = true → c.hazard u = false → c.unallocated? u = some n → Traps i s c 4 (BitVec.ofNat 64 n) 0)

/-- The latency of a write (R68): a slot of the group that issues before the result is readable reads the old value of each lane
that it writes, a later one the new value, where no other write is on its way; a lane that it does not write keeps its value. -/
def Obligations.LatencyShowsOldValue : Prop :=
  ∀ (g : Group) (now lat n : Nat) (m track : Word) (f : Nat → Word) (t i : Nat), i < 32 →
    g.pend.all (fun p => p.name != .v n) = true →
    (t < now + lat → (g.putV now lat n m track f).vAt t n i = (g.vNew n).get i)
    ∧ (now + lat ≤ t → (g.putV now lat n m track f).vAt t n i = if bitOf m i then f i else (g.vNew n).get i)

/-! ## Scalars and masks (R178, R179, R191, R209 to R214) -/

/-- The scalar instructions: s[d] takes the value, no other scalar changes (R209 to R211).

Between lanes and scalars (R212 to R214): RDLANE reads one lane, WRLANE writes one lane of em, REDUX reduces the lanes of
em, VBCST writes every lane of em. -/
def Obligations.ScalarArithmetic : Prop :=
  (∀ (f : BitVec 4) (d a b : BitVec 6) (i : BitVec 14),
      Scalar2Gives (.sadd f d a b) d a b (addMode f.toNat)
      ∧ Scalar2Gives (.ssub f d a b) d a b (subMode f.toNat)
      ∧ Scalar2Gives (.smul d a b) d a b (fun x y => x * y)
      ∧ Scalar2Gives (.smulh f d a b) d a b (fun x y =>
          if f.toNat = 0 then BitVec.ofInt 64 (x.toInt * y.toInt / 2 ^ 64) else BitVec.ofNat 64 (x.toNat * y.toNat / 2 ^ 64))
      ∧ Scalar2Gives (.sand d a b) d a b (fun x y => x &&& y)
      ∧ Scalar2Gives (.sor d a b) d a b (fun x y => x ||| y)
      ∧ Scalar2Gives (.sxor d a b) d a b (fun x y => x ^^^ y)
      ∧ Scalar2Gives (.sshl d a b) d a b (fun x y => BitVec.ofNat 64 (x.toNat * 2 ^ y.toNat))
      ∧ Scalar2Gives (.sshr f d a b) d a b (fun x y =>
          if f.toNat = 1 then BitVec.ofInt 64 (x.toInt / 2 ^ y.toNat) else BitVec.ofNat 64 (x.toNat / 2 ^ y.toNat))
      ∧ Scalar2Gives (.smin f d a b) d a b (minMode f.toNat)
      ∧ Scalar2Gives (.smax f d a b) d a b (maxMode f.toNat)
      ∧ Scalar2Gives (.scmp f d a b) d a b (scmp f.toNat)
      ∧ Scalar2Gives (.sbfx f d a b) d a b (sbfx f.toNat)
      ∧ ScalarGives (.ssel d a b) (fun c => uniUses (.s a.toNat :: (c.bName b ++ [.s d.toNat])) [.s d.toNat]) d
          (fun c => if c.sv d.toNat ≠ 0 then c.sv a.toNat else c.bs b.toNat)
      ∧ Scalar1Gives (.smov d a) d a id
      ∧ ScalarGives (.smovl d) (fun _ => uniUses [] [.s d.toNat]) d (fun c => (c.lit.getD 0).signExtend 64)
      ∧ Scalar1Gives (.spopc d a) d a (fun x => BitVec.ofNat 64 (popcount x))
      ∧ Scalar1Gives (.sclz d a) d a (fun x => BitVec.ofNat 64 (clz x))
      ∧ ScalarGives (.smovi d i) (fun _ => uniUses [] [.s d.toNat]) d (fun _ => i.signExtend 64)
      ∧ ScalarGives (.saddi d i) (fun _ => uniUses [.s d.toNat] [.s d.toNat]) d (fun c => c.sv d.toNat + i.signExtend 64)
      ∧ ScalarGives (.slui f d i) (fun _ => uniUses [.s d.toNat] [.s d.toNat]) d (fun c => slui f.toNat i (c.sv d.toNat)))
  ∧ (∀ (f : BitVec 4) (d a b : BitVec 6) (g : BitVec 2),
      ScalarGives (.rdlane d a b g)
        (fun c => { vr := [⟨a.toNat, if g.toNat = 2 then 2 else 1, 0⟩], vw := [], nr := [.s b.toNat], nw := [.s d.toNat],
                    rl := oneLane (laneIndex (c.sv b.toNat)), wl := 0 }) d
        (fun c =>
          let k := (c.sv b.toNat).toNat % 32
          if g.toNat = 0 then (c.v a.toNat k).setWidth 64 else if g.toNat = 1 then (c.v a.toNat k).signExtend 64
          else c.v64 a.toNat k)
      ∧ ScalarGives (.redux f d a)
        (fun c => { vr := [⟨a.toNat, 1, 0⟩], vw := [], nr := [c.emName], nw := [.s d.toNat], rl := c.em, wl := 0 }) d
        (fun c => reduxOf f.toNat (c.emLanes.map fun i => c.v a.toNat i))
      ∧ Completes (.wrlane d a b g) true
        (fun c => { vr := [], vw := [⟨d.toNat, if g.toNat = 1 then 2 else 1, 3⟩], nr := [c.emName, .s a.toNat, .s b.toNat],
                    nw := [], rl := 0, wl := c.em &&& oneLane (laneIndex (c.sv b.toNat)) })
        (fun _ c g' => LaneResult c { vr := [], vw := [], nr := [], nw := [], rl := 0, wl := 0 } d.toNat (if g.toNat = 1 then 2 else 1)
          (c.em &&& oneLane (laneIndex (c.sv b.toNat))) (fun k _ => (c.sv a.toNat).extractLsb' (32 * k) 32) g')
      ∧ Completes (.vbcst f d a) true
        (fun c => { vr := [], vw := [⟨d.toNat, if f.toNat = 1 then 2 else 1, 3⟩], nr := [c.emName, .s a.toNat], nw := [],
                    rl := 0, wl := c.em })
        (fun _ c g' => LaneResult c { vr := [], vw := [], nr := [], nw := [], rl := 0, wl := 0 } d.toNat (if f.toNat = 1 then 2 else 1)
          c.em (fun k _ => (c.sv a.toNat).extractLsb' (32 * k) 32) g'))

/-- The mask instructions (R178, R179, R191): a mask takes its value in the fragment's lanes alone.

EMWR (R191): em of the issuing fragment takes its value within the fragment's lanes; no lane register, scalar or mask
changes, and no other fragment. -/
def Obligations.MaskInstructions : Prop :=
  (∀ (f : BitVec 4) (d a b : BitVec 6),
      MaskGives (.mand d a b) true (fun _ => uniUses [.m a.toNat, .m b.toNat] [.m d.toNat]) d.toNat (fun c => c.mv a.toNat &&& c.mv b.toNat)
      ∧ MaskGives (.mor d a b) true (fun _ => uniUses [.m a.toNat, .m b.toNat] [.m d.toNat]) d.toNat (fun c => c.mv a.toNat ||| c.mv b.toNat)
      ∧ MaskGives (.mxor d a b) true (fun _ => uniUses [.m a.toNat, .m b.toNat] [.m d.toNat]) d.toNat (fun c => c.mv a.toNat ^^^ c.mv b.toNat)
      ∧ MaskGives (.mnot d a) true (fun _ => uniUses [.m a.toNat] [.m d.toNat]) d.toNat (fun c => ~~~c.mv a.toNat)
      ∧ (f.toNat = 0 → MaskGives (.mmov f d a) true (fun _ => uniUses [.m a.toNat] [.m d.toNat]) d.toNat (fun c => c.mv a.toNat))
      ∧ (f.toNat = 1 → MaskGives (.mmov f d a) true (fun _ => uniUses [.s a.toNat] [.m d.toNat]) d.toNat
          (fun c => (c.sv a.toNat).setWidth 32))
      ∧ (f.toNat = 2 → ScalarGives (.mmov f d a) (fun _ => uniUses [.m a.toNat] [.s d.toNat]) d (fun c => (c.mv a.toNat).setWidth 64))
      ∧ (f.toNat = 0 → ScalarGives (.emrd f d) (fun c => uniUses [c.emName] [.s d.toNat]) d (fun c => c.em.setWidth 64))
      ∧ (f.toNat = 1 → MaskGives (.emrd f d) true (fun c => uniUses [c.emName] [.m d.toNat]) d.toNat (fun c => c.em))
      ∧ ScalarGives (.mpopc f d a) (fun c => uniUses (if f.toNat = 0 then [c.emName, .m a.toNat] else [.m a.toNat]) [.s d.toNat]) d
          (fun c => BitVec.ofNat 64 (popcount (maskSeen c f.toNat a.toNat)))
      ∧ ScalarGives (.mfirst f d a) (fun c => uniUses (if f.toNat = 0 then [c.emName, .m a.toNat] else [.m a.toNat]) [.s d.toNat]) d
          (fun c => BitVec.ofNat 64 (lowestOne (maskSeen c f.toNat a.toNat))))
  ∧ (∀ (f : BitVec 4) (a : BitVec 6) (s : State) (c : Iss), s.issuer? = some c →
      c.Passes (.emwr f a) true (uniUses (if f.toNat = 1 ∨ f.toNat = 2 then [c.emName, if f.toNat = 0 then .s a.toNat else .m a.toNat]
        else [if f.toNat = 0 then .s a.toNat else .m a.toNat]) [c.emName]) →
      Answers (.emwr f a) s fun t => ∃ g', t.group? c.who.group = some g'
        ∧ g'.vregs = c.g.vregs ∧ g'.sregs = c.g.sregs ∧ g'.mregs = c.g.mregs
        ∧ g'.frags = c.g.frags.map fun x => if x.index = c.who.index then
            { x.after c c.next with em := (match f.toNat with
              | 0 => (c.sv a.toNat).setWidth 32
              | 1 => c.em &&& c.mv a.toNat
              | 2 => c.em &&& ~~~c.mv a.toNat
              | _ => c.mv a.toNat) &&& c.lanes } else x)

/-- SRD (R103, R104): s[d] takes the special register, or with f = 1 each lane of em takes its low 32 bits.

SWR (R103, R105): a read-write special register takes s[a], MSTAT clears the bits written as 1, the trap registers can be
written in the handler alone, and a write of any other one traps with cause 0x09; so does FLOOR := 0 with cause 0x01. -/
def Obligations.SpecialRegisters : Prop :=
  (∀ (f : BitVec 4) (d a : BitVec 6),
      (f.toNat = 0 → Completes (.srd f d a) true (fun _ => uniUses [] [.s d.toNat])
        (fun s c g' => ScalarResult c (uniUses [] []) d.toNat (specialValue s c a.toNat 0) g'))
      ∧ (f.toNat = 1 → Completes (.srd f d a) true
        (fun c => { vr := [], vw := [⟨d.toNat, 1, 3⟩], nr := [c.emName], nw := [], rl := 0, wl := c.em })
        (fun s c g' => LaneResult c (uniUses [] []) d.toNat 1 c.em (fun _ k => (specialValue s c a.toNat k).setWidth 32) g')))
  ∧ (∀ (d a : BitVec 6) (s : State) (c : Iss), s.issuer? = some c → c.Passes (.swr d a) true (uniUses [.s a.toNat] []) →
      let x := c.sv a.toNat
      ((d.toNat = 0x11 ∧ x.toNat % 4 = 0) → TrapsOpen (.swr d a) s c 1 0)
      ∧ (¬(d.toNat = 0x11 ∧ x.toNat % 4 = 0) → ¬(d.toNat ∈ [0x11, 0x14, 0x15, 0x16, 0x20] ∨ (c.g.h = true ∧ d.toNat ∈ [0x17, 0x18, 0x19, 0x1A])) →
          TrapsOpen (.swr d a) s c 9 0)
      ∧ (¬(d.toNat = 0x11 ∧ x.toNat % 4 = 0) → (d.toNat ∈ [0x11, 0x14, 0x15, 0x16, 0x20] ∨ (c.g.h = true ∧ d.toNat ∈ [0x17, 0x18, 0x19, 0x1A])) →
          Answers (.swr d a) s fun t => OnlyGroup c.who.group s t ∧ ∃ g', t.group? c.who.group = some g'
            ∧ g'.vregs = c.g.vregs ∧ g'.sregs = c.g.sregs ∧ g'.mregs = c.g.mregs ∧ g'.outgrade = c.g.outgrade ∧ g'.h = c.g.h
            ∧ g'.floor = (if d.toNat = 0x11 then x.toNat % 4 else c.g.floor)
            ∧ g'.chk = (if d.toNat = 0x14 then x.getLsbD 0 else c.g.chk)
            ∧ g'.fnthr = (if d.toNat = 0x15 then (x.setWidth 31).setWidth 32 else c.g.fnthr)
            ∧ g'.mskip = (if d.toNat = 0x16 then x.setWidth 8 else c.g.mskip)
            ∧ g'.fcause = (if d.toNat = 0x17 then x.setWidth 8 else c.g.fcause)
            ∧ g'.faddr = (if d.toNat = 0x18 then x else c.g.faddr)
            ∧ g'.fpc = (if d.toNat = 0x19 then x else c.g.fpc)
            ∧ g'.finfo = (if d.toNat = 0x1A then x else c.g.finfo)
            ∧ g'.mstat = (if d.toNat = 0x20 then c.g.mstat &&& ~~~x.setWidth 4 else c.g.mstat)
            ∧ c.WentOn c.next c.g g'))

/-! ## Control (R64, R79, R98 to R107, R167 to R171, R181 to R191) -/

/-- BRA and LOOPB (R64, R79, R170): the condition decides; taken, the fragment goes on at a legal target, and an illegal one
traps with cause 0x02 and the target in FADDR; not taken, at the next slot. The cause 0x01 of LOOPB's range comes before the cause 0x03 by the model's
choice (log 113). -/
def Obligations.ConditionalTransfers : Prop :=
  ∀ (cond r : BitVec 4) (p : BitVec 16) (s : State) (c : Iss), s.issuer? = some c →
    let target := c.pc + BitVec.ofInt 64 (4 * p.toInt)
    let u := uniUses (condNames c cond r) []
    let holds := condTaken cond.toNat (c.mv r.toNat) (c.sv r.toNat) c.em
    let near := (c.pc.toNat : Int) / 16 - (c.pc.toNat + 4 * p.toInt) / 16 ≤ 31
    (c.Passes (.bra cond r p) true u →
      (holds = false → Answers (.bra cond r p) s (c.GoesTo c.g c.next c.f.rstack s))
      ∧ (holds = true → ∀ s1, checkTarget s c.who.core c.g.ctx target = .ok s1 →
          Answers (.bra cond r p) s (c.GoesTo c.g target c.f.rstack s))
      ∧ (holds = true → checkTarget s c.who.core c.g.ctx target = .bad → Traps (.bra cond r p) s c 2 target 0))
    ∧ (c.Passes (.loopb cond r p) true u →
      (¬near → TrapsOpen (.loopb cond r p) s c 1 0)
      ∧ (near → holds = false → Answers (.loopb cond r p) s (c.GoesTo c.g c.next c.f.rstack s))
      ∧ (near → holds = true → ∀ s1, checkTarget s c.who.core c.g.ctx target = .ok s1 →
          Answers (.loopb cond r p) s (c.GoesTo c.g target c.f.rstack s))
      ∧ (near → holds = true → checkTarget s c.who.core c.g.ctx target = .bad → Traps (.loopb cond r p) s c 2 target 0))

/-- JMPI, CALL, CALLI and RET (R64, R184, R185): the target, the return stack of 16 entries with the slot after the call on
top, the trap at depth 16 with FINFO = 1 and the trap of RET at depth 0. -/
def Obligations.CallsAndReturns : Prop :=
  ∀ (a : BitVec 6) (p : BitVec 16) (s : State) (c : Iss), s.issuer? = some c →
    let x := c.sv a.toNat
    let y := c.pc + BitVec.ofInt 64 (4 * p.toInt)
    let legal (t : DWord) := ∃ s1, checkTarget s c.who.core c.g.ctx t = .ok s1
    (c.Passes (.jmpi a) true (uniUses [.s a.toNat] []) → legal x → Answers (.jmpi a) s (c.GoesTo c.g x c.f.rstack s))
    ∧ (c.Passes (.jmpi a) true (uniUses [.s a.toNat] []) → checkTarget s c.who.core c.g.ctx x = .bad → Traps (.jmpi a) s c 2 x 0)
    ∧ (c.Passes (.call p) true (uniUses [] []) → c.f.rstack.length < 16 → legal y →
        Answers (.call p) s (c.GoesTo c.g y (c.next :: c.f.rstack) s))
    ∧ (c.Passes (.call p) true (uniUses [] []) → 16 ≤ c.f.rstack.length → TrapsOpen (.call p) s c 1 1)
    ∧ (c.Passes (.calli a) true (uniUses [.s a.toNat] []) → c.f.rstack.length < 16 → legal x →
        Answers (.calli a) s (c.GoesTo c.g x (c.next :: c.f.rstack) s))
    ∧ (c.Passes (.calli a) true (uniUses [.s a.toNat] []) → 16 ≤ c.f.rstack.length → TrapsOpen (.calli a) s c 1 1)
    ∧ (∀ t rest, c.Passes .ret true (uniUses [] []) → c.f.rstack = t :: rest → legal t → Answers .ret s (c.GoesTo c.g t rest s))
    ∧ (c.Passes .ret true (uniUses [] []) → c.f.rstack = [] → Traps .ret s c 2 0 0)

/-- SPLIT (R182): the slices with lanes that want to go there go to the target in a new fragment at the lowest free index, the
others stay with the issuer, and m[r] keeps the lanes whose slice went the other way; with no slice or every slice going there
is one fragment, as before.

REGANG (R181, R183): alone it has no effect beyond its stall; while another fragment is still on its way it waits; and the
last of fragments that wait at the same slot with the same return stack brings them together in one, with every slice and lane.

SYNCL (R189, R190): a fragment whose lanes all supply the same mask, that holds exactly its share of it, waits until every
lane of the mask has arrived, and with the last arrival goes on; a fragment with no lane in em goes on; a lane that supplies another
mask, or none with its own bit, or that is named and absent, brings the trap 0x07 with the lane in FINFO. That the residue stands in m[r] at once
(log 18), and which lane a SYNCL names as the one at fault (log 93), is the model's choice. -/
def Obligations.FragmentsSplitAndJoin : Prop :=
  (∀ (cond r : BitVec 4) (p : BitVec 16) (s : State) (c : Iss), s.issuer? = some c →
      c.Passes (.split cond r p) true (uniUses [c.emName, .m r.toNat] [.m r.toNat]) →
      let target := c.pc + BitVec.ofInt 64 (4 * p.toInt)
      let go := splitTaken c (cond.toNat = 2) (c.mv r.toNat)
      let g := { c.g with mregs := c.g.mregs.setIfInBounds r.toNat ((c.g.mNew r.toNat &&& ~~~c.em) ||| (splitResidue c go (c.mv r.toNat) &&& c.em)) }
      (∀ k, k < 8 → (go.getLsbD k = true ↔ c.f.slices.getLsbD k = true ∧ (∃ i, i / 4 = k ∧ bitOf c.em i = true)
          ∧ if cond.toNat = 2 then ∀ i, i / 4 = k → bitOf c.em i = true → bitOf (c.mv r.toNat) i = true
            else ∃ i, i / 4 = k ∧ bitOf c.em i = true ∧ bitOf (c.mv r.toNat) i = true))
      ∧ (go = 0 → Answers (.split cond r p) s (c.GoesTo g c.next c.f.rstack s))
      ∧ (∀ s1, go ≠ 0 → go = c.f.slices → checkTarget s c.who.core c.g.ctx target = .ok s1 →
          Answers (.split cond r p) s (c.GoesTo g target c.f.rstack s))
      ∧ (∀ s1, go ≠ 0 → go ≠ c.f.slices → c.g.freeIndex < 8 → checkTarget s c.who.core c.g.ctx target = .ok s1 →
          Answers (.split cond r p) s fun t => ∃ g' a b, t.group? c.who.group = some g' ∧ SameRegisters g g'
            ∧ g'.frag? c.who.index = some a ∧ a.pc = c.next ∧ a.slices = c.f.slices &&& ~~~go ∧ a.em = c.f.em &&& lanesOf (c.f.slices &&& ~~~go)
            ∧ g'.frag? c.g.freeIndex = some b ∧ b.pc = target ∧ b.slices = go ∧ b.em = c.f.em &&& lanesOf go ∧ b.rstack = c.f.rstack
            ∧ ∀ k, k ≠ c.who.index → k ≠ c.g.freeIndex → g'.frag? k = c.g.frag? k))
  ∧ (∀ (s : State) (c : Iss), s.issuer? = some c → c.Passes .regang true (uniUses [] []) →
      (c.g.frags.length = 1 → Answers .regang s (c.GoesTo c.g c.next c.f.rstack s))
      ∧ ((∃ f, f ∈ c.g.frags ∧ f.index ≠ c.who.index ∧ f.park ≠ some .regang) → Answers .regang s (c.WaitsOn .regang))
      ∧ (1 < c.g.frags.length → (c.g.frags.map (·.index)).Nodup → (∀ f ∈ c.g.frags, f.index < 8) →
          (∀ f ∈ c.g.frags, f.index ≠ c.who.index → f.park = some .regang ∧ f.pc = c.pc ∧ f.rstack = c.f.rstack) →
          Answers .regang s fun t => ∃ g' f', t.group? c.who.group = some g' ∧ g'.frags = [f'] ∧ f'.pc = c.next ∧ f'.park = none
            ∧ f'.slices = c.g.frags.foldl (fun acc f => acc ||| f.slices) 0 ∧ f'.em = c.g.frags.foldl (fun acc f => acc ||| f.em) 0
            ∧ f'.rstack = c.f.rstack))
  ∧ (∀ (a : BitVec 6) (s : State) (c : Iss), s.issuer? = some c →
      c.Passes (.syncl a) true { vr := [⟨a.toNat, 1, 0⟩], vw := [], nr := [c.emName], nw := [], rl := c.em, wl := 0 } →
      let old : SynclInst := (c.g.syncl.find? fun i => i.pc = c.pc).getD ⟨c.pc, 0, 0, 0, none⟩
      let absent := old.absent ||| (c.lanes &&& ~~~c.em)
      let m := old.supplied.getD (c.v a.toNat (lowestOne c.em))
      let came := old.arrived ||| c.em
      let fault := synclFault c a.toNat old.supplied absent c.g.liveLanes
      (c.em ≠ 0 → old.failed = none → fault = none → came &&& m = m →
        Answers (.syncl a) s fun t => ∃ g' f', t.group? c.who.group = some g' ∧ g'.frag? c.who.index = some f' ∧ f'.pc = c.next
          ∧ f'.park = none ∧ (∀ i ∈ g'.syncl, i.pc ≠ c.pc)
          ∧ ∀ f ∈ g'.frags, f.index ≠ c.who.index → ∀ em, f.park ≠ some (.syncl c.pc em))
      ∧ (c.em ≠ 0 → old.failed = none → fault = none → came &&& m ≠ m →
        Answers (.syncl a) s (c.WaitsOn (.syncl c.pc c.em)))
      ∧ (c.em = 0 → old.failed = none → fault = none → Answers (.syncl a) s fun t => ∃ g' f', t.group? c.who.group = some g'
          ∧ g'.frag? c.who.index = some f' ∧ f'.pc = c.next ∧ f'.park = none
          ∧ ∃ i ∈ g'.syncl, i.pc = c.pc ∧ i.arrived = old.arrived ∧ i.absent = absent)
      ∧ (∀ lane, old.failed = none → fault = some lane → exec (.syncl a) s = .next (synclTrap s c lane))
      ∧ (∀ lane, old.failed = some lane → exec (.syncl a) s = .next (takeTrap s c.who 7 0 (BitVec.ofNat 64 lane) c.pc c.pc)))

/-- MTAB, MTAB.clr and MELD (R186 to R188): the renaming tables and the region; NOP, the one uniform instruction that may stand
in a region, and IFENCE, which drops the fragment's fetched bundles (R172, R174).

STAKE (R160, R164): its record is read through the instruction supply; in a group of one fragment outside a region, a call
and the handler it becomes the group's stake and STAKEPC, elsewhere it changes nothing; its must-be-zero word traps. A VBCST or SRD to a
LIVEV name blocks a rewind whatever em holds (R159).

That MTAB completes for any names, without a check of the register allotment, is the model's reading (log 108). -/
def Obligations.RenamingRegionsAndStakes : Prop :=
  (∀ (d a : BitVec 6) (g : BitVec 1) (i : BitVec 14) (s : State) (c : Iss), s.issuer? = some c →
      (c.Passes (.mtab d a g) true (uniUses [] []) →
        Answers (.mtab d a g) s (c.GoesTo (if g.toNat = 0 then { c.g with t0 := c.g.t0.setIfInBounds d.toNat a }
          else { c.g with t1 := c.g.t1.setIfInBounds d.toNat a }) c.next c.f.rstack s))
      ∧ (c.Passes .mtabClr true (uniUses [] []) →
        Answers .mtabClr s (c.GoesTo { c.g with t0 := identityTable, t1 := identityTable } c.next c.f.rstack s))
      ∧ (c.Passes (.meld d i) true (uniUses [.m d.toNat] []) →
        Answers (.meld d i) s fun t => c.GoesTo c.g c.next c.f.rstack s t ∧ ∃ g' f', t.group? c.who.group = some g'
          ∧ g'.frag? c.who.index = some f' ∧ f'.meldLeft = i.toNat ∧ f'.meldPath = c.mv d.toNat &&& c.lanes)
      ∧ (c.Passes .nop false (uniUses [] []) → Answers .nop s fun t => c.GoesTo c.g c.next c.f.rstack s t ∧ OnlyGroup c.who.group s t)
      ∧ (c.Passes .ifence true (uniUses [] []) →
        Answers .ifence s fun t => c.GoesTo c.g c.next c.f.rstack s t ∧ ∃ g' f', t.group? c.who.group = some g'
          ∧ g'.frag? c.who.index = some f' ∧ f'.fetched = [] ∧ f'.inLoop = none ∧ f'.fenced = true))
  ∧ (∀ (i : BitVec 14) (s : State) (c : Iss) (lo hi : BitVec 128) (s1 s2 s3 : State), s.issuer? = some c →
      c.Passes (.stake i) true (uniUses [c.emName] []) →
      fetchBundle s c.who.core c.g.ctx (stakeRecord c.pc i) = .got lo s1 →
      fetchBundle s1 c.who.core c.g.ctx (stakeRecord c.pc i + 16) = .got hi s2 →
      let recipe := (s.kernel? c.g.kid).elim 0 (·.launch.code) + (hi.setWidth 32 : Word).setWidth 64
      (hi.toNat / 2 ^ 32 ≠ 0 → TrapsOpen (.stake i) s c 1 0)
      ∧ (hi.toNat / 2 ^ 32 = 0 → checkTarget s2 c.who.core c.g.ctx recipe = .bad → Traps (.stake i) s c 2 recipe 0)
      ∧ (hi.toNat / 2 ^ 32 = 0 → checkTarget s2 c.who.core c.g.ctx recipe = .ok s3 →
          Answers (.stake i) s fun t => c.GoesTo c.g c.next c.f.rstack s t ∧ ∃ g', t.group? c.who.group = some g'
            ∧ if c.g.frags.length = 1 ∧ c.f.meldLeft = 0 ∧ c.f.rstack = [] ∧ c.g.h = false then
                g'.stakepc = c.pc ∧ g'.stake = ⟨true, false, BitVec.ofNat 64 (stakeRecord c.pc i), c.pc, c.em, lo.setWidth 64,
                  lo.extractLsb' 64 64, recipe, c.f.slices⟩
              else g'.stakepc = c.g.stakepc ∧ g'.stake = c.g.stake))
  ∧ (∀ (f : BitVec 4) (d a : BitVec 6) (s : State) (c : Iss), s.issuer? = some c → c.g.stake.livev.getLsbD d.toNat = true →
      let blocks (i : Instr) := Answers i s fun t => ∀ g', t.group? c.who.group = some g' → g'.stake.valid = false
      (c.Passes (.vbcst f d a) true { vr := [], vw := [⟨d.toNat, if f.toNat = 1 then 2 else 1, 3⟩], nr := [c.emName, .s a.toNat], nw := [], rl := 0, wl := c.em } →
        blocks (.vbcst f d a))
      ∧ (f.toNat = 1 → c.Passes (.srd f d a) true { vr := [], vw := [⟨d.toNat, 1, 3⟩], nr := [c.emName], nw := [], rl := 0, wl := c.em } →
        blocks (.srd f d a)))

/-- EXIT and TAIL (R167): EXIT ends the slices of its fragment, and with none left the group; TAIL ends the group; both trap with
cause 0x09 in the handler, and TAIL in a split group with cause 0x01.

YIELD (R134, R168): taken when the block has an open turnover from the group's role, and then the group takes the new role
and the block's turnover is taken; else the fragment goes on at the next slot. -/
def Obligations.EndOfAGroupAndTurnover : Prop :=
  (∀ (s : State) (c : Iss), s.issuer? = some c →
      (c.Passes .exit true (uniUses [] []) → c.g.h = true → TrapsOpen .exit s c 9 0)
      ∧ (c.Passes .exit true (uniUses [] []) → c.g.h = false → (∀ f ∈ c.g.frags, f.index = c.who.index) →
          Answers .exit s fun t => ∃ g', t.group? c.who.group = some g' ∧ g'.state = .tail ∧ g'.frags = [] ∧ g'.turnover = none
            ∧ g'.ops = c.g.ops)
      ∧ (c.Passes .exit true (uniUses [] []) → c.g.h = false → c.g.syncl = [] → (∃ f ∈ c.g.frags, f.index ≠ c.who.index) →
          Answers .exit s fun t => ∃ g', t.group? c.who.group = some g' ∧ g'.state = c.g.state ∧ g'.frag? c.who.index = none
            ∧ (∀ k, k ≠ c.who.index → g'.frag? k = c.g.frag? k) ∧ g'.vregs = c.g.vregs ∧ g'.sregs = c.g.sregs ∧ g'.mregs = c.g.mregs)
      ∧ (c.Passes .tail true (uniUses [] []) → c.g.frags.length ≠ 1 → TrapsOpen .tail s c 1 0)
      ∧ (c.Passes .tail true (uniUses [] []) → c.g.frags.length = 1 → c.g.h = true → TrapsOpen .tail s c 9 0)
      ∧ (c.Passes .tail true (uniUses [] []) → c.g.frags.length = 1 → c.g.h = false →
          Answers .tail s fun t => ∃ g', t.group? c.who.group = some g' ∧ g'.state = .tail ∧ g'.frags = [] ∧ g'.endPc = c.pc
            ∧ g'.turnover = c.g.turnover ∧ g'.ops = c.g.ops))
  ∧ (∀ (p : BitVec 16) (s : State) (c : Iss) (b : Block), s.issuer? = some c → c.Passes (.yield p) true (uniUses [] []) →
      s.groupBlock? c.g = some b →
      let target := c.pc + BitVec.ofInt 64 (4 * p.toInt)
      let open_ := c.g.frags.length = 1 ∧ c.g.h = false
      ((¬open_ ∨ ∀ y, b.turnover ≠ some (c.g.role, y)) → Answers (.yield p) s (c.GoesTo c.g c.next c.f.rstack s))
      ∧ (∀ y s1, open_ → b.turnover = some (c.g.role, y) → checkTarget s c.who.core c.g.ctx target = .ok s1 →
          Answers (.yield p) s fun t => c.GoesTo c.g target c.f.rstack s t
            ∧ (∃ g', t.group? c.who.group = some g' ∧ g'.turnover = some y)
            ∧ ∃ b', t.block? c.g.kid c.g.block = some b' ∧ b'.turnover = none))

/-- WAIT, ICINV and FENCE (R169, R171, R310): WAIT goes on when the counter is at most n and holds the fragment else; ICINV and
FENCE go on once no store of the group is outstanding. That WAIT counts over the operations issued before it is the model's
reading (log 22). -/
def Obligations.WaitsForOutstandingWork : Prop :=
  ∀ (f : BitVec 4) (i : BitVec 14) (a b : BitVec 6) (g : BitVec 2) (s : State) (c : Iss), s.issuer? = some c →
    (c.Passes (.wait f i) true (uniUses [] []) → c.g.level f.toNat ≤ i.toNat → Answers (.wait f i) s fun t =>
      c.GoesTo c.g c.next c.f.rstack s t ∧ OnlyGroup c.who.group s t)
    ∧ (c.Passes (.wait f i) true (uniUses [] []) → i.toNat < c.g.level f.toNat →
      Answers (.wait f i) s (c.WaitsOn (.counter f.toNat i.toNat (c.g.issued.getD f.toNat 0 - i.toNat))))
    ∧ (c.Passes (.icinv a b g) true (uniUses [.s a.toNat, .s b.toNat] []) → c.g.storesLeft = false →
      Answers (.icinv a b g) s fun t => c.GoesTo c.g c.next c.f.rstack s t ∧ t.mem = s.mem
        ∧ t.loopBufs.map (·.bundles) = s.loopBufs.map (·.bundles)
        ∧ ∀ l ∈ t.loopBufs, l.core ∈ icinvCores s c g.toNat → l.ctx = c.g.ctx → c.sv b.toNat = 0 → l.stale = true)
    ∧ (c.Passes (.icinv a b g) true (uniUses [.s a.toNat, .s b.toNat] []) → c.g.storesLeft = true →
      Answers (.icinv a b g) s (c.WaitsOn .drain))
    ∧ (∀ x, c.Passes (.fence g) true (uniUses [] []) → (releaseCore s c.who.core g.toNat).group? c.who.group = some x →
      (x.storesLeft = true → Answers (.fence g) s (c.WaitsOn .drain))
      ∧ (x.storesLeft = false → Answers (.fence g) s fun t =>
          (∃ g' f', t.group? c.who.group = some g' ∧ SameRegisters c.g g' ∧ g'.frag? c.who.index = some f' ∧ f'.pc = c.next
            ∧ f'.park = none)
          ∧ (1 ≤ g.toNat → ∀ l ∈ t.l1, l.core ≠ c.who.core)
          ∧ (s.wcb = [] → s.cluster = [] → t.mem = s.mem)))

/-- TRAP and BRK (R106, R416, R417): TRAP takes the handler trap 0x15 with its code in FINFO and the slot after it in FPC; BRK
takes 0x14 at its own slot, or with BRKSTOP set outside the handler halts the block at the slot after it; TMARK goes on.

The traps of a reserved word and of a faulty bundle or misplaced transfer (R62, R65, R84); of a STAKE word with a nonzero f or d the
record is read first, and a page fault of that read comes in place of the trap (R86, R164). FADDR of a misplaced transfer, the bundle's
address, is the model's reading (log 16). -/
def Obligations.SoftwareTraps : Prop :=
  (∀ (f : BitVec 4) (i : BitVec 14) (s : State) (c : Iss), s.issuer? = some c →
      (c.Passes (.trap i) true (uniUses [] []) →
        exec (.trap i) s = .next (takeTrap s c.who 0x15 0 (i.setWidth 64) c.next c.pc))
      ∧ (c.Passes (.brk i) true (uniUses [] []) → ((s.ctx? c.g.ctx).elim false (·.brkstop)) = false ∨ c.g.h = true →
        exec (.brk i) s = .next (takeTrap s c.who 0x14 0 (i.setWidth 64) c.pc c.pc))
      ∧ (∀ b, c.Passes (.brk i) true (uniUses [] []) → ((s.ctx? c.g.ctx).elim false (·.brkstop)) = true → c.g.h = false →
        s.block? c.g.kid c.g.block = some b →
        Answers (.brk i) s fun t => c.GoesTo c.g c.next c.f.rstack s t
          ∧ ∃ b', t.block? c.g.kid c.g.block = some b' ∧ b'.debug = .halting 1 i.toNat)
      ∧ (c.Passes (.tmark f i) true (uniUses [] []) → Answers (.tmark f i) s (c.GoesTo c.g c.next c.f.rstack s)))
  ∧ (∀ (s : State) (c : Iss), s.issuer? = some c →
      (illegalAddr c = none → illegalStake c = none → TrapsOpen .illegalInstruction s c 1 0)
      ∧ (∀ a, illegalAddr c = some a → Traps .illegalInstruction s c 1 a 0)
      ∧ (∀ i lo hi s1 s2, illegalStake c = some i → fetchBundle s c.who.core c.g.ctx (stakeRecord c.pc i) = .got lo s1 →
          fetchBundle s1 c.who.core c.g.ctx (stakeRecord c.pc i + 16) = .got hi s2 → TrapsOpen .illegalInstruction s c 1 0)
      ∧ (∀ i, illegalStake c = some i → fetchBundle s c.who.core c.g.ctx (stakeRecord c.pc i) = .absent →
          let at_ := BitVec.ofNat 64 (stakeRecord c.pc i)
          exec .illegalInstruction s = .next (parkOnFault s c.who c.g.ctx at_ 2 at_ 0 c.pc))
      ∧ Traps .faultyBundle s c 2 (BitVec.ofNat 64 (c.pc.toNat / 16 * 16)) 0)

/-- Handler entry (R99): a trap outside the handler, with a legal TVEC and TRAPSTOP clear, saves the split table in FRAME, sets
FCAUSE, FADDR, FPC and FINFO, sets H, and leaves one fragment of every live slice at TVEC with no return stack and no region;
every register of the group keeps its value.

A trap in the handler, or with TVEC = 0, is recorded with KIND 3 or 4 and its context stops (R100, R101): its state becomes
`stopping`. FLAGS of the record are the kind of the access that met the cause (R102): of the access of the issuing instruction, of the
denied fault, or of the fetch; which instructions write and which read a bundle is the model's reading (log 105). -/
def Obligations.TrapsEnterOrStop : Prop :=
  (∀ (s : State) (w : FragId) (cause : Nat) (faddr finfo fpc pc : DWord) (g : Group) (c : Context) (r : CtxRec) (s1 : State),
      s.group? w.group = some g → g.h = false → s.ctx? g.ctx = some c → c.record = some r → r.tvec ≠ 0 → c.trapstop = false →
      checkTarget s w.core g.ctx r.tvec = .ok s1 →
      ∃ g' f', (takeTrap s w cause faddr finfo fpc pc).group? w.group = some g' ∧ g'.h = true
        ∧ g'.fcause = BitVec.ofNat 8 cause ∧ g'.faddr = faddr ∧ g'.fpc = fpc ∧ g'.finfo = finfo
        ∧ g'.frags = [f'] ∧ f'.pc = r.tvec ∧ f'.slices = g.liveSlices ∧ f'.em = g.liveLanes ∧ f'.rstack = [] ∧ f'.meldLeft = 0
        ∧ (∃ fr, g'.frame = some fr ∧ fr.trapped = w.index ∧ fr.frags.map (·.index) = g.frags.map (·.index)
            ∧ fr.frags.map (·.em) = g.frags.map (·.em) ∧ fr.frags.map (·.pc) = g.frags.map (·.pc)
            ∧ fr.frags.map (·.slices) = g.frags.map (·.slices) ∧ fr.frags.map (·.rstack) = g.frags.map (·.rstack))
        ∧ g'.vregs = g.vregs ∧ g'.sregs = g.sregs ∧ g'.mregs = g.mregs ∧ g'.t0 = g.t0 ∧ g'.t1 = g.t1 ∧ g'.floor = g.floor
        ∧ g'.outgrade = g.outgrade ∧ ∀ x, x ≠ w.group → (takeTrap s w cause faddr finfo fpc pc).group? x = s.group? x)
  ∧ (∀ (s : State) (w : FragId) (cause : Nat) (faddr finfo fpc pc : DWord) (g : Group) (c : Context) (r : CtxRec),
      s.group? w.group = some g → s.ctx? g.ctx = some c → c.record = some r → c.state = 2 → c.fqwait = [] →
      (c.fqtail - c.fqhead).toNat < r.fqsize → (g.h = true ∨ r.tvec = 0) →
      let t := takeTrap s w cause faddr finfo fpc pc
      (∃ c', t.ctx? g.ctx = some c' ∧ c'.state = 4 ∧ c'.fqtail = c.fqtail + 1 ∧ c'.fqseq = c.fqseq + 1)
        ∧ ((∀ e ∈ s.engines, e.ctx ≠ g.ctx) → lostRange s (r.fqbase + 32 * (c.fqtail.toNat % r.fqsize)) 32 = false → t.mem = writeBytes s.mem (r.fqbase + 32 * (c.fqtail.toNat % r.fqsize))
            (faultBytes (groupFault s g (if g.h = true then 3 else 4) cause (trapFlags s w cause finfo) faddr pc) c.fqseq.toNat)))
  ∧ (∀ (s : State) (w : FragId) (finfo : DWord) (i : Issuer),
      trapFlags s w 8 finfo = (if finfo.toNat % 256 = 1 then 1 else if finfo.toNat % 256 = 2 then 4 else 0)
        ∧ trapFlags s w 1 finfo = 0 ∧ (s.cur = none → trapFlags s w 9 finfo = 4)
        ∧ (s.cur = some i → i.who = w → ∀ f d sb a o p,
            (decodeWord i.word = .ok (.st f d sb a o) → trapFlags s w 0x0A finfo = 1)
            ∧ (decodeWord i.word = .ok (.ld f d sb a o) → trapFlags s w 0x0A finfo = 0)
            ∧ (decodeWord i.word = .ok (.call p) → trapFlags s w 9 finfo = 4)))

/-- TRET (R107): outside the handler it traps with cause 0x09; in it, with a legal FPC, H is cleared and FRAME's fragments
return, the trapped one at FPC. -/
def Obligations.ReturnFromHandler : Prop :=
  ∀ (s : State) (c : Iss), s.issuer? = some c → c.Passes .tret true (uniUses [] []) →
    (c.g.h = false → TrapsOpen .tret s c 9 0)
    ∧ (∀ fr, c.g.h = true → c.g.frame = some fr → checkTarget s c.who.core c.g.ctx c.g.fpc = .bad → Traps .tret s c 2 c.g.fpc 0)
    ∧ (∀ fr s1, c.g.h = true → c.g.frame = some fr → checkTarget s c.who.core c.g.ctx c.g.fpc = .ok s1 →
      Answers .tret s fun t => ∃ g', t.group? c.who.group = some g' ∧ g'.h = false ∧ g'.frame = none
        ∧ g'.vregs = c.g.vregs ∧ g'.sregs = c.g.sregs ∧ g'.mregs = c.g.mregs
        ∧ g'.frags.map (·.index) = fr.frags.map (·.index) ∧ g'.frags.map (·.em) = fr.frags.map (·.em)
        ∧ g'.frags.map (·.slices) = fr.frags.map (·.slices) ∧ g'.frags.map (·.rstack) = fr.frags.map (·.rstack)
        ∧ g'.frags.map (·.pc) = fr.frags.map (fun f => if f.index = fr.trapped then c.g.fpc else f.pc)
        ∧ ∀ x, x ≠ c.who.group → t.group? x = s.group? x)

/-! ## Global memory (R289 to R310) -/

/-- Loads by lanes and scalars (R305, R306, R309, R312): with every check passed and every graded granule at the floor, the
fragment goes on, the values read are left to land on the counter, no scalar and no mask changes before that, and without a
release or a store of the core on its way no byte of memory changes; a misaligned access traps, lowest lane first.

What a load reads of a local page that no cache may hold (type V or O, R302), with no store of the core on its way: the bytes
of memory, little-endian, at the device address of each access. -/
def Obligations.LoadsReadAndLand : Prop :=
  (∀ (f : BitVec 3) (fu : BitVec 4) (d : BitVec 7) (sb a : BitVec 6) (o : BitVec 2) (du au bu : BitVec 6) (s : State) (c : Iss),
      s.issuer? = some c →
      let w := sizeRegs (ldForm f.toNat).1
      let wf := if f.toNat ≥ 4 then 2 else 1
      (c.em ≠ 0 → c.g.level 1 < 255 → c.Passes (.ld f d sb a o) false (c.memUses sb a d 0 w) →
        LoadGives (.ld f d sb a o) s c 1 (ldForm f.toNat).1 o.toNat c.g.floor (c.laneAccs sb a)
          (fun vs => c.wordLandings d.toNat w (vs.map fun p =>
            (p.1, (extendTo (32 * w) (ldForm f.toNat).1 (ldForm f.toNat).2 p.2).setWidth 64)))
        ∧ MisalignedTraps (.ld f d sb a o) s c (ldForm f.toNat).1 (c.laneAccs sb a))
      ∧ (c.em ≠ 0 → c.g.level 1 < 255 → c.Passes (.ldf f d sb a o) false (c.memUses sb a d 0 wf) →
        LoadGives (.ldf f d sb a o) s c 1 (4 * wf) o.toNat (f.toNat % 4) (c.laneAccs sb a)
          (fun vs => c.wordLandings d.toNat wf (vs.map fun p => (p.1, (extendTo (32 * wf) (4 * wf) false p.2).setWidth 64))))
      ∧ (c.g.level 3 < 255 → c.Passes (.sld fu du au bu o) true (uniUses [.s au.toNat, .s bu.toNat] [.s du.toNat]) →
        LoadGives (.sld fu du au bu o) s c 3 (sldForm fu.toNat).1 o.toNat c.g.floor [⟨none, c.sv au.toNat + c.sv bu.toNat⟩]
          (fun vs => vs.map fun p => .scalar du.toNat (extendTo 64 (sldForm fu.toNat).1 (sldForm fu.toNat).2 p.2)))
      ∧ IdleBlocks (.ld f d sb a o) s c 1 (c.memUses sb a d 0 w) o.toNat 2 (c.destBlocks d w)
      ∧ IdleBlocks (.ldf f d sb a o) s c 1 (c.memUses sb a d 0 wf) o.toNat 2 (c.destBlocks d wf))
  ∧ (∀ (s : State) (c : Iss) (size : Nat) (ts : List TAcc), waitingStores s c.who.core = [] →
      (∀ t ∈ ts, 2 ≤ t.ent.mt ∧ t.loc = .device t.pa ∧ lostRange s t.pa size = false) →
      (loadAll s c size ts).1 = ts.map (fun t => (t.acc, readNat s.mem t.pa size)) ∧ (loadAll s c size ts).2.2 = s)

/-- Stores and reductions (R305 to R307, R309): with every check passed the fragment goes on, and what the pages leave to be
performed is counted on SC; on plain pages that is each access with its bytes, or its reduction, and no byte of memory changes
before it. With the acquire bit it is performed before the group's next access, so that nothing of it is left, and the core's
L1 lines are gone. -/
def Obligations.StoresWaitToBePerformed : Prop :=
  ∀ (f : BitVec 3) (fu : BitVec 4) (d : BitVec 7) (sb a : BitVec 6) (o : BitVec 2) (du au bu : BitVec 6) (s : State) (c : Iss),
    s.issuer? = some c → c.g.level 2 < 255 →
    (c.em ≠ 0 → c.Passes (.st f d sb a o) false (c.memUses sb a d (sizeRegs (stSize f.toNat)) 0) →
      StoreGives (.st f d sb a o) s c (stSize f.toNat) o.toNat (c.laneAccs sb a)
        (fun x => leBytes (c.v64w d.toNat (x.lane.getD 0) (stSize f.toNat)).toNat (stSize f.toNat)))
    ∧ (c.Passes (.sst fu du au bu o) true (uniUses [.s au.toNat, .s bu.toNat, .s du.toNat] []) →
      StoreGives (.sst fu du au bu o) s c (sstSize fu.toNat) o.toNat [⟨none, c.sv au.toNat + c.sv bu.toNat⟩]
        (fun _ => leBytes (c.sv du.toNat).toNat (sstSize fu.toNat)))
    ∧ (∀ ts s1, c.em ≠ 0 → c.Passes (.red f d sb a o) false (c.memUses sb a d 1 0) →
      accessChecks s c (c.laneAccs sb a) 4 true = .ok (ts, s1) → (∀ t ∈ ts, notCarveOut t = true ∧ t.plain) →
      Answers (.red f d sb a o) s fun t =>
        c.LeftToPerform 2 (ordRel o.toNat) (ts.map fun t => .reduce t.loc f.toNat (c.v d.toNat (t.acc.lane.getD 0))) t
        ∧ (ordRel o.toNat = false → s.wcb = [] → t.mem = s.mem))
    ∧ IdleGives (.st f d sb a o) s c 2 (c.memUses sb a d (sizeRegs (stSize f.toNat)) 0) o.toNat 2
    ∧ IdleBlocks (.red f d sb a o) s c 2 (c.memUses sb a d 1 0) o.toNat 2 Group.blockStake

/-- STORE_PERFORMED (R17, R169), of any group and any list of stores, to device memory, a tile, another chip or the host: the operation is
performed, and with it every waiting store of the core that must come before it; a byte that no waiting store of the core meets
reads as before. Where none must come before it, its own stores act in turn, each at its place: each place that no other store of
it meets then reads what that store leaves, every byte outside its places reads as before, and with no other store of the group
the counter falls to 0. -/
def Obligations.StorePerformedWritesItsBytes : Prop :=
  ∀ (s : State) (g : Group) (op : OutOp), s.memOk = true → s.group? g.at_ = some g → op ∈ g.ops → op.counter = 2 → op.stores ≠ [] →
    let core := g.at_.core
    let w : Waiting := (g.at_, op)
    (∀ v ∈ waitingStores s core, ∀ x ∈ v.2.stores, x.loc.inRange x.size) →
    Answers (.storePerformed g.at_ op.index) s fun t =>
      (∀ v ∈ waitingStores s core, v = w ∨ mustPrecede s v w = true → v ∉ waitingStores t core)
      ∧ (∀ l : Loc, l.inRange 1 → (∀ v ∈ waitingStores s core, ∀ x ∈ v.2.stores, x.loc.meets x.size l 1 = false) →
          readLoc t l 1 = readLoc s l 1)
      ∧ (∀ x : GroupId, x.core ≠ core → t.group? x = s.group? x)
      ∧ ((s.groups.map (·.at_)).Nodup → (waitingStores s core).Nodup → (∀ v ∈ waitingStores s core, mustPrecede s v w = false) →
          (∀ x ∈ g.ops, x.counter = 2 → x.index = op.index → x = op) →
          let u := op.stores.foldl (performStoreOp core) s
          t.mem = u.mem ∧ t.hostMem = u.hostMem ∧ t.remoteMem = u.remoteMem ∧ t.tiles = u.tiles
          ∧ (op.stores.Pairwise (fun x y => x.loc.meets x.size y.loc y.size = false) →
              ∀ x ∈ op.stores, x.loc.answers s x.size → readLoc t x.loc x.size = x.result s)
          ∧ (∀ l : Loc, l.inRange 1 → (∀ x ∈ op.stores, x.loc.meets x.size l 1 = false) → readLoc t l 1 = readLoc s l 1)
          ∧ (op.lands = [] → ∃ g', t.group? g.at_ = some g' ∧ SameRegisters g g'
            ∧ (op.combining = [] → op.external = false → (∀ x ∈ g.ops, x.counter = 2 → x = op) → g'.level 2 = 0)))

/-- Atomics with a result, and PREF (R303, R305): the lanes act in increasing order, each on what the ones before it left, the
old values land on LC and the group's stake is blocked; PREF reads nothing into a register and writes nothing. -/
def Obligations.AtomicsReadModifyWrite : Prop :=
  ∀ (f : BitVec 3) (d : BitVec 7) (sb a : BitVec 6) (o : BitVec 2) (s : State) (c : Iss), s.issuer? = some c →
    let w := if f.toNat ≥ 4 then 2 else 1
    (c.em ≠ 0 → c.g.level 1 < 255 →
      (c.Passes (.atomC f d sb a o) false (c.memUses sb a d 1 1) →
        AtomicGives (.atomC f d sb a o) s c 1 4 o.toNat 1 d sb a (fun i old => atomNew c f d i old))
      ∧ (c.Passes (.atomD f d sb a o) false (c.memUses sb a d 1 1) →
        AtomicGives (.atomD f d sb a o) s c 2 4 o.toNat 1 d sb a (fun i old => atomNew c f d i old))
      ∧ (c.Passes (.atomS f d sb a o) false (c.memUses sb a d 1 1) →
        AtomicGives (.atomS f d sb a o) s c 3 4 o.toNat 1 d sb a (fun i old => atomNew c f d i old))
      ∧ (c.Passes (.xchg f d sb a o) false (c.memUses sb a d w w) →
        AtomicGives (.xchg f d sb a o) s c (f.toNat % 4) (4 * w) o.toNat w d sb a
          (fun i _ => some (if w = 2 then (c.v64 d.toNat i).toNat else (c.v d.toNat i).toNat)))
      ∧ (c.Passes (.cas f d sb a o) false (c.memUses sb a d (2 * w) w) →
        AtomicGives (.cas f d sb a o) s c (f.toNat % 4) (4 * w) o.toNat w d sb a
          (fun i old => if w = 2 then
              (if old = (c.v64 d.toNat i).toNat then some (c.v d.toNat i 3 ++ c.v d.toNat i 2).toNat else none)
            else if old = (c.v d.toNat i).toNat then some (c.v d.toNat i 1).toNat else none)))
    ∧ (c.Passes (.pref f sb a) false (c.memUses sb a 0 0 0) → (∀ x ∈ c.laneAccs sb a, x.ea.toNat < 2 ^ 57) →
      Answers (.pref f sb a) s fun t => t.mem = s.mem ∧ t.hostMem = s.hostMem ∧ t.tiles = s.tiles
        ∧ ∃ g' f', t.group? c.who.group = some g' ∧ g'.sregs = c.g.sregs ∧ g'.mregs = c.g.mregs
          ∧ g'.vregs = (c.g.lastReads c (c.memUses sb a 0 0 0)).vregs ∧ g'.frag? c.who.index = some f' ∧ f'.pc = c.next)
    ∧ IdleBlocks (.atomC f d sb a o) s c 1 (c.memUses sb a d 1 1) o.toNat 1 Group.blockStake
    ∧ IdleBlocks (.atomD f d sb a o) s c 1 (c.memUses sb a d 1 1) o.toNat 2 Group.blockStake
    ∧ IdleBlocks (.atomS f d sb a o) s c 1 (c.memUses sb a d 1 1) o.toNat 3 Group.blockStake
    ∧ IdleBlocks (.xchg f d sb a o) s c 1 (c.memUses sb a d w w) o.toNat (f.toNat % 4) Group.blockStake
    ∧ IdleBlocks (.cas f d sb a o) s c 1 (c.memUses sb a d (2 * w) w) o.toNat (f.toNat % 4) Group.blockStake

/-- LOAD_DATA_LANDS and VC_RESULT_LANDS (R169, R221), of any operation on VC, LC or UC with any list of landings and any mask of lanes, in
any group: the lanes of the mask take their values in the registers, no other lane of any register and no other scalar changes,
what is outside the mask is left to land and the operation is not done, and with nothing left it completes. With a graded load's
data OUTGRADE falls to the lowest grade read (R313). A fixed-latency write of the lane that is still to land stays the newest value:
so is the model's reading also where it was issued before the landing operation (log 139). -/
def Obligations.LandingWritesItsLanes : Prop :=
  ∀ (s : State) (g : Group) (op : OutOp) (m : Word) (ev : Instr), s.group? g.at_ = some g → op ∈ g.ops →
    (∀ x ∈ g.ops, x.counter = op.counter → x.index = op.index → x = op) → op.done = false → op.external = false →
    (op.counter = 0 ∧ ev = .vcResultLands g.at_ op.index m)
      ∨ ((op.counter = 1 ∨ op.counter = 3) ∧ ev = .loadDataLands g.at_ op.counter op.index m) →
    let now := s.cycleOf g.at_.core
    let left := op.lands.filter fun l => !l.inLanes m
    Answers ev s fun t => { t with groups := s.groups, kernels := s.kernels } = s ∧ (op.read = none → t.kernels = s.kernels)
      ∧ (∀ x, x ≠ g.at_ → t.group? x = s.group? x)
      ∧ ∃ g', t.group? g.at_ = some g'
        ∧ { g' with vregs := g.vregs, sregs := g.sregs, pend := g.pend, ops := g.ops, outgrade := g.outgrade } = g
        ∧ g'.outgrade = (match op.read with | some r => min g.outgrade r.lowest | none => g.outgrade)
        ∧ (∀ n i x, i < 32 → .lane n i x ∈ op.lands → bitOf m i = true → (∀ y, .lane n i y ∈ op.lands → y = x) → g.allocated n = true →
            ((∀ p ∈ g.pend, p.waits now (.v n) i = false) → (g'.vNew n).get i = x)
            ∧ ((∃ p ∈ g.pend, p.waits now (.v n) i = true) → (g'.vNew n).get i = (g.vNew n).get i))
        ∧ (∀ n i, i < 32 → (∀ x, .lane n i x ∈ op.lands → bitOf m i = false) → (g'.vNew n).get i = (g.vNew n).get i)
        ∧ (∀ d y, d < 64 → .scalar d y ∈ op.lands → (∀ z, .scalar d z ∈ op.lands → z = y) →
            (∀ p ∈ g.pend, p.waits now (.s d) 0 = true → p.yields = true) → g'.sNew d = y)
        ∧ (∀ d, (∀ y, .scalar d y ∉ op.lands) → g'.sNew d = g.sNew d)
        ∧ (left ≠ [] → { op with lands := left } ∈ g'.ops)
        ∧ (left = [] → op.stores = [] → op.combining = [] → (∀ x ∈ g'.ops, x.counter = op.counter → x.index = op.index → x.done = true)
            ∧ ((∀ x ∈ g.ops, x.counter = op.counter → x = op) → g'.level op.counter = 0))
        ∧ (∀ x ∈ g.ops, (x.counter ≠ op.counter ∨ x.index ≠ op.index) → x.done = false → x ∈ g'.ops)

/-! ## Tiles (R251 to R270, R286 to R288) -/

/-- LDL, STL and ATOML (R269, R270): with lanes in em, inside a live S or C tile, aligned, and with no lock and no waiting store of the
core on its way, each goes on at the next slot: a load's bytes are left to land, a store's to be performed, and an atomic acts lane by
lane. An access outside the tile traps with cause 0x0F, a misaligned one with 0x0A, and an invalid handle with 0x10, each with its
lowest lane and that lane's offset in FINFO. With em = 0 each only counts, or is the FENCE of its scope (the scope is the model's
choice, log 100). -/
def Obligations.TileAccesses : Prop :=
  ∀ (f : BitVec 3) (d : BitVec 7) (sb a : BitVec 6) (o : BitVec 2) (s : State) (c : Iss), s.issuer? = some c →
    let r := c.sv sb.toNat
    let as := c.laneOffs sb a
    let size := (ldForm f.toNat).1
    let w := sizeRegs size
    let wa := if f.toNat = 7 then 2 else 1
    let info (p : Nat × Nat) : DWord := BitVec.ofNat 64 (p.1 * 256 + p.2 % 2 ^ 32 * 2 ^ 32)
    (c.em ≠ 0 → refClean r = true →
      (∀ t, usableTile s c.who.core (s.domOf c.g) (refHandle r) levelSC = some t → s.locks = [] → waitingStores s c.who.core = [] →
        let after := if ordRel o.toNat then releaseScope s c (tileScope c t) else s
        (c.g.level 1 < 255 → c.Passes (.ldl f d sb a o) false (c.memUses sb a d 0 w) → (∀ p ∈ as, p.2 + size ≤ t.size ∧ p.2 % size = 0) →
          Answers (.ldl f d sb a o) s fun t' => (o.toNat = 0 → { t' with groups := s.groups, seq := s.seq } = s) ∧ ∃ g' f' op,
            t'.group? c.who.group = some g' ∧ g'.frag? c.who.index = some f' ∧ f'.pc = c.next ∧ op ∈ g'.ops ∧ op.counter = 1
            ∧ op.index = c.g.nextIndex 1 ∧ op.lands = c.wordLandings d.toNat w (as.map fun p => ((⟨some p.1, 0⟩ : Acc),
              (extendTo (32 * w) size (ldForm f.toNat).2 (leNat (readLoc after (.tile t.id p.2) size))).setWidth 64)))
        ∧ (c.g.level 2 < 255 → c.Passes (.stl f d sb a o) false (c.memUses sb a d (sizeRegs (stSize f.toNat)) 0) →
          (∀ p ∈ as, p.2 + stSize f.toNat ≤ t.size ∧ p.2 % stSize f.toNat = 0) →
          let data (p : Nat × Nat) := leBytes (c.v64w d.toNat p.1 (stSize f.toNat)).toNat (stSize f.toNat)
          let before := if ordRel o.toNat then releaseCore s c.who.core (tileScope c t) else s
          (ordAcq o.toNat = false → Answers (.stl f d sb a o) s fun t' =>
            (o.toNat = 0 → { t' with groups := s.groups, seq := s.seq } = s) ∧ ∃ g' f' op,
            t'.group? c.who.group = some g' ∧ g'.frag? c.who.index = some f' ∧ f'.pc = c.next ∧ op ∈ g'.ops ∧ op.counter = 2
            ∧ op.index = c.g.nextIndex 2 ∧ op.stores = as.map fun p => .bytes (.tile t.id p.2) (data p))
          ∧ (ordAcq o.toNat = true → (s.groups.map (·.at_)).Nodup → Answers (.stl f d sb a o) s fun t' =>
            t'.tiles = (as.foldl (fun u p => writeLoc u (.tile t.id p.2) (data p)) before).tiles
            ∧ ∃ g' f', t'.group? c.who.group = some g' ∧ g'.frag? c.who.index = some f' ∧ f'.pc = c.next
              ∧ ∀ x ∈ g'.ops, x.seq = before.seq → x.stores = []))
        ∧ (c.g.level 1 < 255 → c.Passes (.atoml f d sb a o) false (c.memUses sb a d wa 1) → (∀ p ∈ as, p.2 + 4 ≤ t.size ∧ p.2 % 4 = 0) →
          Answers (.atoml f d sb a o) s fun t' => t'.tiles = (atomlAll c f.toNat d t.id as after).2.tiles ∧ t'.mem = after.mem
            ∧ ∃ g' f' op, t'.group? c.who.group = some g' ∧ g'.frag? c.who.index = some f' ∧ f'.pc = c.next ∧ op ∈ g'.ops
              ∧ op.counter = 1 ∧ op.lands = c.wordLandings d.toNat 1 (atomlAll c f.toNat d t.id as after).1))
      ∧ (∀ p, as.head? = some p → usableTile s c.who.core (s.domOf c.g) (refHandle r) levelSC = none →
          (c.g.level 1 < 255 → c.Passes (.ldl f d sb a o) false (c.memUses sb a d 0 w) → Traps (.ldl f d sb a o) s c 0x10 r (info p))
          ∧ (c.g.level 2 < 255 → c.Passes (.stl f d sb a o) false (c.memUses sb a d (sizeRegs (stSize f.toNat)) 0) →
              Traps (.stl f d sb a o) s c 0x10 r (info p))
          ∧ (c.g.level 1 < 255 → c.Passes (.atoml f d sb a o) false (c.memUses sb a d wa 1) → Traps (.atoml f d sb a o) s c 0x10 r (info p)))
      ∧ (∀ t, usableTile s c.who.core (s.domOf c.g) (refHandle r) levelSC = some t →
          let outside (i : Instr) (n : Nat) : Prop := ∀ p,
            (as.find? (fun q => decide (q.2 + n > t.size)) = some p → Traps i s c 0x0F r (info p))
            ∧ ((∀ q ∈ as, q.2 + n ≤ t.size) → as.find? (fun q => decide (q.2 % n ≠ 0)) = some p → Traps i s c 0x0A r (info p))
          (c.g.level 1 < 255 → c.Passes (.ldl f d sb a o) false (c.memUses sb a d 0 w) → outside (.ldl f d sb a o) size)
          ∧ (c.g.level 2 < 255 → c.Passes (.stl f d sb a o) false (c.memUses sb a d (sizeRegs (stSize f.toNat)) 0) →
              outside (.stl f d sb a o) (stSize f.toNat))
          ∧ (c.g.level 1 < 255 → c.Passes (.atoml f d sb a o) false (c.memUses sb a d wa 1) → outside (.atoml f d sb a o) 4)))
    ∧ IdleBlocks (.ldl f d sb a o) s c 1 (c.memUses sb a d 0 w) o.toNat 2 (c.destBlocks d w)
    ∧ IdleGives (.stl f d sb a o) s c 2 (c.memUses sb a d (sizeRegs (stSize f.toNat)) 0) o.toNat 2
    ∧ IdleBlocks (.atoml f d sb a o) s c 1 (c.memUses sb a d wa 1) o.toNat 1 Group.blockStake

/-- Tile management (R255, R256, R266, R267): TALLOC makes a tile that reads zero and answers its handle, or answers the reason
it cannot; TFREE scrubs the tile and advances its GEN; TINFO answers the descriptor word, 0 for no tile; TZERO clears. -/
def Obligations.TileManagement : Prop :=
  ∀ (d a b : BitVec 6) (g : BitVec 2) (s : State) (c : Iss), s.issuer? = some c →
    let x := c.sv a.toNat
    let level := tallocLevel g.toNat
    let k := (c.sv b.toNat).toNat
    let answer (t : State) (y : DWord) := ∃ g' f', t.group? c.who.group = some g' ∧ g'.sNew d.toNat = y
      ∧ (∀ n, n ≠ d.toNat → g'.sNew n = c.g.sNew n) ∧ g'.vregs = c.g.vregs ∧ g'.frag? c.who.index = some f' ∧ f'.pc = c.next
    (∀ rows rb, c.g.level 3 < 255 →
      c.Passes (.talloc d a b g) true (uniUses (.s a.toNat :: if level = .c then [.s b.toNat] else []) [.s d.toNat]) →
      shapeOf x = some (rows, rb) → shapeAllowed level x rows rb = true → (level = .c → 1 ≤ k ∧ k ≤ 3) →
      let place := placeTile s c.who.core (s.domOf c.g) level k rows rb
      (∀ reason, place = .error reason → Answers (.talloc d a b g) s fun t => t.mem = s.mem ∧ t.tiles = s.tiles
        ∧ answer t (BitVec.ofNat 64 (2 ^ 63 + reason)))
      ∧ ∀ p, place = .ok p → Answers (.talloc d a b g) s fun t => t.mem = s.mem ∧ ∃ new, t.tiles = s.tiles ++ [new] ∧ new.bytes = []
        ∧ new.rows = rows ∧ new.rb = rb ∧ new.level = level ∧ new.num = p.1 ∧ new.gen = genOf s (s.domOf c.g) p.1
        ∧ new.dom = s.domOf c.g ∧ new.state = .live ∧ answer t (BitVec.ofNat 64 (new.gen * 4096 + new.num)))
    ∧ (∀ t, c.Passes (.tfree a) true (uniUses [.s a.toNat] []) → refClean x = true → lockOn s t = none →
      usableTile s c.who.core (s.domOf c.g) (refHandle x) levelAny = some t →
      Answers (.tfree a) s fun s' => (∀ y ∈ s'.tiles, y.id = t.id → y.state = .scrubbing) ∧ genOf s' t.dom t.num = (genOf s t.dom t.num + 1) % 16
        ∧ s'.mem = s.mem ∧ ∃ f' g', s'.group? c.who.group = some g' ∧ SameRegisters c.g g' ∧ g'.frag? c.who.index = some f' ∧ f'.pc = c.next)
    ∧ (∀ t, c.g.level 3 < 255 → c.Passes (.tinfo d a) true (uniUses [.s a.toNat] [.s d.toNat]) → refClean x = true →
      s.tileOf (s.domOf c.g) (refHandle x) = some t → (t.level = .a → t.core = c.who.core) →
      Answers (.tinfo d a) s fun s' => answer s' (tileInfo s t) ∧ s'.tiles = s.tiles)
    ∧ (c.g.level 3 < 255 → c.Passes (.tinfo d a) true (uniUses [.s a.toNat] [.s d.toNat]) → s.tileOf (s.domOf c.g) (refHandle x) = none →
      Answers (.tinfo d a) s fun s' => answer s' 0 ∧ s'.tiles = s.tiles)
    ∧ (c.g.level 3 < 255 → c.Passes (.tinfoFree d) true (uniUses [] [.s d.toNat]) →
      Answers (.tinfoFree d) s fun s' => answer s' (freeSpace s c.who.core) ∧ s'.tiles = s.tiles)
    ∧ (∀ t, c.Passes (.tzero a) true (uniUses [.s a.toNat] []) → refClean x = true → s.locks = [] → waitingStores s c.who.core = [] →
      usableTile s c.who.core (s.domOf c.g) (refHandle x) levelAny = some t →
      (∀ y ∈ s.tiles, Memory.wf y.bytes = true) →
      let off := if t.level = .a then 0 else refOff x
      off < t.size →
      Answers (.tzero a) s fun s' => s'.mem = s.mem ∧ (∀ k, off ≤ k → readLoc s' (.tile t.id k) 1 = [0])
        ∧ (∀ k, k < off → readLoc s' (.tile t.id k) 1 = readLoc s (.tile t.id k) 1)
        ∧ (∀ i k, i ≠ t.id → readLoc s' (.tile i k) 1 = readLoc s (.tile i k) 1))

/-- TRD, TRD.st and TWR (R286 to R288): between the lanes of em and a row or column of an accumulator tile of the core. TWR leaves every
element outside the row or column, and every one of a lane outside em, as it was. -/
def Obligations.AccumulatorAccess : Prop :=
  ∀ (f : BitVec 4) (d a b : BitVec 6) (s : State) (c : Iss) (t : Tile), s.issuer? = some c → s.locks = [] →
    (∀ y ∈ s.tiles, Memory.wf y.bytes = true) →
    let r := c.sv a.toNat
    let form := f.toNat % 4
    let w := if form = 0 then 2 else 1
    let col : Bool := f.toNat / 4 % 2 = 1
    refClean r = true → refOff r ≤ 31 → usableTile s c.who.core (s.domOf c.g) (refHandle r) levelA = some t →
    (c.g.level 3 < 255 → c.Passes (.trd f d a) true
        { vr := [], vw := [⟨d.toNat, w, 3⟩], nr := [c.emName, .s a.toNat], nw := [], rl := 0, wl := c.em } →
      Answers (.trd f d a) s fun s' => s'.tiles = s.tiles ∧ s'.mem = s.mem ∧ ∃ g' op, s'.group? c.who.group = some g'
        ∧ g'.ops = c.g.ops ++ [op] ∧ op.counter = 3
        ∧ op.lands = c.emLanes.flatMap fun i => (List.range w).map fun k =>
            .lane (d.toNat + k) i ((trdWords form (readNat t.bytes (laneAccOff col (refOff r) i) 8)).getD k 0))
    ∧ (c.g.level 3 < 255 → refOff r = 0 → c.Passes (.trdSt d a) true (uniUses [.s a.toNat] [.s d.toNat]) →
      Answers (.trdSt d a) s fun s' => s'.tiles = s.tiles ∧ s'.mem = s.mem ∧ ∃ g' op, s'.group? c.who.group = some g'
        ∧ g'.ops = c.g.ops ++ [op] ∧ op.counter = 3 ∧ op.lands = [.scalar d.toNat (t.tstat.setWidth 64)])
    ∧ (c.Passes (.twr f a b) true
        { vr := [⟨b.toNat, w, 1⟩], vw := [], nr := [c.emName, .s a.toNat], nw := [], rl := c.em, wl := 0 } →
      Answers (.twr f a b) s fun s' => s'.mem = s.mem ∧ (∀ i ∈ c.emLanes, ∀ y ∈ s'.tiles, y.id = t.id →
          readNat y.bytes (laneAccOff col (refOff r) i) 8 = twrElement form (c.v b.toNat i) (c.v b.toNat i 1) % 2 ^ 64)
        ∧ (∀ x i, x < 32 → i < 32 → x ≠ refOff r ∨ i ∉ c.emLanes → ∀ y ∈ s'.tiles, y.id = t.id →
            readNat y.bytes (laneAccOff col x i) 8 = readNat t.bytes (laneAccOff col x i) 8)
        ∧ (∀ y ∈ s.tiles, y.id ≠ t.id → y ∈ s'.tiles) ∧ (∀ y ∈ s'.tiles, ∃ z ∈ s.tiles, { y with bytes := z.bytes } = z)
        ∧ ∃ g' f', s'.group? c.who.group = some g' ∧ g'.sregs = c.g.sregs ∧ g'.frag? c.who.index = some f' ∧ f'.pc = c.next)

/-! ## Barriers (R234 to R250) -/

/-- The barrier words (R236 to R239, R241, R243): what each instruction makes of an open word of its kind, what it answers, when
it waits, and that no other byte of any tile changes; a BARA.w whose arrival was counted before it was withdrawn waits by BARW and
arrives no more; a word of another kind traps with cause 0x09, and a misaligned reference
with 0x0A. FADDR of that 0x09, the reference, is the model's reading (log 29), and so is what an arrive word does that a store has
left with COUNT at or beyond TARGET (log 128). -/
def Obligations.BarrierWords : Prop :=
  ∀ (d a b : BitVec 6) (g : BitVec 2) (s : State) (c : Iss) (t : Tile), s.issuer? = some c → s.locks = [] →
    settledCore s c.who.core → (s.tiles.all fun y => Memory.wf y.bytes) = true →
    let r := c.sv a.toNat
    let off := refOff r
    let x := (c.sv b.toNat).toNat
    let w := wordAt s t off
    let next := (w.gen + 1) % 2 ^ 32
    let ahead := (w.gen + 2 ^ 32 - x % 2 ^ 32) % 2 ^ 32
    let becomes (w' : BarWord) (s' : State) := wordAt s' t off = w' ∧ s'.mem = s.mem
      ∧ (∀ k, k < off ∨ off + 16 ≤ k → readLoc s' (.tile t.id k) 1 = readLoc s (.tile t.id k) 1)
      ∧ ∀ i k, i ≠ t.id → readLoc s' (.tile i k) 1 = readLoc s (.tile i k) 1
    (refClean r = true → off % 16 ≠ 0 → c.Passes (.barx a) true (uniUses [.s a.toNat] []) → Traps (.barx a) s c 0x0A r 0)
    ∧ (refClean r = true → off % 16 = 0 → off + 16 ≤ t.size → usableTile s c.who.core (s.domOf c.g) (refHandle r) levelSC = some t →
      (c.Passes (.bari a b) true (uniUses [.s a.toNat, .s b.toNat] []) → 1 ≤ x → x < 2 ^ 32 →
        Answers (.bari a b) s fun s' => becomes ⟨0, x, 0, 1, 0⟩ s' ∧ c.Answered noneNew s')
      ∧ (c.Passes (.bariBytes a) true (uniUses [.s a.toNat] []) →
        Answers (.bariBytes a) s fun s' => becomes ⟨0, 0, 0, 2, 0⟩ s' ∧ c.Answered noneNew s')
      ∧ (w.mbz = 0 → w.kind ≠ 1 → c.Passes (.barx a) true (uniUses [.s a.toNat] []) →
        Traps (.barx a) s c 9 r (BitVec.ofNat 64 w.kind))
      ∧ (∀ y, c.f.arrived = some (r, y) → w.mbz = 0 → w.kind = 1 ∨ w.kind = 2 →
        (genPassed w.gen y = true → Answers (.bara d a g) s fun s' => becomes w s' ∧ c.Answered noneNew s')
        ∧ (genPassed w.gen y = false → Answers (.bara d a g) s fun s' => becomes w s' ∧ c.WaitsOn (.word r y (w.kind = 2) true) s'))
      ∧ (c.f.arrived = none → w.mbz = 0 → w.kind = 1 → w.target ≠ 0 → c.g.level 3 < 255 → c.Passes (.bara d a g) true (uniUses [.s a.toNat] [.s d.toNat]) →
        let all := w.count + 1 = w.target
        let w' := if all then { w with count := 0, gen := next } else { w with count := (w.count + 1) % 2 ^ 32 }
        (g.toNat = 0 ∨ all → Answers (.bara d a g) s fun s' => becomes w' s' ∧ c.ScalarToLand d.toNat (BitVec.ofNat 64 w.gen) s')
        ∧ (¬(g.toNat = 0 ∨ all) → Answers (.bara d a g) s fun s' => becomes w' s' ∧ c.WaitsOn (.word r w.gen false true) s'))
      ∧ (w.mbz = 0 → w.kind = 1 → w.target ≠ 0 → c.Passes (.barx a) true (uniUses [.s a.toNat] []) →
        Answers (.barx a) s fun s' => c.Answered noneNew s' ∧
          becomes (if w.target - 1 = w.count then { w with target := w.target - 1, count := 0, gen := next }
            else { w with target := w.target - 1 }) s')
      ∧ (w.mbz = 0 → w.kind = 1 ∨ w.kind = 2 → c.Passes (.barw a b) true (uniUses [.s a.toNat, .s b.toNat] []) →
        (1 ≤ ahead ∧ ahead ≤ 2 ^ 31 → Answers (.barw a b) s fun s' => becomes w s' ∧ c.Answered noneNew s')
        ∧ (¬(1 ≤ ahead ∧ ahead ≤ 2 ^ 31) →
          Answers (.barw a b) s fun s' => becomes w s' ∧ c.WaitsOn (.word r (x % 2 ^ 32) (w.kind = 2) false) s'))
      ∧ (w.mbz = 0 → w.kind = 2 → 1 ≤ x → w.target + x < 2 ^ 32 → c.g.level 3 < 255 →
        c.Passes (.bart d a b g) true (uniUses [.s a.toNat, .s b.toNat] (if g.toNat = 1 then [.s d.toNat] else [])) →
        Answers (.bart d a b g) s fun s' =>
          becomes (if w.count ≥ w.target + x then { w with count := w.count - (w.target + x), target := 0, gen := next }
            else { w with target := w.target + x }) s'
          ∧ if g.toNat = 1 then c.ScalarToLand d.toNat (BitVec.ofNat 64 w.gen) s' else c.Answered noneNew s'))

/-- The block barrier and PHASE (R244, R247 to R249): an arrival is noted and its fragment waits; in a split group both trap with
cause 0x01 and at an undeclared level PHASE traps with 0x09. -/
def Obligations.BlockBarriersAndPhases : Prop :=
  ∀ (f : BitVec 4) (d a : BitVec 6) (s : State) (c : Iss) (b : Block), s.issuer? = some c → s.groupBlock? c.g = some b →
    let u := uniUses (if f.toNat = 7 then [.s a.toNat] else []) [.s d.toNat]
    let key := (c.sv a.toNat).toNat
    let k := key / 2 ^ 16
    (c.Passes .barb true (uniUses [] []) →
      (c.g.frags.length ≠ 1 → TrapsOpen .barb s c 1 0)
      ∧ (c.g.frags.length = 1 → b.phase = [] → b.coll = [] → Answers .barb s fun t => c.WaitsOn .blockBarrier t
          ∧ ∃ b', t.block? b.kid b.linear = some b' ∧ b'.bpc = b.bpc ∧ b'.barb.map (·.who) = b.barb.map (·.who) ++ [c.who]))
    ∧ (c.Passes (.phase f d a) true u →
      (c.g.frags.length ≠ 1 → TrapsOpen (.phase f d a) s c 1 0)
      ∧ (c.g.frags.length = 1 → c.g.level 3 < 255 → levelByte s c.g.kid f.toNat = 0xFF → TrapsOpen (.phase f d a) s c 9 0)
      ∧ (c.g.frags.length = 1 → c.g.level 3 < 255 → levelByte s c.g.kid f.toNat ≠ 0xFF →
          (f.toNat = 7 → key < 2 ^ 32 ∧ 1 ≤ k ∧ k ≤ 4096 ∧ ownsPort s (c.part s) = true) →
          b.barb = [] → b.coll = [] → (∀ x ∈ b.phase, x.level = f.toNat) →
          Answers (.phase f d a) s fun t => c.WaitsOn (.phase f.toNat) t
            ∧ ∃ b', t.block? b.kid b.linear = some b' ∧ b'.bpc = b.bpc ∧ b'.phase.map (·.who) = b.phase.map (·.who) ++ [c.who]))

/-- The events of barriers (R244, R247, R248): the release of a block barrier, the release of a gathered node of the phase tree
to a block, and a report that arrives from another chip of a partition. A member's result is what its block's phase count becomes;
one that another fragment's later write has overruled is not written (R179). -/
def Obligations.BarrierEvents : Prop :=
  ∀ (s : State) (b : Block), s.wcb = [] → s.cluster = [] → s.block? b.kid b.linear = some b →
    (allArrived s b b.barb = true → (b.barb.map (·.who.group)).Nodup →
      (∀ x ∈ b.barb, b.members.contains x.gid = true ∧ goesOn s x.who.group ∧ waitingStores s x.who.core = []) →
      Answers (.blockBarrierRelease b.kid b.linear) s fun t =>
        (∃ b', t.block? b.kid b.linear = some b' ∧ b'.bpc = b.bpc + 1 ∧ b'.barb = []) ∧ ∀ x ∈ b.barb, WentOnAfter x.who s t)
    ∧ (∀ n, s.blocks = [b] → s.phases = [n] → n.kid = b.kid → phaseReady s n = true →
      levelArrived s n.kid n.level n.inst n.part = [b] → n.members.contains b.linear = true →
      (b.phase.map (·.who.group)).Nodup →
      (∀ x ∈ b.phase, b.members.contains x.gid = true ∧ goesOn s x.who.group ∧ waitingStores s x.who.core = []) →
      Answers (.phaseRelease n.kid n.level n.inst) s fun t => t.phases = []
        ∧ (∃ b', t.block? b.kid b.linear = some b' ∧ b'.bpc = b.bpc + 1 ∧ b'.phase = [])
        ∧ ∀ x ∈ b.phase, WentOnAfter x.who s t ∧ ∀ g g', s.group? x.who.group = some g → t.group? x.who.group = some g' →
            g'.ops = g.ops.map fun o => if o.counter = 3 ∧ o.index = x.opIndex then
              { o with lands := o.lands.map fun _ => .scalar x.dest ((b.bpc + 1).setWidth 64), external := false } else o)
    ∧ (∀ part key count chip, (s.part? part).isSome = true → chip.chip ≠ s.chipid →
      (s.window part < chip.window + 2 → exec (.phaseFlitArrival part key count chip) s =
        .next { s with phaseReports := s.phaseReports ++ [⟨part, key, count, chip.chip, s.window part, []⟩] })
      ∧ (chip.window + 2 ≤ s.window part → exec (.phaseFlitArrival part key count chip) s = .next s))

/-! ## Queues (R108 to R121) -/

/-- The queue instructions (R112 to R119): with a capability that passes its checks, an item enters at the tail or leaves at the
head, in scalars; a full or empty queue answers, or parks the fragment; QCAP gives a capability with fewer rights and QINFO the
queue's status word; a capability that fails traps with cause 0x0E; and an engine's held item enters when there is room. -/
def Obligations.HardwareQueues : Prop :=
  ∀ (f : BitVec 4) (d a b : BitVec 6) (g : BitVec 2) (s : State) (c : Iss) (q : Queue), s.issuer? = some c → c.g.level 4 < 255 →
    settledCore s c.who.core →
    let cap := c.sv a.toNat
    let n := itemRegs f.toNat
    let try_ : Bool := g.toNat = 1
    let names := (List.range n).map fun k => RName.s (d.toNat + k)
    let enq := c.Passes (.qenq f d a b g) true (uniUses (.s a.toNat :: names) (if try_ then [.s b.toNat] else []))
    let deq := c.Passes (.qdeq f d a b g) true (uniUses [.s a.toNat] (names ++ if try_ then [.s b.toNat] else []))
    let steal := c.Passes (.qsteal f d a b) true (uniUses [.s a.toNat] (names ++ [.s b.toNat]))
    let status (x : Nat) : Nat → Option DWord := if try_ then oneNew b (BitVec.ofNat 64 x) else noneNew
    let item : Nat → DWord := fun k => BitVec.ofNat 64 (readNat s.mem (q.base + q.head % q.capacity * q.itemBytes + 8 * k) 8)
    let taken (st : Bool) : Nat → Option DWord := fun m =>
      if st ∧ m = b.toNat then some 0 else if d.toNat ≤ m ∧ m < d.toNat + n then some (item (m - d.toNat)) else none
    let same (t : State) := t.mem = s.mem ∧ t.queue? q.num = some q
    s.queue? (capQnum cap) = some q → q.enqWait = [] → q.deqWait = [] →
    (∀ k, lostRange s (q.base + k % q.capacity * q.itemBytes) q.itemBytes = false) →
    (∀ k, enq → capReason s c.g.ctx cap (some 0) (some (f.toNat % 4)) true = some k →
      Traps (.qenq f d a b g) s c 0x0E 0 (BitVec.ofNat 64 (k + capQnum cap * 65536)))
    ∧ (enq → capReason s c.g.ctx cap (some 0) (some (f.toNat % 4)) true = none →
      (q.occ < q.capacity → Answers (.qenq f d a b g) s fun t => c.Answered (status 0) t
        ∧ t.queue? q.num = some { q with tail := q.tail + 1 }
        ∧ t.mem = writeBytes s.mem (q.base + q.tail % q.capacity * q.itemBytes)
            ((List.range n).flatMap fun k => leBytes (c.sv (d.toNat + k)).toNat 8))
      ∧ (q.capacity ≤ q.occ → try_ = true → Answers (.qenq f d a b g) s fun t => c.Answered (status 1) t ∧ same t)
      ∧ (q.capacity ≤ q.occ → try_ = false → Answers (.qenq f d a b g) s fun t => c.WaitsOn (.queue q.num true d.toNat n c.stall (c.g.nextIndex 4)) t
          ∧ t.mem = s.mem ∧ t.queue? q.num = some { q with enqWait := [c.who] }))
    ∧ (deq → capReason s c.g.ctx cap (some 1) (some (f.toNat % 4)) false = none →
      (0 < q.occ → Answers (.qdeq f d a b g) s fun t => c.Answered (taken try_) t ∧ t.mem = s.mem
        ∧ t.queue? q.num = some { q with head := q.head + 1 })
      ∧ (q.occ = 0 → try_ = true → Answers (.qdeq f d a b g) s fun t => c.Answered (status (if q.state = .sealed then 2 else 1)) t ∧ same t)
      ∧ (q.occ = 0 → try_ = false → q.state ≠ .sealed → Answers (.qdeq f d a b g) s fun t =>
          c.WaitsOn (.queue q.num false d.toNat n c.stall (c.g.nextIndex 4)) t ∧ t.mem = s.mem ∧ t.queue? q.num = some { q with deqWait := [c.who] })
      ∧ (q.occ = 0 → try_ = false → q.state = .sealed → Traps (.qdeq f d a b g) s c 0x0E 0 (BitVec.ofNat 64 (6 + capQnum cap * 65536))))
    ∧ (steal → capReason s c.g.ctx cap (some 2) (some (f.toNat % 4)) false = none →
      (q.sfloor < q.occ → Answers (.qsteal f d a b) s fun t => c.Answered (taken true) t ∧ t.mem = s.mem
        ∧ t.queue? q.num = some { q with head := q.head + 1 })
      ∧ (q.occ ≤ q.sfloor → Answers (.qsteal f d a b) s fun t =>
          c.Answered (oneNew b (BitVec.ofNat 64 (if q.occ = 0 ∧ q.state = .sealed then 2 else 1))) t ∧ same t))
    ∧ (c.Passes (.qcap f d a) true (uniUses [.s a.toNat] [.s d.toNat]) → capReason s c.g.ctx cap none none false = none →
      Answers (.qcap f d a) s fun t => same t ∧ c.Answered (oneNew d (mintCap s
        (cap.toNat % 2 ^ 32 + (cap.toNat / 2 ^ 32 % 8 &&& f.toNat) * 2 ^ 32 + cap.toNat / 2 ^ 35 % 2 ^ 13 * 2 ^ 35))) t)
    ∧ (c.Passes (.qinfo d a) true (uniUses [.s a.toNat] [.s d.toNat]) → capReason s c.g.ctx cap none none false = none →
      Answers (.qinfo d a) s fun t => same t ∧ c.Answered (oneNew d (queueInfo q cap)) t)
    ∧ (∀ e x, s.engine? e.id = some e → e.items = [(cap, x)] → e.kind ≠ .items → capReason s e.ctx cap (some 0) (some 0) true = none →
      q.occ < q.capacity → Answers (.engineEnqueueRetry e.id) s fun t => t.engine? e.id = some { e with items := [] }
        ∧ t.queue? q.num = some { q with tail := q.tail + 1 }
        ∧ t.mem = writeNat s.mem (q.base + q.tail % q.capacity * q.itemBytes) 8 x.toNat)

/-! ## Grades (R311 to R331) -/

/-- GFLOOR, GCAP, GREAD, GWAIT, AMEND and GSTAT (R325 to R331): FLOOR takes the grade and OUTGRADE at most it; GREAD answers the
granule's tag, behind the core's earlier stores to its home, or 2^63 of a page that is not graded; GWAIT goes on when every granule of the range has reached the grade and waits
else; AMEND writes every granule's tag, its version one higher, closes and reports it, and with f = 0 resets it. -/
def Obligations.GradeInstructions : Prop :=
  ∀ (i : BitVec 14) (f : BitVec 4) (d a b : BitVec 6) (s : State) (c : Iss), s.issuer? = some c →
    let va := (c.sv a.toNat).toNat
    let n := (c.sv b.toNat).toNat
    (c.Passes (.gfloor i) true (uniUses [] []) →
      Answers (.gfloor i) s (c.GoesTo { c.g with floor := i.toNat } c.next c.f.rstack s))
    ∧ (c.Passes (.gcap i) true (uniUses [] []) →
      Answers (.gcap i) s (c.GoesTo { c.g with outgrade := min c.g.outgrade i.toNat } c.next c.f.rstack s))
    ∧ (∀ t s1, c.Passes (.gread d a) true (uniUses [.s a.toNat] [.s d.toNat]) → c.g.level 3 < 255 →
      accessChecks s c [⟨none, c.sv a.toNat⟩] 1 false = .ok ([t], s1) → notCarveOut t = true →
      let s2 := flushHome s1 c.who.core t.loc
      let g := tagAt s2 t.pa
      Answers (.gread d a) s fun s' => s'.mem = s2.mem ∧ s'.tags = s.tags
        ∧ c.Answered (oneNew d (BitVec.ofNat 64 (if t.ent.graded then g.depth * 64 + g.ver * 4 + g.grade else 2 ^ 63))) s')
    ∧ (∀ gs s1, c.Passes (.gwait f a b) true (uniUses [.s a.toNat, .s b.toNat] []) → rangeChecks s c va n 1 1 false = .ok (gs, s1) →
      ((∀ x ∈ gs, f.toNat ≤ (tagAt s1 x.pa).grade) → Answers (.gwait f a b) s fun t => c.GoesTo c.g c.next c.f.rstack s t
        ∧ t.mem = s1.mem ∧ ∀ l ∈ t.l1, l.core ≠ c.who.core)
      ∧ ((∃ x ∈ gs, (tagAt s1 x.pa).grade < f.toNat) → Answers (.gwait f a b) s (c.WaitsOn (.grade va n f.toNat true false))))
    ∧ (∀ gs s1, c.Passes (.amend f a b) true (uniUses [.s a.toNat, .s b.toNat] []) → rangeChecks s c va n 256 256 true = .ok (gs, s1) →
      settledCore s1 c.who.core → (gs.map fun x => x.pa / 256).Nodup → (∀ x ∈ gs, lostRange s1 x.pa 1 = false) →
      let depth := min (runDepth s1 c.g.kid + 1) 15
      (∀ cause x, f.toNat ≠ 0 → amendFault s1 gs = some (cause, x) → Traps (.amend f a b) s c cause (BitVec.ofNat 64 x) 0)
      ∧ (f.toNat = 0 ∨ amendFault s1 gs = none → Answers (.amend f a b) s fun t => c.GoesTo c.g c.next c.f.rstack s t ∧ t.mem = s1.mem
          ∧ (∀ x ∈ gs, tagAt t x.pa = (if f.toNat = 0 then ⟨0, 0, 0⟩ else ⟨depth, (tagAt s1 x.pa).ver + 1, min f.toNat c.g.outgrade⟩)
              ∧ ∀ chip kid, isOpen t x.pa chip kid = false)
          ∧ (∀ pa, (∀ x ∈ gs, x.pa / 256 ≠ pa / 256) → tagAt t pa = tagAt s1 pa)
          ∧ t.reports.map (fun r => (r.ctx, r.granule, r.va, r.depth)) = s1.reports.map (fun r => (r.ctx, r.granule, r.va, r.depth))
              ++ (if f.toNat = 0 then [] else gs.map fun x => (c.g.ctx, x.pa / 256, x.va, depth))))
    ∧ (c.Passes (.gstat f d) true (uniUses [] [.s d.toNat]) → c.g.level 3 < 255 →
      Answers (.gstat f d) s (c.ScalarToLand d.toNat (if f.toNat = 1 then
        BitVec.ofNat 64 (leNat (seenBytes ((s.kernel? c.g.kid).elim [] (·.seen)))) else gstatWord s c.g)))

/-- Amendment reports, the vestibule, host writes and the events that end a wait (R102, R120, R151, R152, R312, R318, R322, R323,
R330). The context and ADDR of HOST_GRADED_WRITE_DROP are the model's reading (log 53); FLAGS of its record says a write (R102). -/
def Obligations.AmendmentsAndWaits : Prop :=
  ∀ (s : State),
    (∀ r rest, s.reports = r :: rest → hitNodes { s with reports := rest } r = [] →
      exec .amendmentReport s = .next { s with reports := rest })
    ∧ (∀ r rest gb x, s.reports = r :: rest → hitNodes { s with reports := rest } r = [(gb, x)] → x.st = 3 →
      (s.graph? r.ctx gb).bind (·.node? x.node) = some x → Answers .amendmentReport s fun t => t.reports = rest
        ∧ (t.graph? r.ctx gb).bind (·.node? x.node) = some { x with st := 4, refire := some (r.depth + 1, r.va) })
    ∧ (∀ e pa data, s.vest.find? (·.released) = some e → e.what = .bytes (.host pa) data →
      exec .vestibuleRelease s = .next { s with vest := s.vest.filter (fun x => x.seq != e.seq), hostMem := writeBytes s.hostMem pa data })
    ∧ (s.vest.find? (·.released) = none → exec .vestibuleRelease s = .next s)
    ∧ (∀ w g f n c, s.group? w.group = some g → g.frag? w.index = some f → f.park = some (.vestibule n) → s.ctx? g.ctx = some c →
      c.state = 2 → blockHalted s g = false → vestRoom s c.part n = true → Answers .vestibuleSpaceFreed s (Retries w s))
    ∧ (∀ pa ctx, gradedOwner s pa = some ctx → exec (.hostGradedWriteDrop pa) s =
      .next (pushFault s ctx ⟨BitVec.ofNat 64 pa, 0, 9, 1, 0xFFFF, 0xFF, 1, 0⟩))
    ∧ (∀ pa bytes, bytes ≠ [] → pa + bytes.length ≤ hbmEnd → lostRange s pa bytes.length = false →
      (∀ a, pa ≤ a → a < pa + bytes.length → gradedOwner s a = none) →
      exec (.hostMemoryWrite pa bytes) s = .next { s with mem := writeBytes s.mem pa bytes })
    ∧ (∀ w g lo n fl fw f, parkedAt s w = some (g, .grade lo n fl fw true) → g.frag? w.index = some f →
      f.readyAt + 1024 ≤ s.cycleOf w.core → Answers (.gradePollReissue w) s (Retries w s))
    ∧ (∀ w g k, parkedAt s w = some (g, k) → awaited s w g k = true →
      let completed := (∃ r n y, k = .word r n y true ∨ k = .passed r n y true) ∨ (∃ x n y, k = .counter x n y) ∨ k = .released
      (completed → g.stopped = false → Answers (.fragmentWake w) s (WentOnAfter w s))
      ∧ (¬completed → Answers (.fragmentWake w) s (Retries w s)))
    ∧ (∀ w g f, s.group? w.group = some g → g.frag? w.index = some f → (unstalled s g).contains f = true → hasBundle s w g.ctx f = true →
      f.readySince + 4096 ≤ s.cycleOf w.core → Answers (.fragmentPromote w) s fun t =>
        ∃ g' f', t.group? w.group = some g' ∧ g'.frag? w.index = some f' ∧ f' = { f with class4 := true })
    ∧ (∀ c q r rest, s.ctx? c.id = some c → c.record = some q → c.fqwait = r :: rest → (c.fqtail - c.fqhead).toNat < q.fqsize →
      lostRange s (q.fqbase + 32 * (c.fqtail.toNat % q.fqsize)) 32 = false → Answers (.faultRecordWrite c.id) s fun t =>
        t.mem = writeBytes s.mem (q.fqbase + 32 * (c.fqtail.toNat % q.fqsize)) (faultBytes r c.fqseq.toNat)
        ∧ ∃ c', t.ctx? c.id = some c' ∧ c' = { c with fqwait := rest, fqtail := c.fqtail + 1, fqseq := c.fqseq + 1 })

/-! ## Launching (R122 to R147) -/

/-- LAUNCH, RENEW and SIGNAL (R126, R131, R141 to R147): LAUNCH answers a free kernel number and the kernel is to be placed, or
the reason of the first check that fails, or that the launcher is full; RENEW re-arms the done nodes of the range and answers
their number; SIGNAL puts an entry into the vestibule, waits on a full ring, and with .try answers. The identity word of a SIGNAL's ring entry is the
model's reading (log 85). -/
def Obligations.LaunchInstructions : Prop :=
  ∀ (d a b : BitVec 6) (g : BitVec 2) (s : State) (c : Iss), s.issuer? = some c → c.g.level 3 < 255 →
    let x := c.sv a.toNat
    let y := c.sv b.toNat
    let done : List Acc := if y = 0 then [] else [⟨none, y⟩]
    (∀ t s1 ts s2 ctx, c.Passes (.launch d a b) true (uniUses [.s a.toNat, .s b.toNat] [.s d.toNat]) →
      x.toNat < 2 ^ 57 → y.toNat < 2 ^ 57 → y.toNat % 8 = 0 →
      translateAll s c 0 [⟨none, x⟩] = .ok ([t], s1) → translateAll s1 c 1 done = .ok (ts, s2) →
      notCarveOut t = true → (∀ u ∈ ts, notCarveOut u = true) → settledCore s2 c.who.core → s2.ctx? c.g.ctx = some ctx →
      let check := checkLaunch s2 c.who.core ctx x (readLoc s2 t.loc 128)
      (1024 ≤ s.kernels.length → Answers (.launch d a b) s fun t => c.Answered (oneNew d (BitVec.ofNat 64 (2 * 2 ^ 62))) t
        ∧ t.kernels = s.kernels)
      ∧ (∀ r, s.kernels.length < 1024 → check = .error r → Answers (.launch d a b) s fun t =>
          c.Answered (oneNew d (BitVec.ofNat 64 (2 ^ 62 + r * 2 ^ 16))) t ∧ t.kernels = s.kernels)
      ∧ (∀ l, s.kernels.length < 1024 → check = .ok l → Answers (.launch d a b) s fun t => ∃ k, k.kid < 1024
          ∧ c.Answered (oneNew d (BitVec.ofNat 64 k.kid)) t ∧ t.kernels = s.kernels ++ [k] ∧ (∀ z ∈ s.kernels, z.kid ≠ k.kid)
          ∧ k.ctx = c.g.ctx ∧ k.record = x ∧ k.launch = l ∧ k.state = .placing ∧ k.placed = 0 ∧ k.completion = y ∧ k.node = none))
    ∧ (c.Passes (.renew d a b) true (uniUses [.s a.toNat, .s b.toNat] [.s d.toNat]) → y.toNat < 2 ^ 32 →
      (s.graph? c.g.ctx x = none → TrapsOpen (.renew d a b) s c 9 0)
      ∧ (∀ gr, s.graph? c.g.ctx x = some gr → gr.state = .live ∨ gr.state = .complete → settledCore s c.who.core →
          (gr.nodes.map (·.node)).Nodup → y.toNat / 65536 ≠ 0 → y.toNat % 65536 + y.toNat / 65536 ≤ gr.nnodes →
          let within (n : Nat) := y.toNat % 65536 ≤ n ∧ n < y.toNat % 65536 + y.toNat / 65536
          let hit := gr.nodes.filter fun n => decide (within n.node) && n.st = 5
          Answers (.renew d a b) s fun t => c.Answered (oneNew d (BitVec.ofNat 64 hit.length)) t
            ∧ ∀ n ∈ gr.nodes, (t.graph? c.g.ctx x).bind (·.node? n.node) = some (if within n.node ∧ n.st = 5 then
                n.rearm (rangeCount gr (y.toNat % 65536) (y.toNat / 65536) n.node) else n)))
    ∧ (∀ t s1 r, c.Passes (.signal d a b g) true (uniUses [.s a.toNat, .s b.toNat] (if g.toNat = 1 then [.s d.toNat] else [])) →
      x.toNat < 2 ^ 57 → x.toNat % 32 = 0 → translateAll s c 0 [⟨none, x⟩] = .ok ([t], s1) → t.isLocal = true → notCarveOut t = true →
      ringAt s1 t.pa = some r →
      (ringFull s1 t.pa r = true → g.toNat = 1 → Answers (.signal d a b g) s fun s' => c.Answered (oneNew d 1) s' ∧ s'.vest = s.vest)
      ∧ (ringFull s1 t.pa r = true → g.toNat ≠ 1 → Answers (.signal d a b g) s (c.WaitsOn (.ring (BitVec.ofNat 64 t.pa))))
      ∧ (ringFull s1 t.pa r = false → c.g.outgrade = 3 ∨ vestRoom s1 (c.part s1) 64 = true → Answers (.signal d a b g) s fun s' =>
          c.Answered (if g.toNat = 1 then oneNew d 0 else noneNew) s' ∧ ∃ e, s'.vest = s.vest ++ [e]
            ∧ e.released = decide (c.g.outgrade = 3) ∧ e.kid = c.g.kid
            ∧ e.what = .ring (BitVec.ofNat 64 t.pa) y (ringIds s c.g.kid)))

/-! ## Engines (R260 to R285) -/

/-- CPYK, MMA and MMAG (R261, R268, R280, R281): with every check passed and room for its entries an operation starts with the
records, or the plan, that the instruction has read, and the fragment goes on; without room the fragment is held; a record that
fails traps with its index in FINFO. -/
def Obligations.EngineInstructions : Prop :=
  ∀ (f : BitVec 4) (d a b : BitVec 6) (s : State) (c : Iss), s.issuer? = some c → settledCore s c.who.core →
    (∀ e ∈ s.engines, e.admitted = true ∧ e.suspended = false) →
    let r := c.sv a.toNat
    let n := (c.sv b.toNat).toNat
    let dom := s.domOf c.g
    let scalars : List RName := [.s a.toNat, .s (a.toNat + 1), .s (a.toNat + 2), .s (a.toNat + 3), .s b.toNat, .s (b.toNat + 1)]
    let rows := c.em &&& maskOf fun i => decide (i < (c.sv (a.toNat + 2)).toNat % 32 + 1)
    let u : Uses := { vr := [], vw := [], nr := c.emName :: scalars, nw := [], rl := rows, wl := 0 }
    let ug : Uses := { vr := [⟨d.toNat, 1, 2⟩], vw := [], nr := c.emName :: scalars, nw := [], rl := rows, wl := 0 }
    let started (g : Group) (k : EngineKind) (hs : List Hull) (t : State) := c.GoesTo g c.next c.f.rstack s t ∧ t.mem = s.mem
      ∧ t.tiles = s.tiles ∧ ∃ e, t.engines = s.engines ++ [e] ∧ e.id = s.nextEngine ∧ e.kind = k ∧ e.hulls = hs ∧ e.admitted = true
        ∧ e.group = some c.who.group
    let matrix (i : Instr) (index : Option Nat) (u : Uses) := ∀ su, c.Passes i true u → mmaIllegal c a.toNat b.toNat = .ok () →
      mmaSetup s c f.toNat a.toNat b.toNat index = .ok su → hullsFit su.sources = true → hullNeed su.sources c.who.core + 1 ≤ 64 →
      let hs := su.sources ++ chainHull s c.who.core su.acc
      canAdmit s hs = true → Answers i s fun t =>
        started (c.g.lastReads c u) (.mma su.acc.id (f.toNat / 8 % 2 = 1) su.plan (c.sv (a.toNat + 3)) [] [] false false) hs t
        ∧ ∃ l ∈ t.locks, l.owner = chainOwner su.acc.id
    (∀ t, c.Passes (.cpyk a b) true (uniUses [.s a.toNat, .s b.toNat] []) → refClean r = true →
      usableTile s c.who.core dom (refHandle r) levelSC = some t → refOff r % 32 = 0 → 1 ≤ n → n ≤ 256 → refOff r + 32 * n ≤ t.size →
      let recs := readRecords s (.tile t.id (refOff r)) n
      let hs := copyHulls s c.who.core c.g.ctx dom recs
      (∀ cause k, firstBad s dom 0 recs = some (cause, k) → TrapsOpen (.cpyk a b) s c cause (BitVec.ofNat 64 k))
      ∧ (firstBad s dom 0 recs = none → hullsFit hs = true → canAdmit s hs = true →
          Answers (.cpyk a b) s (started c.g (.copy recs 0 0 c.g.floor c.g.outgrade []) hs))
      ∧ (firstBad s dom 0 recs = none → hullsFit hs = true → canAdmit s hs = false →
          Answers (.cpyk a b) s (c.WaitsOn (.engine s.nextEngine))))
    ∧ matrix (.mma f a b) none u
    ∧ matrix (.mmag f d a b) (some d.toNat) ug

/-- The events of engines (R261, R263 to R265, R277, R282, R283): a waiting operation registers its entries and its fragment goes on;
a copy from tile to tile writes the source's bytes to the destination and nothing else; a matrix instruction has read its operands;
and its completion writes each selected element and no other. -/
def Obligations.EngineEvents : Prop :=
  ∀ (s : State) (e : Engine), s.engine? e.id = some e → (s.tiles.all fun y => Memory.wf y.bytes) = true →
    (mayAdmit s e = true → e.suspended = false → Answers (.engineLockAdmit e.id) s fun t => t.engine? e.id = some (e.accept s.ptpns)
      ∧ (∀ h ∈ e.toRegister s e.hulls, ∃ l ∈ t.locks, l.owner = e.owner h ∧ l.core = h.core ∧ l.range = h.range ∧ l.dest = h.dest ∧ l.lo = h.lo ∧ l.hi = h.hi)
      ∧ ∀ w g f, s.group? w.group = some g → g.frag? w.index = some f → f.park = some (.engine e.id) → WentOnAfter w s t)
    ∧ (∀ r fl og x y, e.kind = .copy [r] 0 0 fl og [] → engineLive s e = true → r.kind = 3 → r.op = 0 → r.legal = true → r.bar = 0 → r.rows * r.len < 2 ^ 48 →
      s.tileOf e.dom (refHandle r.src) = some x → s.tileOf e.dom (refHandle r.dst) = some y → x.id ≠ y.id →
      Answers (.copyRecordDone e.id) s fun t => t.mem = s.mem ∧ t.engine? e.id = none ∧ (∀ l ∈ t.locks, l.owner ≠ e.id)
        ∧ (∀ k, k < r.rows * r.len →
            readLoc t (.tile y.id (refOff r.dst + k)) 1 = readLoc s (.tile x.id (refOff r.src + k)) 1)
        ∧ (∀ k, k < refOff r.dst ∨ refOff r.dst + r.rows * r.len ≤ k → readLoc t (.tile y.id k) 1 = readLoc s (.tile y.id k) 1)
        ∧ ∀ i k, i ≠ y.id → readLoc t (.tile i k) 1 = readLoc s (.tile i k) 1)
    ∧ (∀ acc z p bar, e.kind = .mma acc z p bar [] [] false false → engineLive s e = true →
      Answers (.mmaGatherDone e.id) s fun t => t.tiles = s.tiles ∧ (∀ l ∈ t.locks, l.owner ≠ e.id)
        ∧ let av := p.rows.map fun r => (r.1, gatherVector s p.a p.k p.mskip r.2)
          let bv := if p.rows = [] then [] else (List.range p.n).map fun q => (q, gatherVector s p.b p.k p.mskip q)
          t.engine? e.id = some { e with kind := .mma acc z p bar av bv true false })
    ∧ (∀ acc z p av bv y, e.kind = .mma acc z p 0 av bv true false → engineLive s e = true → (firstMma s e.core).map (·.id) = some e.id →
      chainOf s acc = [e] → (s.tiles.find? fun t => t.id = acc) = some y →
      let old (m n : Nat) := readNat y.bytes (accOff m n) 8
      Answers (.mmaComplete e.id) s fun t => t.engine? e.id = none ∧ t.mem = s.mem ∧ (∀ i ∈ s.tiles, i.id ≠ acc → i ∈ t.tiles)
        ∧ ∃ y', (t.tiles.find? fun t => t.id = acc) = some y'
          ∧ ((av.map (·.1)).Nodup → (bv.map (·.1)).Nodup → (∀ a ∈ av, a.1 < 32) → (∀ b ∈ bv, b.1 < 32) → ∀ m n, m < 32 → n < 32 →
            ((∀ a ∈ av, a.1 ≠ m) ∨ (∀ b ∈ bv, b.1 ≠ n) → readNat y'.bytes (accOff m n) 8 = old m n)
            ∧ (∀ a ∈ av, ∀ b ∈ bv, a.1 = m → b.1 = n →
                readNat y'.bytes (accOff m n) 8 = (mmaElement z p.k a.2 b.2 (old m n)).1 % 2 ^ 64)))

/-! ## Tensors (R333 to R352) -/

/-- PDECL, PCONV, PLD, PSTAT and PFREE (R348 to R352): a declaration is entered or its reason answered; a demand equal to the tail
changes nothing, and another one, of a PCONV or of a PLD, is queued behind the pending conversions under the next sequence number; PLD
starts a copy of the tile that its placement names, which goes on when its entry is registered; the checks of R349 trap in their
order, with s[a] in FADDR; PSTAT answers the tensor's status word; PFREE removes the tensor, and waits for its copies. -/
def Obligations.TensorInstructions : Prop :=
  ∀ (f : BitVec 4) (d a b : BitVec 6) (g : BitVec 2) (s : State) (c : Iss), s.issuer? = some c → c.g.level 3 < 255 →
    settledCore s c.who.core →
    let x := c.sv a.toNat
    let w : Word := (c.sv b.toNat).setWidth 32
    let ref := c.sv d.toNat
    let pair := c.sv (a.toNat + 1)
    let nax := (c.tensor s x).elim 3 (·.desc.nax)
    let pconv := c.Passes (.pconv d a b g) true (uniUses ([.s a.toNat, .s b.toNat] ++ if g.toNat = 1 then [.s d.toNat] else []) [])
    let pld := c.Passes (.pld d a b g) true
      (uniUses ([.s a.toNat, .s b.toNat, .s d.toNat] ++ if g.toNat = 1 then [.s (a.toNat + 1)] else []) [])
    let wordsC := placeOk (c.sv b.toNat).toNat nax = true ∧ x.toNat < 2 ^ 16
    let wordsL := placeOk (c.sv b.toNat).toNat nax = true ∧ x.toNat < 2 ^ 48 ∧ refClean ref = true ∧ (g.toNat = 1 → bitsAt pair.toNat 35 5 = 0)
    (pconv → (¬wordsC → Traps (.pconv d a b g) s c 1 x 0) ∧ (wordsC → c.tensor s x = none → Traps (.pconv d a b g) s c 0x11 x 0))
    ∧ (pld → (¬wordsL → Traps (.pld d a b g) s c 1 x 0) ∧ (wordsL → c.tensor s x = none → Traps (.pld d a b g) s c 0x11 x 0))
    ∧ (∀ t s1, c.Passes (.pdecl d a) true (uniUses [.s a.toNat] [.s d.toNat]) → accessChecks s c [⟨none, x⟩] 64 false = .ok ([t], s1) →
      notCarveOut t = true → settledCore s1 c.who.core →
      let bs := readLoc s1 t.loc 64
      (∀ r, declareReason s1 (c.part s) c.g.ctx bs = some r → Answers (.pdecl d a) s fun t =>
        c.Answered (oneNew d (BitVec.ofNat 64 (2 ^ 63 + r))) t ∧ t.tensors = s1.tensors)
      ∧ (declareReason s1 (c.part s) c.g.ctx bs = none → Answers (.pdecl d a) s fun t => c.Answered (oneNew d 0) t
          ∧ t.tensors = s1.tensors ++ [Tensor.declared (c.part s) c.g.ctx bs]))
    ∧ (c.tensor s x = none → (c.Passes (.pstat f d a) true (uniUses [.s a.toNat] [.s d.toNat]) → TrapsOpen (.pstat f d a) s c 0x11 0)
      ∧ (c.Passes (.pfree a) true (uniUses [.s a.toNat] []) → TrapsOpen (.pfree a) s c 0x11 0))
    ∧ ∀ t, c.tensor s x = some t →
      let takes := (t.state = .ready ∨ t.state = .converting) ∧ illegalDemand t w = false
      let capOk (k : DWord) := g.toNat = 1 → capReason s c.g.ctx k (some 0) (some 0) true = none
      let queued (k : DWord) (t' : State) := t'.mem = s.mem ∧ ∃ t2, t'.tensor? t.part t.desc.tid = some t2 ∧ t2.state = .converting
        ∧ t2.tail = w ∧ t2.nextSeq = t.nextSeq + 1 ∧ t2.buf = t.buf ∧ t2.committed = t.committed
        ∧ t2.pending.map (fun k => (k.sequence, k.source, k.target, k.cap)) = t.pending.map (fun k => (k.sequence, k.source, k.target, k.cap))
          ++ [(t.nextSeq.toNat, t.tail, w, if g.toNat = 1 then some k else none)]
      (c.Passes (.pstat f d a) true (uniUses [.s a.toNat] [.s d.toNat]) → Answers (.pstat f d a) s fun t' =>
        c.Answered (oneNew d (pstatWord t (s.window t.part) (f.toNat = 1))) t' ∧ t'.tensors = s.tensors)
      ∧ (c.Passes (.pfree a) true (uniUses [.s a.toNat] []) →
        (t.pending ≠ [] → TrapsOpen (.pfree a) s c 0x11 0)
        ∧ (t.pending = [] → copiesLeft s t.part t.desc.tid = true → Answers (.pfree a) s fun t' =>
            c.WaitsOn (.copies t.part t.desc.tid) t' ∧ t'.tensors = s.tensors)
        ∧ (t.pending = [] → copiesLeft s t.part t.desc.tid = false → Answers (.pfree a) s fun t' => c.GoesTo c.g c.next c.f.rstack s t'
            ∧ ∀ y, y ∈ t'.tensors ↔ y ∈ s.tensors ∧ ¬(y.part = t.part ∧ y.desc.tid = t.desc.tid)))
      ∧ (pconv → wordsC →
        (¬takes → Traps (.pconv d a b g) s c 0x11 x 0)
        ∧ (∀ k, takes → g.toNat = 1 → capReason s c.g.ctx ref (some 0) (some 0) true = some k →
            Traps (.pconv d a b g) s c 0x0E x (BitVec.ofNat 64 (k + capQnum ref * 65536)))
        ∧ (takes → capOk ref → t.tail = w → Answers (.pconv d a b g) s fun t' => c.GoesTo c.g c.next c.f.rstack s t' ∧ t'.tensors = s.tensors)
        ∧ (takes → capOk ref → t.tail ≠ w → Answers (.pconv d a b g) s fun t' => c.GoesTo c.g c.next c.f.rstack s t' ∧ queued ref t'))
      ∧ (pld → wordsL →
        let tile := usableTile s c.who.core (s.domOf c.g) (refHandle ref) levelSC
        (¬takes → Traps (.pld d a b g) s c 0x11 x 0)
        ∧ (∀ k, takes → g.toNat = 1 → capReason s c.g.ctx pair (some 0) (some 0) true = some k →
            Traps (.pld d a b g) s c 0x0E x (BitVec.ofNat 64 (k + capQnum pair * 65536)))
        ∧ (takes → capOk pair → tile = none → Traps (.pld d a b g) s c 0x10 x 0)
        ∧ ∀ dst, takes → capOk pair → tile = some dst →
          (refOff ref % 16 ≠ 0 → Traps (.pld d a b g) s c 0x0A x 0)
          ∧ (refOff ref % 16 = 0 → dst.size < refOff ref + t.desc.tileBytes → Traps (.pld d a b g) s c 0x0F x 0)
          ∧ (refOff ref % 16 = 0 → refOff ref + t.desc.tileBytes ≤ dst.size → t.desc.tiles (t.spanOf s w) ≤ x.toNat / 65536 →
              Traps (.pld d a b g) s c 9 x 6)
          ∧ (refOff ref % 16 = 0 → refOff ref + t.desc.tileBytes ≤ dst.size → x.toNat / 65536 < t.desc.tiles (t.spanOf s w) →
            let hull : Hull := ⟨dst.bankCore, dst.range, true, true, refOff ref, refOff ref + t.desc.tileBytes⟩
            let kind (item : Bool) (q buf : Nat) : EngineKind :=
              .pld t.desc.tid (x.toNat / 65536) w ref (if g.toNat = 1 then pair else 0) item q buf
            (t.tail = w → canAdmit s [hull] = true → (∀ e ∈ s.engines, e.admitted = true ∧ e.suspended = false) →
              Answers (.pld d a b g) s fun t' => c.GoesTo c.g c.next c.f.rstack s t' ∧ t'.tensors = s.tensors ∧ t'.mem = s.mem
                ∧ t'.tiles = s.tiles ∧ ∃ e, t'.engines = s.engines ++ [e] ∧ e.hulls = [hull] ∧ e.admitted = true
                  ∧ e.kind = kind (g.toNat = 1) (pldSource t).1 (pldSource t).2)
            ∧ (t.tail ≠ w → Answers (.pld d a b g) s fun t' => queued pair t' ∧ t'.tiles = s.tiles ∧ ∃ e ∈ t'.engines,
                e.group = some c.who.group ∧ e.hulls = [hull] ∧ e.kind = kind false t.nextSeq.toNat ((t.buf + t.pending.length + 1) % 2)
                ∧ (e.admitted = true → c.GoesTo c.g c.next c.f.rstack s t') ∧ (e.admitted = false → c.WaitsOn (.engine e.id) t'))))

/-! ## Links (R353 to R382) -/

/-- XSEND, XSEND.LAND, RECONF, SLOTS and COLL (R359 to R361, R366, R369, R371, R379, R380): a send whose record and source pass the
checks joins its queue, with a stale generation traps with cause 0x06, and during a topology change is held; a landing is bound; a
change is accepted under the next generation; and a collective starts when the last live group of its block has arrived.
That a send's one grade is fixed at issue, without a floor (log 61), and how a partition counts its collectives (log 65) is the model's
reading. -/
def Obligations.LinkInstructions : Prop :=
  ∀ (f : BitVec 4) (d a b : BitVec 6) (s : State) (c : Iss), s.issuer? = some c → c.g.level 3 < 255 → settledCore s c.who.core →
    let part := c.part s
    let uch := uniUses [.s a.toNat, .s b.toNat] [.s d.toNat]
    let accepted (s1 : State) (kind : ChangeKind) (t : State) := c.GoesTo c.g c.next c.f.rstack s t ∧ t.mem = s1.mem
      ∧ (t.link part).tgen = (s1.link part).tgen ∧ (t.link part).mode = (s1.link part).mode ∧ (t.link part).tail = (s1.link part).tail + 1
      ∧ ∃ k, (t.link part).changes = (s1.link part).changes ++ [k] ∧ k.gen = (s1.link part).tail + 1 ∧ k.kind = kind ∧ k.group = c.who.group
        ∧ k.opIndex = c.g.nextIndex 3 ∧ k.dest = d.toNat
        ∧ t.ports = if (s1.link part).changes = [] then (beginChange s1 part).ports else s1.ports
    (∀ t off hs grade s2, c.Passes (.xsend d a b) true (uniUses [.s d.toNat, .s a.toNat, .s b.toNat] []) →
      let ref := c.sv d.toNat
      let target := (c.sv a.toNat).toNat
      let r := SendRec.read (readLoc s (.tile t.id off) 32)
      target < 2 ^ 24 → target / 2 ^ 12 % 16 = 0 → tileRef s c ref levelSC = .ok (t, off) → off % 32 = 0 → off + 32 ≤ t.size →
      r.ok = true → r.global = true ∨ refClean r.src = true → sendSource s c r = .ok (hs, grade, s2) →
      ((s2.link part).changes ≠ [] → Answers (.xsend d a b) s (c.WaitsOn .change))
      ∧ ((s2.link part).changes = [] → pairsWith s2 part (target % 4096) = true →
          ((c.sv b.toNat).setWidth 16 ≠ (s2.link part).tgen → Traps (.xsend d a b) s c 6 ref 0)
          ∧ ((c.sv b.toNat).setWidth 16 = (s2.link part).tgen → sendLocks s2 c r ref = .ok () → settledCore s2 c.who.core →
              r.graded = true ∨ c.g.outgrade = 3 → (∀ x ∈ s2.vest, x.released = false) → canAdmit s2 hs = true → (∀ e ∈ s2.engines, e.admitted = true ∧ e.suspended = false) →
              Answers (.xsend d a b) s fun t' => c.GoesTo c.g c.next c.f.rstack s t' ∧ t'.mem = s2.mem ∧ t'.tiles = s2.tiles ∧ t'.vest = s2.vest
                ∧ ∃ e, t'.engines = s2.engines ++ [e] ∧ e.hulls = hs ∧ e.admitted = true ∧ e.part = part
                  ∧ e.kind = .send r.src r.dst r.global r.len r.len (target % 4096) (target / 2 ^ 16) r.graded (min grade c.g.outgrade)
                      (runDepth s2 c.g.kid) r.waves r.land r.lbar false s2.ptpns)))
    ∧ (∀ x w, c.Passes (.xsendLand d a) true (uniUses [.s d.toNat, .s a.toNat] []) → (c.sv d.toNat).toNat < 64 →
      barRef s c (c.sv a.toNat) = .ok w → s.ctx? c.g.ctx = some x →
      let i := (c.sv d.toNat).toNat
      let kept := (x.landings.find? fun l => l.index = i).elim 0 (·.bytes)
      let l : LandSlot := ⟨i, some (c.sv a.toNat, s.domOf c.g, c.who.core), 0⟩
      let s1 := s.updCtx c.g.ctx fun y => { y with landings := upsert y.landings (fun l => l.index = i) l }
      Answers (.xsendLand d a) s fun t => c.GoesTo c.g c.next c.f.rstack s t
        ∧ ((t.ctx? c.g.ctx).bind fun y => y.landings.find? fun l => l.index = i) = some l
        ∧ (kept = 0 → t.tiles = s.tiles ∧ t.mem = s.mem)
        ∧ (kept ≠ 0 → t.tiles = (countBytes s1 c.g.ctx (s.domOf c.g) (c.sv a.toNat) kept).tiles))
    ∧ (c.Passes (.reconf d a b) true uch → (c.sv a.toNat).toNat < 256 → (c.sv b.toNat).toNat < 65536 →
      (ownPitch s part (c.sv a.toNat).toNat = false → TrapsOpen (.reconf d a b) s c 9 9)
      ∧ (ownPitch s part (c.sv a.toNat).toNat = true →
          ((c.sv b.toNat).toNat ≠ (s.link part).tail.toNat → TrapsOpen (.reconf d a b) s c 6 0)
          ∧ ((c.sv b.toNat).toNat = (s.link part).tail.toNat → Answers (.reconf d a b) s (accepted s (.reconf (c.sv a.toNat).toNat)))))
    ∧ (∀ kind s1, c.Passes (.slots d a b) true uch → (c.sv b.toNat).toNat < 65536 → readPlan s c (c.sv a.toNat) = .ok (kind, s1) →
      ((c.sv b.toNat).toNat ≠ (s.link part).tail.toNat → TrapsOpen (.slots d a b) s c 6 0)
      ∧ ((c.sv b.toNat).toNat = (s.link part).tail.toNat → Answers (.slots d a b) s (accepted s1 kind)))
    ∧ ∀ r s1 blk, let q := (List.range 4).map fun k => c.sv (a.toNat + k)
      c.Passes (.coll f d a) true (uniUses ((List.range 4).map fun k => RName.s (a.toNat + k)) [.s d.toNat]) → c.g.frags.length = 1 →
      (nth q 3 0).toNat < 65536 → refClean (nth q 0 0) = true → collChecks s c q = .ok (r, s1) →
      ((s1.link part).changes ≠ [] → Answers (.coll f d a) s (c.WaitsOn .change))
      ∧ ((s1.link part).changes = [] → (nth q 3 0).setWidth 16 ≠ (s1.link part).tgen → TrapsOpen (.coll f d a) s c 6 0)
      ∧ ((s1.link part).changes = [] → (nth q 3 0).setWidth 16 = (s1.link part).tgen → s1.groupBlock? c.g = some blk →
          blk.barb = [] → blk.phase = [] → blk.coll = [] →
          ((∃ m ∈ liveGids s1 blk.kid blk.linear, m ≠ c.g.gid) → Answers (.coll f d a) s fun t => c.WaitsOn .coll t ∧ t.engines = s1.engines
            ∧ ∃ b', t.block? blk.kid blk.linear = some b' ∧ b'.coll.map (·.who) = [c.who])
          ∧ (∀ bs, (∀ m ∈ liveGids s1 blk.kid blk.linear, m = c.g.gid) → settledCore s1 c.who.core → (∀ e ∈ s1.engines, e.admitted = true ∧ e.suspended = false) →
              blk.debug = .run → c.g.state ≠ .tracked → blk.core = c.who.core → blk.ctx = c.g.ctx → readVirtual s1 blk.core blk.ctx (nth q 1 0).toNat 64 = some bs → CollRec.read bs = r →
              r.okHere s1 c.g.ctx bs (collSize s1 part r.axes) = true → slotRival s1 part = none →
              let hs := collHulls s1 c.g.ctx blk.dom (nth q 0 0) r (collSize s1 part r.axes)
              let seq := nextCollSeq s1 part r.axes
              canAdmit s1 hs = true → Answers (.coll f d a) s fun t => c.ScalarToLand d.toNat (BitVec.ofNat 64 seq) t
                ∧ t.mem = s1.mem ∧ t.tiles = s1.tiles ∧ ∃ e k, t.engines = s1.engines ++ [e] ∧ e.kind = .coll k ∧ e.hulls = hs
                  ∧ e.admitted = true ∧ k.rec_ = r ∧ k.record = nth q 1 0 ∧ k.src = nth q 0 0 ∧ k.bar = nth q 2 0 ∧ k.sequence = seq
                  ∧ k.grade = min 3 c.g.outgrade ∧ k.slot = (r.reduces && slotFree s1 part)
                  ∧ k.ring = (r.reduces && !slotFree s1 part && decide (f.toNat = 1))))

/-! ## Contexts and the host's commands (R87 to R97, R109 to R111, R120, R292, R295 to R301, R330) -/

/-- The commands of CTXCMD and the events that end them (R87 to R92, R97, R161 to R163): each acts from the states that R90 lists,
and is refused from every other; while one acts every command is ignored; the result is reported at STATADDR. PREEMPT reaches the groups after the slots of its
cycle (R175). That RESUME reports at once is the model's choice (log 123). -/
def Obligations.ContextCommands : Prop :=
  ∀ (vf ctx : Nat) (u : BitVec 56) (s : State) (c : Context), s.ctx? ctx = some c → Memory.wf s.hostMem = true →
    (s.groups.map (·.at_)).Nodup →
    let reported (x : Context) (t : State) := t.ctx? ctx = some x
      ∧ ∀ r, x.record = some r → readNat t.hostMem r.stataddr 8 = (statusWord x).toNat
    let from_ : List (Instr × List Nat) := [(.bind vf ctx u, [0, 5]), (.run vf ctx u, [1]), (.preempt vf ctx u, [2]), (.resume vf ctx u, [3]),
      (.stop vf ctx u, [2, 3]), (.destroy vf ctx u, [5])]
    let next (st result : Nat) : Context := { c with state := st, result := result, cmdseq := c.cmdseq + 1 }
    (windowOf s vf ctx = some c →
      (∀ p ∈ from_, (c.result = 4 → exec p.1 s = .next s)
        ∧ (c.result ≠ 4 → u ≠ 0 ∨ p.2.contains c.state = false → Answers p.1 s fun t => reported (next c.state 1) t ∧ t.groups = s.groups ∧ t.mem = s.mem))
      ∧ (c.result ≠ 4 → u = 0 →
          (c.state = 0 ∨ c.state = 5 → (readCtxRec s c = none → Answers (.bind vf ctx u) s (reported (next c.state 3)))
            ∧ ∀ r, readCtxRec s c = some r → Answers (.bind vf ctx u) s (reported { next 1 0 with
                record := some r, fqhead := 0, fqtail := 0, fqseq := 0, discard := 0, brkstop := false, trapstop := false }))
          ∧ (c.state = 1 → Answers (.run vf ctx u) s fun t => reported (next 2 0) t ∧ t.groups = s.groups ∧ t.mem = s.mem)
          ∧ (c.state = 2 → Answers (.preempt vf ctx u) s fun t => reported (next 2 4) t ∧ t.groups = s.groups ∧ t.mem = s.mem)
          ∧ (c.state = 3 → Answers (.resume vf ctx u) s fun t => ∃ x, reported x t ∧ x.state = 2 ∧ x.result = 0 ∧ x.cmdseq = c.cmdseq + 1)
          ∧ (c.state = 2 ∨ c.state = 3 → Answers (.stop vf ctx u) s fun t => reported (next 4 0) t
              ∧ (∀ e ∈ t.engines, e.ctx = ctx → e.suspended = false) ∧ t.mem = s.mem)
          ∧ (c.state = 5 → (∀ q ∈ s.queues, q.ctx = ctx → q.enqWait = [] ∧ q.deqWait = []) → Answers (.destroy vf ctx u) s fun t =>
              t.ctx? ctx = none ∧ (∀ r, c.record = some r → readNat t.hostMem r.stataddr 8 = (statusWord { next 6 0 with discard := 0 }).toNat)
              ∧ (∀ q ∈ t.queues, q.ctx = ctx → q.state = .free) ∧ (∀ e ∈ t.tlb, e.ctx ≠ ctx) ∧ ∀ x ∈ t.tensors, x.ctx ≠ ctx)))
    ∧ (∀ rest, s.agenda = .requests :: rest → (∀ b ∈ s.blocks, b.debug = .run ∧ b.stopAsked = false) → (∀ g ∈ s.groups, g.allFusing = false) →
      ∃ t, step s = .next t ∧ ∀ g ∈ s.groups, reachDue s g = true → ∃ g', t.group? g.at_ = some g' ∧ SameRegisters g g'
        ∧ g'.preemptAt = some (s.cycleOf g.at_.core))
    ∧ (∀ g k, c.state = 2 → c.result = 4 → preemptReady s ctx = true → s.groups.filter (preemptable · ctx) = [g] → s.kernel? g.kid = some k →
      settledCore s g.at_.core → Answers (.preemptDone ctx) s fun t => (∃ x, reported x t ∧ x.state = 3 ∧ x.result = 0)
        ∧ (∀ y ∈ t.groups, preemptable y ctx = false) ∧ (∀ b ∈ t.blocks, b.ctx = ctx → b.saved = true)
        ∧ (∀ y ∈ t.tiles, y.ctx = ctx → y.state ≠ .live)
        ∧ ∃ y ∈ t.groups, y.state = .saved ∧ y.kid = g.kid ∧ y.block = g.block ∧ y.gid = g.gid ∧ y.role = g.role
          ∧ ((g.stake.valid && !g.h) = false →
              SameRegisters { g with frame := g.frame.map fun fr => { fr with frags := fr.frags.map Fragment.unfetched } } y)
          ∧ ((g.stake.valid && !g.h) = true → g.stake.start = false → stakeReadable s g = true → y.sregs = g.sregs ∧ y.stake = g.stake
              ∧ y.frags.map (fun f => (f.pc, f.slices, f.em)) = [(g.stake.recipe, g.stake.slices, g.stake.em)]
              ∧ ∀ n, n < 64 → g.stake.livev.getLsbD n = true → g.allocated n = true → y.vNew n = g.vNew n))
    ∧ (c.state = 4 → (∀ e ∈ s.engines, e.ctx = ctx → e.kind = .items) → (∀ l ∈ s.wcb, l.ctx ≠ ctx) → (s.vest.map (·.seq)).Nodup → Answers (.contextStopped ctx) s fun t =>
        (∃ x, reported x t ∧ x.state = 5 ∧ x.discard = heldOf s ctx) ∧ (∀ g ∈ t.groups, g.ctx ≠ ctx) ∧ (∀ k ∈ t.kernels, k.ctx ≠ ctx)
        ∧ (∀ b ∈ t.blocks, b.ctx ≠ ctx) ∧ (∀ g ∈ t.graphs, g.ctx ≠ ctx) ∧ ∀ e ∈ t.vest, e.ctx = ctx → e.released = true)
    ∧ (s.start = .ready →
        (s.vfPart vf = 0xFFFF → exec (.create vf) s = .next (setVfres s vf 3))
        ∧ (s.vfPart vf ≠ 0xFFFF → (∀ n, n < 256 → ∃ x ∈ s.contexts, x.id = n) → exec (.create vf) s = .next (setVfres s vf 4))
        ∧ (s.vfPart vf ≠ 0xFFFF → (∃ n, n < 256 ∧ ∀ x ∈ s.contexts, x.id ≠ n) → Answers (.create vf) s fun t => ∃ n, n < 256
            ∧ (∀ x ∈ s.contexts, x.id ≠ n) ∧ t.contexts = s.contexts ++ [Context.created n vf (s.vfPart vf)]
            ∧ t.vfres.find? (fun p => p.1 = vf) = some (vf, 2 + n * 65536)))

/-- The memory and queue commands of a context's window (R109 to R111, R120, R292, R296 to R301, R330): while the area is BUSY a command
is ignored, with a bad operand refused, and else it has its effect and reports DONE: RESOLVE once every access that its verdict
concerns has trapped or issued again, in the order in which they parked. The first epoch of a queue number, 1,
is the model's choice (log 37), and how the accesses of a RESOLVE take their turns its reading (log 69). -/
def Obligations.HostCommands : Prop :=
  ∀ (vf ctx slot : Nat) (value : DWord) (s : State) (c : Context), windowOf s vf ctx = some c →
    let m (k : Nat) := (nth c.mop k 0).toNat
    let done (f : Context → Context) (t : State) := ∃ x, t.ctx? ctx = some x ∧ x = f c
    let quiet := (∀ g ∈ s.groups, g.ctx ≠ ctx) ∧ ∀ l ∈ s.wcb, l.ctx ≠ ctx
    (c.mres = 1 → ∀ i ∈ [Instr.inval vf ctx, .resolve vf ctx, .dirtyscan vf ctx, .hostAmend vf ctx], exec i s = .next s)
    ∧ (c.mres ≠ 1 →
      (m 0 % 65536 ≠ 0 ∨ m 1 % 65536 ≠ 0 ∨ m 2 ≠ 0 → exec (.inval vf ctx) s = .next (setMres s ctx 3))
      ∧ (m 0 % 65536 = 0 → m 1 % 65536 = 0 → m 2 = 0 → Answers (.inval vf ctx) s (done fun x => { x with mres := 1, inval := some (m 0, m 1) }))
      ∧ (m 1 % 256 < 3 → m 1 / 512 = 0 → m 2 = 0 →
        let here (t : Tracked) : Bool := t.ctx = ctx && t.page = m 0 / 65536 && t.kind = m 1 % 256
        (s.tracker.find? here = none → exec (.resolve vf ctx) s = .next (setMres s ctx 2))
        ∧ ∀ t, s.tracker.find? here = some t →
            let s1 := { setMres s ctx 1 with tracker := s.tracker.filter fun x => !here x }
            let left (ws : List Waiter) (x : State) : State := x.updCtx ctx fun y => { y with replay := some ⟨m 0 / 65536, m 1 % 256, ws⟩ }
            (m 1 / 256 % 2 = 1 → exec (.resolve vf ctx) s = .next (left t.waiters s1))
            ∧ ∀ w g f k addr lane, m 1 / 256 % 2 = 0 → t.waiters = [.frag w] → s.group? w.group = some g → g.frag? w.index = some f →
                f.park = some (.fault (m 0 / 65536) k addr lane) → blockHalted s g = false →
                exec (.resolve vf ctx) s = .next (left [.frag w]
                  (takeTrap (unpark s1 w) w 8 addr (BitVec.ofNat 64 (k + lane * 256)) f.pc f.pc)))
      ∧ (m 0 % 16 = 0 → m 1 < 2 ^ 32 → m 2 = 0 → quiet → Memory.wf s.hostMem = true → Memory.wf s.mem = true →
        let dirty := (leavesOf s ctx).filter (·.dirty)
        (∀ e ∈ dirty, lostRange s e.pteAt 1 = false) → Answers (.dirtyscan vf ctx) s fun t => done (fun x => { x with mres := 2 }) t
          ∧ readNat t.hostMem (m 0) 8 = dirty.length % 2 ^ 64 ∧ readNat t.hostMem (m 0 + 8) 4 = m 1
          ∧ readNat t.hostMem (m 0 + 12) 4 = (if dirty.length > m 1 then 1 else 0)
          ∧ (∀ k e, k < m 1 → dirty[k]? = some e → readNat t.hostMem (m 0 + 16 + 8 * k) 8 = (e.vbase + sizeCode e.size) % 2 ^ 64)
          ∧ (∀ e ∈ dirty, readByte t.mem e.pteAt &&& 0x40 = 0 ∧ ∀ x ∈ t.tlb, x.ctx = e.ctx → overlaps x.vbase x.size e.vbase e.size = false)
          ∧ ∀ a, (∀ e ∈ dirty, e.pteAt ≠ a) → readByte t.mem a = readByte s.mem a)
      ∧ (m 2 < 4 →
        (∀ cause a, hostRange s ctx (m 0) (m 1) = .error (cause, a) →
          exec (.hostAmend vf ctx) s = .next (setMres (engineFault s ctx cause (BitVec.ofNat 64 a) 1) ctx 6))
        ∧ ∀ gs s1, hostRange s ctx (m 0) (m 1) = .ok (gs, s1) → (gs.map fun x => x.pa / 256).Nodup →
          (∀ x ∈ gs, lostRange s1 x.pa 1 = false) →
          (∀ cause a, m 2 ≠ 0 → amendFault s1 gs = some (cause, a) →
            exec (.hostAmend vf ctx) s = .next (setMres (engineFault s ctx cause (BitVec.ofNat 64 a) 1) ctx 6))
          ∧ (m 2 = 0 ∨ amendFault s1 gs = none → Answers (.hostAmend vf ctx) s fun t => t.mem = s1.mem ∧ (∃ x, t.ctx? ctx = some x ∧ x.mres = 2)
              ∧ (∀ x ∈ gs, tagAt t x.pa = (if m 2 = 0 then ⟨0, 0, 0⟩ else ⟨1, (tagAt s1 x.pa).ver + 1, m 2⟩))
              ∧ ∀ pa, (∀ x ∈ gs, x.pa / 256 ≠ pa / 256) → tagAt t pa = tagAt s1 pa)))
    ∧ (∀ act r, c.replay = some r →
      ((∀ w ∈ r.left, stillWaits s r w = false) →
        replayStep act s ctx = (setMres s ctx 2).updCtx ctx fun x => { x with replay := none })
      ∧ ∀ w rest g, r.left = .frag w :: rest → stillWaits s r (.frag w) = true → (faultOf s w).isSome = true → s.group? w.group = some g →
          blockHalted s g = false → Retries w s (replayStep act s ctx) ∧ ∃ x, (replayStep act s ctx).ctx? ctx = some x ∧ x.mres = c.mres)
    ∧ (∀ base n, c.inval = some (base, n) → Answers (.invalDone ctx) s fun t => (∃ x, t.ctx? ctx = some x ∧ x.mres = 2 ∧ x.inval = none)
        ∧ ∀ e, e ∈ t.tlb ↔ e ∈ s.tlb ∧ inRange e ctx base n = false)
    ∧ (c.qres % 256 = 1 → ∀ i ∈ [Instr.qcreate vf ctx, .seal vf ctx, .qdestroy vf ctx], exec i s = .next s)
    ∧ (c.qres % 256 ≠ 1 →
      (queueOf s c = none → exec (.qcreate vf ctx) s = .next (setQres s ctx 5 0))
      ∧ (∀ q, queueOf s c = some q → (∃ n, n < 65536 ∧ ∀ y ∈ s.queues, y.num = n → y.state = .free) → Answers (.qcreate vf ctx) s fun t =>
          ∃ n, n < 65536 ∧ (∀ y ∈ s.queues, y.num = n → y.state = .free)
            ∧ let epoch : BitVec 16 := (s.queue? n).elim 0 (·.epoch) + 1
              t.queue? n = some { q with num := n, epoch := epoch }
              ∧ done (fun x => { x with qres := 2, qcapout := newCap s n epoch.toNat ctx 7 }) t)
      ∧ (∀ r, capReason s ctx c.qcmdcap none none false = some r → ∀ i ∈ [Instr.seal vf ctx, .qdestroy vf ctx],
          exec i s = .next (setQres s ctx 3 r))
      ∧ ∀ q, capReason s ctx c.qcmdcap none none false = none → s.queue? (capQnum c.qcmdcap) = some q → q.enqWait = [] → q.deqWait = [] →
        (Answers (.seal vf ctx) s fun t => t.queue? q.num = some { q with state := .sealed } ∧ done (fun x => { x with qres := 2 }) t)
        ∧ Answers (.qdestroy vf ctx) s fun t => t.queue? q.num = some { q with state := .free, head := 0, tail := 0 }
            ∧ done (fun x => { x with qres := 2 }) t)
    ∧ (slot < 32 → (enqSlot c slot).status ≠ 4 →
      let e := enqSlot c slot
      (c.state ≠ 2 → exec (.enqCommit vf ctx slot value) s = .next (setEnqSlot s ctx slot { e with status := 3 }))
      ∧ (c.state = 2 → value.toNat < 4 → ∀ q, capReason s ctx e.cap (some 0) (some value.toNat) true = none → s.queue? (capQnum e.cap) = some q →
        (q.capacity ≤ q.occ → exec (.enqCommit vf ctx slot value) s = .next (setEnqSlot s ctx slot { e with status := 2 }))
        ∧ (q.occ < q.capacity → q.deqWait = [] → q.enqWait = [] →
          lostRange s (q.base + q.tail % q.capacity * q.itemBytes) (e.item.take q.itemBytes).length = false → Answers (.enqCommit vf ctx slot value) s fun t =>
            t.queue? q.num = some { q with tail := q.tail + 1 } ∧ (∃ x, t.ctx? ctx = some x ∧ enqSlot x slot = { e with status := 1 })
            ∧ t.mem = writeBytes s.mem (q.base + q.tail % q.capacity * q.itemBytes) (e.item.take q.itemBytes))))

/-! ## Debug and registers (R89, R94, R357, R405 to R410, R413, R419) -/

/-- The debug commands and BLOCK_HALTED (R406 to R409): DBGSTOP stops a running block after the slots of its cycle, which
has halted, with its dump written, when every fragment stands at a boundary; DBGREAD answers a register of a halted group, and DBGRESUME lets the block run;
a refused command answers REFUSED. That a halt by BRK or by a trap dumps at the address of the last DBGSTOP is the model's reading (log 71). -/
def Obligations.DebugCommands : Prop :=
  ∀ (vf ctx : Nat) (s : State) (c : Context), windowOf s vf ctx = some c →
    let d (k : Nat) := (nth c.dop k 0).toNat
    let done (f : Context → Context) (t : State) := ∃ x, t.ctx? ctx = some x ∧ x = f c
    let refused (i : Instr) := exec i s = .next (setDres s ctx 3)
    (c.dres = 1 → ∀ i ∈ [Instr.dbgstop vf ctx, .dbgread vf ctx, .dbgresume vf ctx, .dbgctl vf ctx], exec i s = .next s)
    ∧ (c.dres ≠ 1 →
      (debugBlock s c = none → ∀ i ∈ [Instr.dbgstop vf ctx, .dbgread vf ctx, .dbgresume vf ctx], refused i)
      ∧ (d 0 < 4 ∧ d 1 = 0 ∧ d 2 = 0 ∧ d 3 = 0 → Answers (.dbgctl vf ctx) s
          (done fun x => { x with dres := 2, brkstop := decide (d 0 % 2 = 1), trapstop := decide (2 ≤ d 0) }))
      ∧ (¬(d 0 < 4 ∧ d 1 = 0 ∧ d 2 = 0 ∧ d 3 = 0) → refused (.dbgctl vf ctx))
      ∧ ∀ b, debugBlock s c = some b →
        (b.debug = .run → d 2 % 32 = 0 → d 3 = 0 → Answers (.dbgstop vf ctx) s fun t => done (fun x => { x with dres := 1 }) t
          ∧ t.groups = s.groups ∧ t.block? b.kid b.linear = some { b with stopAsked := true, dumpAt := BitVec.ofNat 64 (d 2) })
        ∧ (∀ rest, s.agenda = .requests :: rest → s.blocks = [b] → b.debug = .run → b.stopAsked = true →
          (∀ g ∈ s.groups, reachDue s g = false ∧ g.allFusing = false) →
          ∃ t, step s = .next t ∧ t.blocks = [{ b with debug := .halting 0 0, haltAt := s.cycleOf b.core }])
        ∧ (b.debug ≠ .run ∨ d 2 % 32 ≠ 0 ∨ d 3 ≠ 0 → refused (.dbgstop vf ctx))
        ∧ ((∀ why code, b.debug ≠ .halted why code) → refused (.dbgread vf ctx) ∧ refused (.dbgresume vf ctx))
        ∧ (∀ why code g, b.debug = .halted why code → (dumpGroups s b).find? (fun g => g.gid = d 2 % 32) = some g → readClean (d 2) = true →
            d 3 = 0 →
            (∀ v, readRegister s g (d 2 / 256 % 4) (d 2 / 2 ^ 16 % 128) (d 2 / 2 ^ 24 % 32) = some v →
              Answers (.dbgread vf ctx) s fun t => done (fun x => { x with dres := 2, dval := v }) t ∧ t.groups = s.groups)
            ∧ (readRegister s g (d 2 / 256 % 4) (d 2 / 2 ^ 16 % 128) (d 2 / 2 ^ 24 % 32) = none → refused (.dbgread vf ctx)))
        ∧ (∀ why code, b.debug = .halted why code → d 2 = 0 → d 3 = 0 → Answers (.dbgresume vf ctx) s fun t =>
            (∃ x, t.ctx? ctx = some x ∧ x.dres = 2) ∧ ∃ b', t.block? b.kid b.linear = some b' ∧ b'.debug = .run))
    ∧ ∀ b why code, s.block? b.kid b.linear = some b → b.debug = .halting why code → b.saved = false → b.ctx = ctx →
      ((s.groupsOf b.kid b.linear).all (fun g => g.frags.all atBoundary) = false → exec (.blockHalted b.kid b.linear) s = .next s)
      ∧ ((s.groupsOf b.kid b.linear).all (fun g => g.frags.all atBoundary) = true → Answers (.blockHalted b.kid b.linear) s fun t =>
          t.groups = s.groups ∧ t.block? b.kid b.linear = some { b with debug := .halted why code, stopAsked := false }
          ∧ (∃ x, t.ctx? ctx = some x ∧ x.dres = if b.stopAsked = true ∧ c.dres = 1 then 2 else c.dres)
          ∧ ∀ s1, writeVirtual s b.core ctx b.dumpAt.toNat (dumpBytes s b why code) = some s1 → t.mem = s1.mem)

/-- The writes of the register file (R89, R93, R94, R357, R410, R413, R419): COMMIT applies the staged table or names the entry at
fault; a pitch entry, a capture slot and the controls of the lantern and of the trace take their values within their limits; a
register of a window takes the value written and reads as it; a CTXCMD of no command is refused; a register that is written only reads 0, and
a read of another size returns all ones. That a LOG2N of 15 is ignored (log 72), that the entry at fault is the first staged one (log 80),
and that COMMIT moves no byte of memory (log 103) is the model's reading. -/
def Obligations.RegisterWrites : Prop :=
  ∀ (vf ctx n : Nat) (v : DWord) (bs : List Byte) (s : State),
    (s.start ≠ .off → s.start ≠ .latched →
      (∀ p, (List.range 16).find? (entryFault s) = some p → exec .commit s = .next { s with ptres := 3 + p * 256 })
      ∧ ((List.range 16).find? (entryFault s) = none → minimaExceed s = true → exec .commit s = .next { s with ptres := 3 + 0xFF * 256 })
      ∧ ((List.range 16).find? (entryFault s) = none → minimaExceed s = false → exec .commit s = .next { s with
          ptres := 2, partBytes := s.stagedParts, slots := s.stagedSlots, parts := (s.stagedParts.filter entryUsed).map PartEntry.read
          mem := (newParts s ((s.stagedParts.filter entryUsed).map PartEntry.read)).mem
          tags := (newParts s ((s.stagedParts.filter entryUsed).map PartEntry.read)).tags })
      ∧ ((s.stagedParts.filter entryUsed).map PartEntry.read = s.parts → newParts s s.parts = s))
    ∧ (let p := Pitch.read n bs
      ((∃ c ∈ s.contexts, c.state = 2 ∧ c.part = p.part) ∨ pitchOk s bs p = false → exec (.pitchWrite n bs) s = .next s)
      ∧ ((∀ c ∈ s.contexts, c.state ≠ 2) → pitchOk s bs p = true → Answers (.pitchWrite n bs) s fun t =>
          t.pitch? n = (if p.part = 0xFFFF then none else some p) ∧ ∀ k, k ≠ n → t.pitch? k = s.pitch? k))
    ∧ (n < 4 → s.captures.length = 4 →
      let c := nth s.captures n Capture.reset
      let base := v.toNat % 2 ^ 48 / 8192 * 8192
      exec (.capctlWrite n v) s = .next { s with captures := s.captures.set n { c with arm := v.getLsbD 0, done := c.done && !v.getLsbD 1 } }
      ∧ (c.busy = true ∨ c.done = true ∨ hbmEnd ≤ base ∨ (ownerOf s base).isSome = true → exec (.capbaseWrite n v) s = .next s)
      ∧ (c.busy = false → c.done = false → base < hbmEnd → ownerOf s base = none → exec (.capbaseWrite n v) s =
          .next { s with captures := s.captures.set n { c with base := BitVec.ofNat 64 base } }))
    ∧ (∀ c, windowOf s vf ctx = some c →
      (let period := v.toNat / 8 % 32
        let log2n := v.toNat / 256 % 16
        Answers (.lctlWrite vf ctx v) s fun t => t.ctx? ctx = some { c with
          len := v.getLsbD 0, lbase := BitVec.ofNat 64 (v.toNat / 4096 * 4096), llog2n := if log2n ≤ 14 then log2n else c.llog2n,
          lperiod := if 10 ≤ period ∧ period ≤ 24 then period else c.lperiod
          lsampled := if 10 ≤ period ∧ period ≤ 24 ∧ period ≠ c.lperiod then [] else c.lsampled })
      ∧ (let synci := v.toNat / 4096 % 16
        let log2b := v.toNat / 64 % 64
        Answers (.tctlWrite vf ctx v) s fun t => ∃ x, t.ctx? ctx = some x ∧ x.trace.synci = synci ∧ x.trace.log2b = log2b
          ∧ x.trace.blk = v.toNat / 2 ^ 16 % 2 ^ 32 ∧ x.trace.kid = v.toNat / 2 ^ 48 ∧ x.trace.head = c.trace.head ∧ (c.trace.queue = [] → x.trace.tail = c.trace.tail)
          ∧ (x.trace.en = true ↔ v.getLsbD 0 = true ∧ 1 ≤ synci ∧ synci ≤ 7 ∧ 12 ≤ log2b ∧ log2b ≤ 30))
      ∧ exec (.registerWrite (.context vf ctx) 8 8 v) s = .next (s.updCtx ctx fun y => { y with ctxrec := v })
      ∧ (∀ off, 0 < off → off < 0x1000 → off % 8 = 0 → off ∉ [0x58, 0x98, 0x120, 0x200, 0x240] →
          exec (.registerWrite (.context vf ctx) off 8 v) s = .next (s.updCtx ctx fun y => y.writeReg off v))
      ∧ (c.result ≠ 4 → v.toNat % 256 = 0 ∨ 6 < v.toNat % 256 → Answers (.registerWrite (.context vf ctx) 0 8 v) s fun t =>
          ∃ x, t.ctx? ctx = some x ∧ x.state = c.state ∧ x.result = 1 ∧ x.cmdseq = c.cmdseq + 1)
      ∧ (∀ off ∈ [0x0008, 0x0018, 0x0050, 0x0208], Answers (.registerWrite (.context vf ctx) off 8 v) s fun t =>
          readWindow t (.context vf ctx) off 8 = v.toNat)
      ∧ (∀ off ∈ [0x0000, 0x0058, 0x0098, 0x0120], readWindow s (.context vf ctx) off 8 = 0)
      ∧ (∀ off size, off < 0x1000 → size ≠ 8 ∨ off % 8 ≠ 0 → off + size ≤ 0x1000 → readWindow s (.context vf ctx) off size = 2 ^ (8 * size) - 1)
      ∧ (∀ off size, off < 0x1000 → size ≠ 8 ∨ off % 8 ≠ 0 → off + size ≤ 0x1000 →
          exec (.registerWrite (.context vf ctx) off size v) s = .next s))
    ∧ (windowOf s vf ctx = none → ∀ off size, exec (.registerWrite (.context vf ctx) off size v) s = .next s
        ∧ readWindow s (.context vf ctx) off size = 0)

/-! ## Starts, power and the log (R19, R418 to R429) -/

/-- The start of the chip (R19, R103, R420 to R424, R429): COLD and WARM begin a start, CLEARFAIL leaves the latched state, an image that fails its
check fails step 1, fields come up in their order, each within 10 ms or the step fails, each completed step leads to the next and the last to
`ready`, the third failure in a row latches, and a warm start whose saved training parameters do not pass their check fails; and what ATTEST, the
log, which is flushed every 60 s, and the events beside a start do. That a cold start, a warm start that fails and STANDBY_POWER_LOSS empty the
memory and keep PTPNS is the model's reading (log 78); so is what ATTEST answers before `ready`, the measurement alone or failed, and that a port's
error rates have 8 buckets (log 79), of which one sample is taken in each hour of PTPNS (log 140). -/
def Obligations.StartEvents : Prop :=
  ∀ (s : State) (nonce : BitVec 256) (clear : Bool) (k b : Nat),
    (s.start = .off → Answers .cold s fun t => t.start = .cold ∧ t.startStep = 1 ∧ t.starts = s.starts + 1 ∧ t.contexts = [] ∧ t.groups = []
      ∧ t.mem = [] ∧ t.logFlushed = s.logFlushed ∧ t.ptpns = s.ptpns)
    ∧ (s.start = .ready → s.contexts = [] → Answers .warm s fun t => t.start = .warm ∧ t.startStep = 1 ∧ t.starts = s.starts + 1
      ∧ t.mem = s.mem ∧ t.parts = s.parts ∧ t.logFlushed = t.log)
    ∧ (s.start = .latched → exec (.clearfail clear) s = .next { s with
        start := .off, failCount := 0, log := if clear then LifeLog.empty else s.log, logFlushed := if clear then LifeLog.empty else s.logFlushed })
    ∧ (starting s = true → s.startStep = 2 → ∀ f, nextField s = some f → f < s.fields.length → s.ptpns ≤ s.railAt + 10000000 →
        let up (t : State) := (t.field f).up = true ∧ (t.field f).cycle = 0 ∧ (t.field f).mhz = 1800 ∧ (t.field f).mv = 750
          ∧ (t.field f).limit = nth s.image.limits f 0 ∧ t.fieldsUp = s.fieldsUp ++ [f] ∧ t.start = s.start ∧ t.railAt = s.ptpns
        let last := ∀ g ∈ fieldOrder, g = f ∨ g ∈ s.fieldsUp
        (¬last → Answers (.fieldUp f) s fun t => up t ∧ t.startStep = 2)
        ∧ (last → s.start = .cold → Answers (.fieldUp f) s fun t => up t ∧ t.startStep = 3)
        ∧ (last → s.start = .warm → s.paramSet ≠ 0 → s.paramOk = true → Answers (.fieldUp f) s fun t => up t ∧ t.startStep = 6)
        ∧ (last → s.start = .warm → s.paramOk = false → Answers (.fieldUp f) s fun t => t.start = .cold ∧ t.startStep = 1 ∧ t.mem = []))
    ∧ (∀ f, nextField s ≠ some f ∨ s.railAt + 10000000 < s.ptpns → exec (.fieldUp f) s = .next s)
    ∧ (s.ptpns ≤ s.railAt + 10000000 → exec .fieldStartTimeout s = .next s)
    ∧ (starting s = true →
        (s.startStep = 1 → (∀ c ∈ s.contexts, c.state ≠ 4) → Answers (.startStepComplete true) s fun t =>
          (s.image.valid = true → t.start = s.start ∧ t.startStep = 2 ∧ t.fieldsUp = [] ∧ t.railAt = s.ptpns)
          ∧ (s.image.valid = false → t.log.startFailure = some (1, none, s.ptpns)))
        ∧ (∀ n, s.startStep = n → n = 3 ∨ n = 4 ∨ n = 5 → Answers (.startStepComplete true) s fun t => t.start = s.start ∧ t.startStep = n + 1)
        ∧ (s.startStep = 7 → Answers (.startStepComplete true) s fun t => t.start = .ready ∧ t.failCount = 0 ∧ t.links = []
            ∧ t.keyNumber = s.keyNumber + 1 ∧ t.mem = s.mem)
        ∧ (s.start = .cold → s.failCount < 2 → ∀ i ∈ [Instr.startStepComplete false] ++ (if s.startStep = 2 ∧ s.railAt + 10000000 < s.ptpns then [.fieldStartTimeout] else []),
            Answers i s fun t => t.start = .cold ∧ t.startStep = 1 ∧ t.failCount = s.failCount + 1)
        ∧ (s.start = .cold → s.failCount = 2 → Answers (.startStepComplete false) s fun t => t.start = .latched ∧ t.failCount = 3 ∧ t.contexts = [])
        ∧ (s.start = .warm → Answers (.startStepComplete false) s fun t => t.start = .cold ∧ t.startStep = 1 ∧ t.mem = []))
    ∧ (s.start = .ready → k < s.fields.length → k < 6 → (s.field k).up = true → s.contexts = [] → Answers (.fieldLoss k) s fun t =>
        (t.field k).up = false ∧ t.start = .ready ∧ t.mem = s.mem ∧ k ∉ t.fieldsUp)
    ∧ (let m := Config.measurement s.image.bytes s.paramSet s.paramOk
      let sig := Config.attestSignature m nonce s.starts
      s.start = .ready → exec (.attest nonce) s = .next { s with mgmtReply := .report m nonce s.starts sig })
    ∧ (s.start = .latched → exec (.attest nonce) s = .next { s with mgmtReply := .failed })
    ∧ (starting s = true → exec (.attest nonce) s = .next { s with
        mgmtReply := if s.image.valid = true then .measurement (Config.imageMeasurement s.image.bytes) else .failed })
    ∧ exec .logread s = .next { s with mgmtReply := .log s.log }
    ∧ (s.flushedAt + 60000000000 ≤ s.ptpns → exec .logFlush s = .next { s with logFlushed := s.log, flushedAt := s.ptpns })
    ∧ (s.ptpns < s.flushedAt + 60000000000 → exec .logFlush s = .next s)
    ∧ (∀ rest, s.agenda = .paramsSpoilt :: rest → step s = .next { s with agenda := rest, paramOk := false })
    ∧ (Answers .standbyPowerLoss s fun t => t.start = .off ∧ t.log = s.logFlushed ∧ t.logFlushed = s.logFlushed ∧ t.mem = [] ∧ t.contexts = [])
    ∧ (k < 12 → exec (.hbmRetrain k) s = .next (s.count .hbmRetrain k 0 1))
    ∧ (k < 16 → b < 8 →
        let hour := s.ptpns / 3600000000000
        (nth s.portSampled k 0 ≤ hour → exec (.portErrorSample k b) s =
          .next ({ s with portSampled := s.portSampled.set k (hour + 1) }.count .portError k b 1))
        ∧ (hour < nth s.portSampled k 0 → exec (.portErrorSample k b) s = .next s))

/-- Power and temperature of a field (R418, R419, R424, R425, R427, R428): a sample in each µs measures draw and temperature and
joins the ring of 64; the throttles begin, with the voltage nominal, and step their clocks by 100 MHz between 900 and 1800, and end; a trip
removes the field's rail, and in a start fails the step; lean mode counts the replays below nominal voltage, and its windows of 64,000 cycles raise or lower the voltage by 5 mV, lower it at most
once per ms; a capture ends; HEAD is LIMIT less the baseline, measured once in each ms of PTPNS (log 140).
That the thermal throttle ends at once below TTHROT - 5 with the clock at 1,800 MHz, and the rise per 100 µs, is the model's reading (log 77). -/
def Obligations.PowerEvents : Prop :=
  ∀ (s : State) (f : Nat), f < 6 → s.fields.length = 6 → s.captures.length = 4 → (s.field f).up = true →
    let x := s.field f
    let nominal (g : Field) : Field := { g with lean := false, mv := 750 }
    let hot (q : Nat) : Bool := decide (x.temp % 65536 < 32768) && decide (q ≤ x.temp % 65536)
    (∀ draw temp, sampled s f = true → exec (.powerSample f draw temp) s = .next s)
    ∧ (∀ draw temp, sampled s f = false → runningCapture s f = none → Answers (.powerSample f draw temp) s fun t => t.mem = s.mem ∧ t.captures = s.captures
      ∧ (t.field f).draw = draw % 65536 ∧ (t.field f).temp = temp % 65536
      ∧ (t.field f).overUs = (if x.limit < draw % 65536 then x.overUs + 1 else 0) ∧ (t.field f).replaysUs = 0
      ∧ (t.field f).samples.length = min (x.samples.length + 1) 64)
    ∧ (x.plim = false → 10 ≤ x.overUs → Answers (.powerLimitThrottle f) s fun t => t.field f = nominal { x with plim := true, overUs := 0, underUs := 0 })
    ∧ (x.plim = true ∨ x.overUs < 10 → exec (.powerLimitThrottle f) s = .next s)
    ∧ (x.therm = false → hot s.image.tthrot = true → Answers (.thermalThrottle f) s fun t =>
        t.field f = nominal { x with therm := true, hotUs := 0, coolUs := 0 })
    ∧ (x.therm = true ∨ hot s.image.tthrot = false → exec (.thermalThrottle f) s = .next s)
    ∧ (x.plim = true → x.therm = false → 900 ≤ x.plimMhz → x.plimMhz ≤ 1800 → Answers (.throttleClockStep f) s fun t => (t.field f).plimMhz =
        if 10 ≤ x.overUs then max 900 (x.plimMhz - 100) else if 100 ≤ x.underUs then min 1800 (x.plimMhz + 100) else x.plimMhz)
    ∧ (x.plim = false → x.therm = true → Answers (.throttleClockStep f) s fun t =>
        (hot (s.image.tthrot - 20) = false → (t.field f).therm = false ∧ (t.field f).thermMhz = 1800)
        ∧ (hot (s.image.tthrot - 20) = true → (t.field f).therm = true ∧ (t.field f).thermMhz =
            if 10 ≤ x.hotUs then max 900 (x.thermMhz - 100) else if 100 ≤ x.coolUs then min 1800 (x.thermMhz + 100) else x.thermMhz))
    ∧ (hot s.image.ttrip = true → starting s = false → s.contexts = [] → Answers (.thermalTrip f) s fun t => (t.field f).up = false
        ∧ f ∉ t.fieldsUp ∧ t.log.trips.find? (fun p => p.1 = f) = some (f, s.ptpns))
    ∧ (hot s.image.ttrip = true → s.start = .warm ∨ s.start = .cold ∧ s.failCount < 2 → Answers (.thermalTrip f) s fun t =>
        t.start = .cold ∧ t.startStep = 1 ∧ t.log.startFailure = some (s.startStep, some f, s.ptpns)
        ∧ t.failCount = if s.start = .warm then s.failCount else s.failCount + 1)
    ∧ (x.lean = false ∨ 750 ≤ x.mv → exec (.leanReplay f) s = .next s)
    ∧ (x.lean = true → x.mv < 750 → exec (.leanReplay f) s = .next (s.setField f { x with replays := x.replays + 1, replaysUs := x.replaysUs + 1 }))
    ∧ (x.lean = true → x.cycle < x.window + 64000 → exec (.leanWindowEnd f) s = .next s)
    ∧ (x.lean = true → x.window + 64000 ≤ x.cycle → Answers (.leanWindowEnd f) s fun t => (t.field f).replays = 0 ∧ (32 < x.replays → (t.field f).mv = min 750 (x.mv + 5))
          ∧ (x.replays ≤ 8 → x.lowerAt ≤ s.ptpns → nth s.image.floorMv f 750 + 5 ≤ x.mv →
              (t.field f).mv = x.mv - 5 ∧ (t.field f).lowerAt = s.ptpns + 1000000)
          ∧ (x.replays ≤ 8 → s.ptpns < x.lowerAt ∨ x.mv < nth s.image.floorMv f 750 + 5 → (t.field f).mv = x.mv)
          ∧ (8 < x.replays → x.replays ≤ 32 → (t.field f).mv = x.mv))
    ∧ (∀ base, let ms := s.ptpns / 1000000
        (x.headAt < ms → exec (.headroomRemeasure f base) s = .next (s.setField f { x with head := x.limit - base, headAt := ms }))
        ∧ (ms ≤ x.headAt → exec (.headroomRemeasure f base) s = .next s))
    ∧ ∀ n, n < 4 → (nth s.captures n Capture.reset).busy = true → (nth s.captures n Capture.reset).taken = 256 →
        exec (.captureDone n) s = .next { s with captures := s.captures.set n { nth s.captures n Capture.reset with done := true, busy := false } }

/-! ## Ports and topology (R353 to R366) -/

/-- Ports and their circuits (R355, R356, R363): a trained port is idle and HELLO goes out, a circuit comes up, a port is idle once it has
drained and its peer has acknowledged every flit, a fault raises the owner's generation and ends the wait for those acknowledgements, and a dropped frame or the switch's time changes nothing.
That a fault raises the generation of every change in progress (log 59), and that HELLO goes out at each PORT_TRAINED and TIME changes
nothing (log 60), is the model's reading. -/
def Obligations.PortEvents : Prop :=
  ∀ (s : State) (port : Nat), port < 16 → s.ports.length = 16 →
    let now (x : PortState) : Prop := nth s.ports port .dark = x
    let moved (x : PortState) : State := { s with ports := s.ports.set port x }
    (now .training → Answers (.portTrained port) s fun t => t.ports = s.ports.set port .idle
      ∧ t.frames = s.frames ++ [frameBytes 1 s.frameSeq 0 s.chipid 0 0 0 []] ∧ t.frameSeq = (s.frameSeq + 1) % 256)
    ∧ (¬now .training → exec (.portTrained port) s = .next s)
    ∧ (now .fault → exec (.portRetrained port) s = .next (moved .idle))
    ∧ (¬now .fault → exec (.portRetrained port) s = .next s)
    ∧ (∀ p, portOwner s port = some p →
      (∀ x, now .idle → currentPitch s p.partid = some x → x.ports.testBit port = true → Answers (.circuitUp port) s fun t =>
        { t with engines := s.engines } = moved .up ∧ t.engines.map (·.id) = s.engines.map (·.id))
      ∧ (¬now .idle ∨ currentPitch s p.partid = none → exec (.circuitUp port) s = .next s)
      ∧ (now .draining → portBusy s p.partid port = false → (s.link p.partid).changes = [] ∨ collOpen s p.partid = false →
          exec (.portDrained port) s = .next (moved .idle))
      ∧ (¬now .draining ∨ portBusy s p.partid port = true ∨ (s.link p.partid).changes ≠ [] ∧ collOpen s p.partid = true → exec (.portDrained port) s = .next s)
      ∧ (now .up ∨ now .draining → Answers (.portFault port) s fun t => t.ports = s.ports.set port .fault
          ∧ (t.link p.partid).tgen = (s.link p.partid).tgen + 1 ∧ (t.link p.partid).tail = (s.link p.partid).tail + 1
          ∧ (t.link p.partid).mode = (s.link p.partid).mode
          ∧ (∀ u ∈ s.unacked, u ∈ t.unacked ↔ u.part ≠ p.partid ∨ u.port ≠ port)
          ∧ (t.link p.partid).changes.map (·.gen) = (s.link p.partid).changes.map (·.gen + 1)))
    ∧ (¬now .up → ¬now .draining → exec (.portFault port) s = .next s)
    ∧ exec .controlFrameCrcFail s = .next s
    ∧ ∀ v, exec (.switchTime v) s = .next s

/-- Topology changes and slot plans (R360 to R366): when nothing of the ending configuration is up, the frame of the first change is sent,
and sent again three times at most; the answer of the switch, silence or a plan's EPOCH ends the change, with TGEN its generation and the
result in its issuer's scalar, unless another fragment's later write has overruled it (R179); slots of a plan go through guard, window and end.
That answers are matched by GEN and not by SEQ, and the generation of a result after a port fault, is the model's reading (log 59). -/
def Obligations.TopologyEvents : Prop :=
  ∀ (s : State) (part gen seq reason : Nat) (p : PartEntry), s.ports.length = 16 → s.part? part = some p →
    let l := s.link part
    (∀ c rest, l.changes = c :: rest →
      let ended (mode : LinkMode) (result : DWord) (t : State) := (t.link part).tgen = c.gen ∧ (t.link part).mode = mode ∧ (t.link part).changes = rest
        ∧ ∀ g, s.group? c.group = some g → g.pend = [] → c.dest < 64 → ∃ g', t.group? c.group = some g'
            ∧ if (g.ops.any fun o => o.counter = 3 && o.index = c.opIndex && o.lands ≠ []) = true then g'.sNew c.dest = result
              else g'.sregs = g.sregs
      let failed (reason : Nat) : DWord := BitVec.ofNat 64 (2 ^ 63 + reason * 2 ^ 16 + c.gen.toNat)
      (c.phase = 0 → configurationOver s part = true → Answers (.reconfDrained part) s fun t => ∃ f, t.frames = s.frames ++ [f]
        ∧ (t.link part).mode = .none ∧ (t.link part).tgen = l.tgen
        ∧ (t.link part).changes = { c with phase := 1, since := s.ptpns, frame := f } :: rest)
      ∧ (c.phase ≠ 0 ∨ configurationOver s part = false → exec (.reconfDrained part) s = .next s)
      ∧ (c.phase = 1 → fieldAt c.frame 6 2 = gen →
        (∀ i, c.kind = .reconf i → Answers (.switchDone seq part gen) s fun t => ended (.pitch i) (c.gen.setWidth 64) t
          ∧ (rest = [] → ∀ x k, s.pitch? i = some x → k < 16 → p.ports.testBit k = true → x.ports.testBit k = true →
              nth s.ports k .dark = .idle → nth t.ports k .dark = .up))
        ∧ Answers (.switchNak seq part gen reason) s (ended .none (failed 1))
        ∧ (∀ y, c.kind = .slots y → Answers (.switchPlanok seq part gen) s fun t =>
            (t.link part).changes = { c with phase := 2 } :: rest ∧ (t.link part).tgen = l.tgen)
        ∧ (c.kind = .stopPlan → Answers (.switchPlanok seq part gen) s (ended .none (c.gen.setWidth 64))))
      ∧ (c.phase ≠ 1 ∨ fieldAt c.frame 6 2 ≠ gen → ∀ i ∈ [Instr.switchDone seq part gen, .switchNak seq part gen reason, .switchPlanok seq part gen],
          exec i s = .next s)
      ∧ (c.phase = 1 → c.since + 10000 ≤ s.ptpns → c.tries < 3 → Answers (.controlRetryTimeout part) s fun t => t.frames = s.frames ++ [c.frame]
          ∧ (t.link part).changes = { c with tries := c.tries + 1, since := s.ptpns } :: rest)
      ∧ (c.phase = 1 → c.since + 10000 ≤ s.ptpns → 3 ≤ c.tries → Answers (.controlRetryTimeout part) s (ended .none (failed 2)))
      ∧ (∀ y, c.kind = .slots y → c.phase = 2 → y.epoch ≤ s.ptpns → Answers (.planEpoch part) s (ended (.plan y 0 0 0) (c.gen.setWidth 64)))
      ∧ (∀ y, c.kind = .slots y → c.phase ≠ 2 ∨ s.ptpns < y.epoch → exec (.planEpoch part) s = .next s))
    ∧ ∀ y r j st, l.mode = .plan y r j st →
      let begins (r j : Nat) := y.epoch + (r * y.nslot + j) * y.slotns
      (st = 2 → l.changes = [] → begins (if j + 1 < y.nslot then r else r + 1) (if j + 1 < y.nslot then j + 1 else 0) ≤ s.ptpns →
        Answers (.slotStart part) s fun t => t.ports = s.ports
          ∧ (t.link part).mode = .plan y (if j + 1 < y.nslot then r else r + 1) (if j + 1 < y.nslot then j + 1 else 0) 0)
      ∧ (st = 0 → begins r j + y.guardns ≤ s.ptpns → anyPort s part .draining = false → Answers (.slotWindowOpen part) s fun t =>
          (t.link part).mode = .plan y r j 1
          ∧ ∀ x k, s.pitch? (nth y.pitches j 0) = some x → k < 16 → p.ports.testBit k = true → x.ports.testBit k = true →
              nth s.ports k .dark = .idle → nth t.ports k .dark = .up)
      ∧ (st = 1 → begins r j + y.slotns ≤ s.ptpns → (∀ e ∈ s.engines, e.part ≠ part) → Answers (.slotWindowClose part) s fun t =>
          (t.link part).mode = .plan y r j 2 ∧ t.sent = s.sent
          ∧ ∀ k, k < 16 → p.ports.testBit k = true → nth s.ports k .dark = .up → nth t.ports k .dark = .draining)

/-! ## Sends and collectives under way (R367 to R382) -/

/-- The events of sends and collectives (R369, R370, R374, R376 to R378): a send's bytes leave in order and its entry goes; beats that arrive
in their window are written and acknowledged, or wait in the port's buffer behind those that wait for a fault; a reduction takes a combine slot; contributions of peers join; a chunk is performed when its
result is there and the records are known to agree, and a reduction that meets a halting value ends with cause 0x12. Which window bounds an arrival
and the version 0 of a tile's bytes is the model's reading (log 121). -/
def Obligations.SendAndCollectiveEvents : Prop :=
  ∀ (s : State) (e : Engine), s.engine? e.id = some e → e.items = [] →
    (∀ src dst len left dest dctx graded grade depth waves land since,
      let kind (g h : Bool) : EngineKind := .send src dst g len left dest dctx graded grade depth waves land 0 h since
      let gone (t : State) := t.engine? e.id = none ∧ (∀ l ∈ t.locks, l.owner ≠ e.id) ∧ t.mem = s.mem ∧ t.tiles = s.tiles
      (∀ g, e.kind = kind g false → engineLive s e = true → left = 0 → Answers (.sendComplete e.id) s gone)
      ∧ (e.kind = kind false false → engineLive s e = true → left ≠ 0 → left ≤ len → len % 16 = 0 → carries s e.part dest = true →
          (sendQueue s e.part dest).head?.map (·.id) = some e.id → openWindow s e.part = none → Answers (.sendComplete e.id) s fun t => gone t
            ∧ ∃ x, t.sent = s.sent ++ (flitsOf x 0 fun _ => 0).map (fun y => ⟨e.id, e.ctx, dest, y⟩) ∧ x.send = e.id ∧ x.gen = (s.link e.part).tgen ∧ x.ctx = dctx ∧ x.va = dst + BitVec.ofNat 64 (len - left)
              ∧ x.bytes = readLoc s (tileLoc s e.dom src (len - left)) left ∧ x.srcKid = e.kid ∧ x.depth = depth
              ∧ x.grade = (if graded then some grade else none) ∧ x.land = (if land = 0xFF then none else some land)
              ∧ x.part = e.part ∧ x.srcChip = s.chipid ∧ x.srcCtx = e.ctx ∧ x.version = 0 ∧ x.window = s.window e.part
              ∧ ∃ u ∈ t.unacked, u.id = e.id ∧ u.dest = dest ∧ u.port = portTo s e.part dest ∧ (flitsOf x 0 fun _ => 0).length ≤ u.flits)
      ∧ (∀ g, e.kind = kind g false → left ≠ 0 → carries s e.part dest = false → exec (.sendComplete e.id) s = .next s)
      ∧ (∀ g h cause addr, e.kind = kind g h → exec (.sendFaultReport e.id cause addr) s = .next (
          if cause = 9 then noAck (failEngine s e 9 dst 1) e.id
          else if cause = 0x0B ∨ cause = 0x0D then noAck (failEngine s e cause addr 1) e.id else s)))
    ∧ (∀ (b : Beats) skip version, skip < 256 → let fs := flitsOf b skip version
        fs.flatMap (·.bytes) = b.bytes ∧ ∀ k x, fs[k]? = some x → x.bytes.length ≤ 256 ∧ x.va = b.va + BitVec.ofNat 64 (256 * k - skip)
          ∧ x.version = version (256 * k - skip))
    ∧ (∀ b, inWindow s b.part b.window = false → exec (.sendBeatArrival b) s = .next s)
    ∧ (∀ b, inWindow s b.part b.window = true → beatsBehind s b = true ∨ s.buffered.any (sameQueue b) = true →
        exec (.sendBeatArrival b) s = .next { s with buffered := s.buffered ++ [b] })
    ∧ (∀ b, beatsBehind s b = false → s.buffered.any (sameQueue b) = false → s.broken.contains (b.srcChip, b.send) = true →
        exec (.sendBeatArrival b) s = .next s)
    ∧ (∀ b c, s.ctx? b.ctx = some c → s.broken.contains (b.srcChip, b.send) = false → beatsBehind s b = false →
      s.buffered.any (sameQueue b) = false → inWindow s b.part b.window = true →
      (c.part ≠ b.part ∨ c.state ≠ 2 ∧ c.state ≠ 3 → exec (.sendBeatArrival b) s = .next (breakSend s b 9 b.va))
      ∧ ∀ en s1, c.part = b.part → c.state = 2 ∨ c.state = 3 → b.bytes.length = 16 → b.grade = none → b.land = none →
        b.va.toNat < 2 ^ 57 → translate s ctlCore b.ctx b.va.toNat 1 = some (en, s1) → en.graded = false → en.dirty = true → en.loc = 0 →
        en.inCarveOut b.va.toNat = false → lostRange s1 (en.frame + (b.va.toNat - en.vbase)) 16 = false →
        exec (.sendBeatArrival b) s = .next { s1 with
          mem := writeBytes s1.mem (en.frame + (b.va.toNat - en.vbase)) b.bytes, acks := s1.acks ++ [(b.srcChip, b.send)] })
    ∧ ∀ k, e.kind = .coll k →
      let becomes (k' : CollOp) (t : State) := t = s.updEngine e.id fun x => { x with kind := .coll k' }
      (s.engines = [e] → k.rec_.reduces = true → k.slot = false → k.ring = false → slotFree s e.part = true →
        Answers (.combineSlotGrant e.id) s (becomes { k with slot := true }))
      ∧ (∀ n p, engineLive s e = true → ringServed s e = true → n < collChunks k.rec_ k.n → k.outDone.contains n = false →
        (chunkResult k n = .ok none → exec (.collChunkDone e.id n) s = .next s)
        ∧ (∀ elem rank, chunkResult k n = .error (elem, rank) → Answers (.collChunkDone e.id n) s fun t => t.engine? e.id = none
            ∧ t.tiles = s.tiles ∧ t = endColl s e 0x12 (haltAddr k k.rank n elem rank))
        ∧ (chunkResult k n = .ok (some p) → k.exchanged p.missing = false → exec (.collChunkDone e.id n) s = .next s)
        ∧ (chunkResult k n = .ok (some p) → k.exchanged p.missing = true → p.chunk = n → k.rec_.dst = 0 → k.rec_.cap = 0 → k.bar = 0 →
            k.outDone.length + 1 < collChunks k.rec_ k.n → Answers (.collChunkDone e.id n) s fun t => t.mem = s.mem
              ∧ t.tiles = (writeLoc s (tileLoc s e.dom k.src (4096 * n)) (ofWire k.rec_ p.bytes)).tiles
              ∧ ∃ e' k', t.engine? e.id = some e' ∧ e'.kind = .coll k' ∧ k'.outDone = k.outDone ++ [n]))
      ∧ (engineLive s e = true → k.flushed = false → ((List.range (collChunks k.rec_ k.n)).any k.waits) = true →
        (k.rec_.timeout ≠ 0 → k.started + 1000 * k.rec_.timeout ≤ s.ptpns → Answers (.collTimeoutFlush e.id) s (becomes { k with flushed := true }))
        ∧ (k.rec_.timeout = 0 ∨ s.ptpns < k.started + 1000 * k.rec_.timeout → exec (.collTimeoutFlush e.id) s = .next s))
      ∧ (∀ rank, e.suspended = false → rank ≠ k.rank → rank < k.n →
        let lateNow := k.flushed || flushDue s e k
        (∀ bytes chip, sameColl (CollRec.read bytes) k.rec_ = false → exec (.collectivePeerFlit e.id rank (.first bytes false chip)) s =
          .next (endColl s e 9 k.record))
        ∧ (∀ bytes chip, sameColl (CollRec.read bytes) k.rec_ = true → Answers (.collectivePeerFlit e.id rank (.first bytes false chip)) s
            (becomes { k with flushed := lateNow, peers := upsert k.peers (fun p => p.1 = rank) (rank, chip) }))
        ∧ (∀ cause chip i elem, exec (.collectivePeerFlit e.id rank (.halted cause chip i elem)) s = .next (
            if cause = 9 then endColl s e 9 k.record
            else if cause = 0x12 then
              endColl s e 0x12 (if chip = s.chipid then haltAddr k rank i elem k.rank else BitVec.ofNat 64 (2 ^ 63 + chip))
            else s))
        ∧ (∀ i grade bytes, (k.peers.any fun p => p.1 = rank) = true → (k.missing i).contains rank = true →
            (k.results.any fun p => p.chunk = i) = false → bytes.length = k.rec_.elems * wireZ k.rec_.wire →
            (lateNow = false → Answers (.collectivePeerFlit e.id rank (.chunk i grade bytes)) s
              (becomes { k with contribs := k.contribs ++ [⟨rank, i, grade, bytes⟩], fixed := true }))
            ∧ (lateNow = true → (k.late.any fun x => x.rank = rank && x.chunk = i) = false →
              Answers (.collectivePeerFlit e.id rank (.chunk i grade bytes)) s (becomes { k with flushed := true, late := k.late ++ [⟨rank, i, grade, bytes⟩] }))))
      ∧ (∀ id rank grade bytes, (∀ x ∈ s.stragglers, x.id ≠ id) → exec (.lateContribution id rank grade bytes) s = .next s)
      ∧ ∀ x p q rank grade bytes, s.stragglers = [x] → x.results = [p] → p.missing = [rank] →
          lateFold x.op.rec_ p rank grade (bytes.take (x.op.rec_.elems * wireZ x.op.rec_.wire)) = .ok q →
          Answers (.lateContribution x.id rank grade bytes) s fun t => t.stragglers = []
            ∧ t.tags = (lateWrite s x.ctx (min q.shown x.op.grade) (x.op.rec_.dst + BitVec.ofNat 64 (4096 * p.chunk))
                (ofWire x.op.rec_ q.bytes)).tags

/-- The events of tensors (R337 to R345, R350): a declaration becomes ready with every chip's descriptor, and failed by a different one; a step gives
the next placement its shard; tiles arrive; the end of a conversion turns the buffer; the placement is committed two windows later; a PLD copies
its tile. That a conversion of several steps turns the buffer once (log 56) and that the own descriptor must arrive (log 58) is the
model's reading. -/
def Obligations.TensorEvents : Prop :=
  ∀ (s : State) (t : Tensor), s.tensor? t.part t.desc.tid = some t →
    let part := t.part
    let tid := t.desc.tid
    let becomes (f : Tensor → Tensor) (s' : State) := s'.tensor? part tid = some (f t)
    (∀ chip bytes, (s.part? part).isSome = true → chip ≠ s.chipid → (TensorDesc.read bytes).tid = tid → t.state = .declaring →
      (∀ x ∈ descsOf s part tid, x.key = t.key ∧ x.chip ≠ chip) → Answers (.placementDescriptorArrival part chip bytes) s fun s' =>
        (descKey bytes ≠ t.key → becomes (fun x => { x with state := .failed }) s')
        ∧ (descKey bytes = t.key → partChips s part ≤ (descsOf s part tid).length + 1 → becomes (fun x => { x with state := .ready }) s')
        ∧ (descKey bytes = t.key → (descsOf s part tid).length + 1 < partChips s part → becomes id s'
            ∧ s'.descriptors = s.descriptors ++ [⟨part, chip, tid, t.key⟩]))
    ∧ (∀ c rest e, t.pending = c :: rest → s.engine? c.engine = some e → e.suspended = false → t.state = .ready ∨ t.state = .converting →
      (∀ a axes own s1 bs, c.axes = a :: axes → engineLive s e = true → (t.pending.map (·.sequence)).Nodup → ∀ peers : List Shard,
        (∀ p ∈ peers, p.halted = none ∧ p.sequence = c.sequence ∧ p.place = c.target) → stepSource s t c = .ok (own, s1) →
        let x := stepInput s1 t c a own peers
        groupReady x peers = true → x.halt = none → x.bytes = some bs → Answers (.conversionStep part tid peers) s fun s' =>
          s'.mem = s1.mem ∧ becomes (fun y => { y with pending := { c with
            axes := axes, work := bs, place := BitVec.ofNat 32 (setAxis c.place.toNat a (axisByte c.target.toNat a)), stepsDone := axes.isEmpty } :: rest }) s')
      ∧ (∀ p cause, p.halted = some cause → p.sequence = c.sequence → Answers (.conversionStep part tid [p]) s
          (becomes fun y => { y with state := .failed, pending := [], tail := t.present }))
      ∧ (∀ p, p.halted = none → p.sequence = c.sequence → p.place ≠ c.target → Answers (.conversionStep part tid [p]) s
          (becomes fun y => { y with state := .failed, pending := [], tail := t.present }))
      ∧ (∀ tile s1, c.stepsDone = true → tile < t.desc.tiles (t.spanOf s c.target) → c.arrived.contains tile = false → engineLive s e = true →
        earlierCopies s t (t.buf + 1) = [] → c.cap = none →
        enginePut ⟨ctlCore, t.ctx, part, c.kid, 3⟩ (t.desc.tileBytes / 16) s (t.base (t.buf + 1) + BitVec.ofNat 64 (tile * t.desc.tileBytes))
          ((c.work.drop (tile * t.desc.tileBytes)).take t.desc.tileBytes) = .ok s1 →
        Answers (.conversionTileArrival part tid tile) s fun s' => s'.mem = s1.mem
          ∧ becomes (fun y => { y with pending := { c with arrived := c.arrived ++ [tile] } :: rest }) s')
      ∧ (rest = [] → c.stepsDone = true → t.desc.tiles (t.spanOf s c.target) ≤ c.arrived.length → Answers (.conversionComplete part tid) s
          (becomes fun y => { y with pending := [], state := .ready, buf := (t.buf + 1) % 2, lastSeq := BitVec.ofNat 16 c.sequence,
                                     commitAt := t.commitAt ++ [(s.window part, c.target)] }))
      ∧ (c.stepsDone = false → exec (.conversionComplete part tid) s = .next s))
    ∧ (∀ n w rest last turns, s.agenda = .placementOver part tid last :: turns → t.commitAt = (n, w) :: rest → n ≤ last →
      ∃ s', step s = .next s' ∧ becomes (fun y => { y with commitAt := rest, commits := y.commits ++ [(last, w)] }) s' ∧ s'.agenda = turns)
    ∧ (∀ n w, t.commits = [(n, w)] →
      (n + 2 ≤ s.window part → Answers (.placementCommit part tid) s (becomes fun y => { y with committed := w, commits := [] }))
      ∧ (s.window part < n + 2 → Answers (.placementCommit part tid) s (becomes id)))
    ∧ ∀ e tile place ref cap seq buf, s.engine? e.id = some e → e.part = part → e.items = [] → e.kind = .pld tid tile place ref cap false seq buf →
      engineLive s e = true →
      (pldReady t seq tile = false → (s.tileOf e.dom (refHandle ref)).isSome = true → exec (.pldCopyDone e.id) s = .next s)
      ∧ ∀ dst bs s1, pldReady t seq tile = true → s.tileOf e.dom (refHandle ref) = some dst →
        engineBytes e.core t.ctx (t.desc.tileBytes / 16) s (t.base buf + BitVec.ofNat 64 (tile * t.desc.tileBytes)) = .ok (bs, s1) →
        Answers (.pldCopyDone e.id) s fun s' => s'.engine? e.id = none ∧ (∀ l ∈ s'.locks, l.owner ≠ e.id) ∧ s'.mem = s1.mem
          ∧ s'.tiles = (writeLoc s1 (.tile dst.id (refOff ref)) bs).tiles

/-! ## The launcher, graphs and retirement (R128 to R144, R148, R165, R183, R259, R302) -/

/-- The launcher and the queue controller (R128 to R134, R137 to R140, R142, R143): a set of blocks that fits is placed in one cycle, and else
waits; a waiting kernel starves; the governor, once in each 1,024 cycles of F2 counted from its multiples (log 98), keeps, withdraws and opens
turnovers; a drained kernel completes and counts; graphs are
submitted, and nodes fire and complete; and rings interrupt and are polled. That a submission replaces a graph at the same GBASE
(logs 45, 106), that the governor opens no second turnover (log 98), and which of several bad nodes is named (log 125), is the model's choice. -/
def Obligations.LauncherEvents : Prop :=
  ∀ (s : State),
    (∀ k c, s.kernel? k.kid = some k → s.kernels = [k] → s.ctx? k.ctx = some c → c.state = 2 → c.result ≠ 4 → k.state = .placing →
      (s.blocks.any fun b => b.kid = k.kid && b.saved) = false → (∀ e ∈ s.engines, e.suspended = false) →
      (nextSet s k = none → exec (.blockPlace k.kid) s = .next s)
      ∧ ∀ cores, nextSet s k = some cores → Answers (.blockPlace k.kid) s fun t =>
          t.blocks.map (fun b => (b.kid, b.linear, b.core)) = s.blocks.map (fun b => (b.kid, b.linear, b.core))
            ++ (List.range cores.length).map (fun i => (k.kid, k.placed + i, cores.getD i 0))
          ∧ t.groups.length = s.groups.length + cores.length * k.launch.groups
          ∧ ∃ k', t.kernel? k.kid = some k' ∧ k'.placed = k.placed + cores.length
            ∧ k'.state = if k.placed + cores.length = k.launch.blocks then .resident else .placing)
    ∧ (∀ k, s.kernel? k.kid = some k →
      (k.waits s = true → k.waitedSince + 65536 ≤ (s.field 2).cycle → Answers (.launchStarvationTimeout k.kid) s fun t =>
        t.kernel? k.kid = some { k with starved := true })
      ∧ ((s.field 2).cycle < k.waitedSince + 65536 → exec (.launchStarvationTimeout k.kid) s = .next s)
      ∧ ((s.field 2).cycle / 1024 = s.governed → exec .governorEvaluation s = .next s)
      ∧ (∀ b, s.blocks = [b] → b.kid = k.kid → (s.field 2).cycle / 1024 ≠ s.governed → Answers .governorEvaluation s fun t => ∃ b', t.blocks = [b'] ∧
          (k.launch.ghi = 0 ∨ k.state ≠ .resident → b' = b)
          ∧ (k.launch.ghi ≠ 0 → k.state = .resident →
              let none_ := b.turnover.all fun p => !starvedRole s k.launch p.1
              (∀ p, none_ = true → rolePair s k.launch = some p → 2 ≤ roleCount s b p.1 → b' = { b with turnover := some p })
              ∧ (∀ p, none_ = true → rolePair s k.launch = some p → roleCount s b p.1 < 2 → b' = { b with turnover := none })
              ∧ (none_ = true → rolePair s k.launch = none → b' = { b with turnover := none })
              ∧ (∀ x y, b.turnover = some (x, y) → starvedRole s k.launch x = true → b' = b)))
      ∧ (k.state = .draining → (∀ c, s.ctx? k.ctx = some c → c.state ≠ 4) → (∀ g ∈ s.groups, g.kid ≠ k.kid) → (∀ e ∈ s.engines, e.kid ≠ k.kid) → (∀ x ∈ s.tensors, x.pending = []) →
        (∀ b ∈ s.blocks, b.kid = k.kid → b.debug = .run ∧ b.stopAsked = false) → (∀ core, waitingStores s core = []) →
        s.cluster = [] → (∀ e ∈ s.vest, e.kid ≠ k.kid) →
        let gone (t : State) := t.kernel? k.kid = none ∧ (∀ b ∈ t.blocks, b.kid ≠ k.kid) ∧ ∀ m ∈ t.marks, m.chip = 0 → m.kid ≠ k.kid
        (∀ en s1, k.node = none → k.completion ≠ 0 → translate s ctlCore k.ctx k.completion.toNat 1 = some (en, s1) → en.dirty = true → en.loc = 0 →
          Memory.wf s.mem = true → lostRange s (en.frame + (k.completion.toNat - en.vbase)) 8 = false → Answers (.kernelComplete k.kid) s fun t => gone t
            ∧ let pa := en.frame + (k.completion.toNat - en.vbase)
              readNat t.mem pa 8 = (readNat s.mem pa 8 + 1) % 2 ^ 64 ∧ ∀ a, a < pa ∨ pa + 8 ≤ a → readByte t.mem a = readByte s.mem a)
        ∧ (∀ gb n g x, k.node = some (gb, n) → s.graph? k.ctx gb = some g → g.node? n = some x → x.kid = some k.kid →
            Answers (.kernelComplete k.kid) s fun t => gone t ∧ t.mem = s.mem ∧ (t.graph? k.ctx gb).bind (·.node? n)
              = some { x with kid := none, finished := true, seen := k.seen })))
    ∧ (∀ c g, s.ctx? g.ctx = some c → c.state = 2 → s.graph? g.ctx g.gbase = some g →
      let at_ (t : State) (n : Nat) := (t.graph? g.ctx g.gbase).bind (·.node? n)
      ∀ x, g.node? x.node = some x →
        (∀ bs l, x.kind = 1 → x.st = 2 → g.state = .live → ctlParked s g.ctx (.node g.gbase x.node) = false → s.kernels.length < 1024 →
          x.addr.toNat + 128 ≤ 2 ^ 57 → firstAbsent s g.ctx x.addr.toNat 128 0 = none → readVirtual (leaveAll s) ctlCore g.ctx x.addr.toNat 128 = some bs →
          checkLaunch s ctlCore c x.addr bs = .ok l → Answers (.nodeFire g.ctx g.gbase x.node) s fun t => ∃ k, t.kernels = s.kernels ++ [k]
            ∧ k.node = some (g.gbase, x.node) ∧ k.launch = l ∧ k.depth = x.depth ∧ k.state = .placing ∧ (∀ z ∈ s.kernels, z.kid ≠ k.kid)
            ∧ ∃ y, at_ t x.node = some y ∧ y.st = 3 ∧ y.kid = some k.kid ∧ y.inputs = l.inputs ∧ y.finished = false)
        ∧ (x.st ≠ 2 → x.st ≠ 3 → exec (.nodeFire g.ctx g.gbase x.node) s = .next s)
        ∧ (∀ m y, g.state = .live → x.kind = 5 → x.st = 3 → x.finished = true → x.failed = false → x.first = true → x.succ = [m] → m ≠ x.node → g.node? m = some y →
            Answers (.nodeComplete g.ctx g.gbase x.node) s fun t => at_ t x.node = some { x with st := 5, first := false, refire := none }
              ∧ (y.st = 1 → at_ t m = some { y with pend := y.pend - 1, st := if y.pend ≤ 1 then 2 else 1 })
              ∧ (y.st ≠ 1 → y.kind = 4 → y.held = true → at_ t m = some { y with owed := y.owed + 1 })
              ∧ (y.st ≠ 1 → y.kind ≠ 4 ∨ y.held = false → at_ t m = some y))
        ∧ (x.kind ≠ 2 → x.kind ≠ 3 → x.finished = false → exec (.nodeComplete g.ctx g.gbase x.node) s = .next s))
    ∧ (∀ c item bs, s.ctx? c.id = some c → c.state = 2 → c.graphItem = some item → ctlParked s c.id .submit = false →
      (s.graphs.filter fun g => g.ctx = c.id && g.isLive).length < 16 →
      let gb := BitVec.ofNat 64 (fieldAt item 0 8)
      let n := fieldAt item 8 2
      gb.toNat % 64 = 0 → 1 ≤ n → n ≤ 4096 → fieldAt item 12 4 = 0 → gb.toNat + 64 * n ≤ 2 ^ 57 → firstAbsent s c.id gb.toNat (64 * n) 0 = none →
      let drop (a : DWord) := exec (.graphSubmit c.id) s = .next (engineFault (s.updCtx c.id fun x => { x with graphItem := none }) c.id 9 a)
      (readVirtual s ctlCore c.id gb.toNat (64 * n) = none → drop ((firstCarved s c.id gb.toNat (64 * n)).getD gb))
      ∧ (readVirtual s ctlCore c.id gb.toNat (64 * n) = some bs →
      let records := (List.range n).map fun i => (bs.drop (64 * i)).take 64
      ((∀ i, i < n → nodeBad records i = false) → Answers (.graphSubmit c.id) s fun t => (∃ x, t.ctx? c.id = some x ∧ x.graphItem = none)
        ∧ t.graph? c.id gb = some ⟨c.id, gb, n, fieldAt item 10 2, .live, records.mapIdx NodeInfo.start⟩)
      ∧ ∀ i, (List.range n).find? (nodeBad records) = some i → drop (nodeAddr gb i)))
    ∧ (∀ ctx desc t d, (ringState s ctx desc).firstAt = some t → ringAt s desc.toNat = some d →
      (d.tmax ≠ 0 → t + d.tmax ≤ s.ptpns → Answers (.ringTmaxExpiry ctx desc) s fun s' =>
        s'.msix = s.msix ++ [((s.ctx? ctx).elim 0 (·.vf), d.vec)] ∧ (ringState s' ctx desc).since = 0 ∧ (ringState s' ctx desc).firstAt = none)
      ∧ (d.tmax = 0 ∨ s.ptpns < t + d.tmax → exec (.ringTmaxExpiry ctx desc) s = .next s))
    ∧ ∀ ctx desc w g, ringWaiters s ctx desc = [w] → signalNodes s ctx = [] → parkedAt s w = some (g, .ring desc) →
      (awaited s w g (.ring desc) = true → Answers (.ringHeadPoll ctx desc) s (Retries w s))
      ∧ (awaited s w g (.ring desc) = false → exec (.ringHeadPoll ctx desc) s = .next s)

/-- The end of groups and what waits for it (R13, R148, R162, R165, R183, R256, R259, R302): a group in `tail` frees its slot, keeping a tracker
entry for what is outstanding, once one is free and its quarter's turn has come; fragments that all wait at a REGANG fuse; a group that reaches no stake is stopped for a full save with a record; a combining
line drains; and errors of the memories are counted by class (log 120), or stop the context. -/
def Obligations.RetirementEvents : Prop :=
  ∀ (s : State) (g : Group), s.group? g.at_ = some g → (s.groups.map (·.at_)).Nodup →
    (g.state = .tail → g.turnover = none →
      (outstanding s g = false → Answers (.groupRetire g.at_) s fun t => (∀ y ∈ t.groups, y.at_ ≠ g.at_)
        ∧ ∀ k, s.kernel? g.kid = some k → k.state = .resident → (∀ y ∈ s.groups, y.kid = g.kid → y.at_ = g.at_ ∨ y.state = .tracked) →
            ∃ k', t.kernel? g.kid = some k' ∧ k'.state = .draining)
      ∧ (outstanding s g = true → trackerTurn s g = true → Answers (.groupRetire g.at_) s fun t => (∀ y ∈ t.groups, y.at_ ≠ g.at_)
          ∧ ∃ y ∈ t.groups, y.state = .tracked ∧ y.kid = g.kid ∧ y.block = g.block ∧ y.gid = g.gid)
      ∧ (outstanding s g = true → trackerTurn s g = false → exec (.groupRetire g.at_) s = .next s)
      ∧ (256 ≤ trackerUse s g.at_.core → trackerTurn s g = false)
      ∧ (trackerUse s g.at_.core < 256 → (∀ y ∈ s.groups, y.at_.core = g.at_.core → y.state = .tail → y.at_.quarter = g.at_.quarter) →
          trackerTurn s g = true))
    ∧ (g.state ≠ .tail → exec (.groupRetire g.at_) s = .next s)
    ∧ (g.state = .tracked → outstanding s g = false → Answers (.trackerEntryFreed g.at_) s fun t => ∀ y ∈ t.groups, y.at_ ≠ g.at_)
    ∧ (g.state ≠ .tracked ∨ outstanding s g = true → exec (.trackerEntryFreed g.at_) s = .next s)
    ∧ (∀ id, exec (.tileScrubDone id) s = .next { s with tiles := s.tiles.filter fun t => !(t.id = id && t.state == .scrubbing) })
    ∧ (blockHalted s g = true → exec (.regangFuse g.at_) s = .next s)
    ∧ (∀ a b, g.frags = [a, b] → g.deferred = [] → a.index < b.index → b.index < 8 → a.park = some .regang → b.park = some .regang →
      blockHalted s g = false →
      Answers (.regangFuse g.at_) s fun t => ∃ g', t.group? g.at_ = some g' ∧ SameRegisters g g'
        ∧ (a.pc = b.pc → a.rstack = b.rstack → g'.frags.map (fun f => (f.index, f.slices, f.em, f.pc, f.rstack, f.park))
            = [(a.index, a.slices ||| b.slices, a.em ||| b.em, nextSlot a.pc false, a.rstack, none)])
        ∧ (a.pc ≠ b.pc ∨ a.rstack ≠ b.rstack → g'.frags.map (fun f => (f.index, f.slices, f.em, f.pc, f.park))
            = [(a.index, a.slices, a.em, nextSlot a.pc false, none), (b.index, b.slices, b.em, nextSlot b.pc false, none)]))
    ∧ (∀ t0 r c, g.preemptAt = some t0 → s.ctx? g.ctx = some c → c.record = some r → preemptable g g.ctx = true → (g.stake.valid && !g.h) = false →
      g.stopped = false → blockHalted s g = false →
      (t0 + r.stakemax ≤ s.cycleOf g.at_.core → c.fqwait = [] → (c.fqtail - c.fqhead).toNat < r.fqsize → Answers (.stakemaxFullSave g.at_) s fun t =>
        (∃ g', t.group? g.at_ = some g' ∧ SameRegisters g g' ∧ g'.stopped = true) ∧ (∃ c', t.ctx? g.ctx = some c' ∧ c'.fqtail = c.fqtail + 1)
          ∧ (Memory.wf s.mem = true → lostRange s (r.fqbase + 32 * (c.fqtail.toNat % r.fqsize)) 32 = false → readByte t.mem (r.fqbase + 32 * (c.fqtail.toNat % r.fqsize) + 16) = 0x16))
      ∧ (s.cycleOf g.at_.core < t0 + r.stakemax → exec (.stakemaxFullSave g.at_) s = .next s))
    ∧ (∀ core n l pa, (s.wcb.filter fun l => l.core = core)[n]? = some l → l.loc = .device pa → l.out = none → (l.bytes.map (·.1)).Nodup →
      Memory.wf s.mem = true → (∀ x ∈ l.bytes, lostRange s (pa + x.1) 1 = false) → waitingStores s core = [] →
      (l.since + 64 ≤ s.cycleOf core → Answers (.wcLineDrain core n) s fun t => t.wcb = s.wcb.erase l
        ∧ (∀ x ∈ l.bytes, readByte t.mem (pa + x.1) = x.2) ∧ ∀ a, (∀ x ∈ l.bytes, pa + x.1 ≠ a) → readByte t.mem a = readByte s.mem a)
      ∧ (s.cycleOf core < l.since + 64 → exec (.wcLineDrain core n) s = .next s))
    ∧ ∀ core dom handle kind, kind < 32 →
      let unit := nth [1, 2, 3, 0, 4, 5, 6, 7] (kind / 4) 0
      let counted := s.count .eccUncorrectable unit 0 1
      (kind % 4 = 0 → exec (.scratchpadEccError core dom handle kind) s = .next (s.count .eccCorrected unit 0 1))
      ∧ (kind % 4 = 1 ∨ kind % 4 ≠ 0 ∧ 3 ≤ kind / 4 → exec (.scratchpadEccError core dom handle kind) s = .next counted)
      ∧ ∀ t, kind % 4 ≠ 0 → kind % 4 ≠ 1 → kind / 4 < 3 → s.tileOf dom handle = some t → exec (.scratchpadEccError core dom handle kind) s =
          .next (stopContext (engineFault counted t.ctx 9 (BitVec.ofNat 64 handle)) t.ctx)

/-! ## Observation and other agents (R293 to R295, R303, R410 to R415, R433) -/

/-- The lantern, the trace, walks and other chips (R293 to R295, R303, R410 to R415, R433): a sample tags the next slot of the chosen group, or records that its
slot is being fetched or that it is gone, once in each period of the core's field (whose start is log 119's choice); the record of a slot whose
last effect has landed enters its ring or is counted as dropped; a trace goes on after a drop with LOSS, in a later cycle (log 117), and with the
SYNC that follows it while the block has fragments left; an access of another chip reads, writes or updates local memory whose field is up, a
write no later than its window allows. That PAGE_WALK_DONE fills the TLBs and nothing else, and does nothing where the walk finds no page, is the
model's choice: the access that misses records the fault and parks when it issues (log 70). -/
def Obligations.ObservationEvents : Prop :=
  ∀ (s : State),
    (∀ ctx core quarter pick c x xs, s.ctx? ctx = some c → lanternSlots s ctx core quarter = x :: xs →
      let period := s.cycleOf core / 2 ^ c.lperiod
      let done := c.lsampled.any (fun y => y.1 = (core, quarter) && y.2 = period)
      (c.len = false ∨ done = true → exec (.lanternSample ctx core quarter pick) s = .next s)
      ∧ (c.len = true → done = false →
        let g := nth (x :: xs) (pick % (xs.length + 1)) x
        let now := s.cycleOf g.at_.core
        let s1 := s.updCtx ctx fun y => { y with lsampled := upsert y.lsampled (fun z => z.1 = (core, quarter)) ((core, quarter), period) }
        (g.state = .tail → exec (.lanternSample ctx core quarter pick) s =
          .next (lanternPut s1 g (lanternBytes s1 g ⟨now, some Reach.nowhere, g.endPc, 2, 0, 0, 0, 0⟩ noLatency)))
        ∧ ∀ f, g.state ≠ .tail → nextFragment g = some f →
          (hasBundle s1 (fragOf g f) g.ctx f = true → exec (.lanternSample ctx core quarter pick) s =
            .next (s1.updGroup g.at_ fun y => y.updFrag f.index fun z => z.tagNext now false))
          ∧ (hasBundle s1 (fragOf g f) g.ctx f = false → exec (.lanternSample ctx core quarter pick) s = .next (lanternPut s1 g
              (lanternBytes s1 g ⟨now, some Reach.nowhere, BitVec.ofNat 64 (f.pc.toNat / 16 * 16), 1, 0, g.emAt now f, 0, 0⟩ noLatency)))))
    ∧ (∀ ctx core quarter pick c, s.ctx? ctx = some c → c.len = true → lanternSlots s ctx core quarter = [] →
      Answers (.lanternSample ctx core quarter pick) s fun t => t.mem = s.mem ∧ t.groups = s.groups)
    ∧ (∀ who m g t g1 c, s.group? who.group = some g → s.ctx? g.ctx = some c →
      takeTag g (s.cycleOf who.core) who.index (latencyFull m) (fun t => latencyFull m || t.over s g) = some (t, g1) →
      let n := 2 ^ (c.llog2n + 6)
      let bytes := lanternBytes s g (tagEntry t m (latencyFull m)) m
      let i : Instr := if latencyFull m then .lanternLate who m else .lanternRecord who m
      (n ≤ (c.ltail - c.lhead).toNat → Answers i s fun t' => t'.mem = s.mem ∧ ∃ c', t'.ctx? g.ctx = some c'
        ∧ c' = { c with ldrop := min (c.ldrop + 1) 0xFFFFFFFF })
      ∧ ∀ s2, (c.ltail - c.lhead).toNat < n → writeVirtual (s.setGroup g1) g.at_.core g.ctx (c.lbase.toNat + 64 * (c.ltail.toNat % n)) bytes = some s2 →
          Answers i s fun t' => t'.mem = s2.mem ∧ ∃ c', t'.ctx? g.ctx = some c' ∧ c' = { c with ltail := c.ltail + 1 })
    ∧ (∀ who m, exec (if latencyFull m then .lanternRecord who m else .lanternLate who m) s = .next s)
    ∧ (∀ ctx core c, s.ctx? ctx = some c → traceCore s c.trace = some core → c.trace.en = true →
      let r := c.trace
      let now := s.cycleOf core
      let loss := leBytes 0x70 1 ++ leBytes (min r.dropped 0xFFFFFFFF) 4
      (r.dropping = false ∨ now ≤ r.lastCycle ∨ 2 ^ r.log2b < r.tail - r.head + 1024 → exec (.traceResume ctx) s = .next s)
      ∧ (r.dropping = true → r.lastCycle < now → r.tail - r.head + 1024 ≤ 2 ^ r.log2b →
          (writeRing s core ctx r.base.toNat (2 ^ r.log2b) r.tail loss = none → exec (.traceResume ctx) s = .next s)
          ∧ ∀ s2, r.startListing s = [] → writeRing s core ctx r.base.toNat (2 ^ r.log2b) r.tail loss = some s2 →
            Answers (.traceResume ctx) s fun t => t.mem = s2.mem ∧ ∃ c', t.ctx? ctx = some c' ∧ c'.trace.dropping = false ∧ c'.trace.dropped = 0
              ∧ c'.trace.tail = r.tail + 5 ∧ c'.trace.lastCycle = now)
      ∧ (r.dropping = true → r.lastCycle < now → r.tail - r.head + 1024 ≤ 2 ^ r.log2b → r.startListing s ≠ [] →
          ∀ s2 s3, writeRing s core ctx r.base.toNat (2 ^ r.log2b) r.tail loss = some s2 →
            let s1 := (s2.updTrace ctx fun x => { x with
                tail := x.tail + 5, lastCycle := now, lastCore := core, started := true, packets := x.packets + 1 }).updTrace ctx fun x =>
              { x with dropping := false, dropped := 0 }
            let sync := syncPacket s1 r.kid r.blk core now (r.startListing s)
            r.tail + 5 - r.head + sync.length ≤ 2 ^ r.log2b → writeRing s1 core ctx r.base.toNat (2 ^ r.log2b) (r.tail + 5) sync = some s3 →
            Answers (.traceResume ctx) s fun t => t.mem = s3.mem ∧ ∃ c', t.ctx? ctx = some c' ∧ c'.trace.dropping = false ∧ c'.trace.dropped = 0
              ∧ c'.trace.tail = r.tail + 5 + sync.length ∧ c'.trace.lastCycle = now ∧ c'.trace.packets = 0))
    ∧ (∀ ctx c, s.ctx? ctx = some c → c.trace.en = false → exec (.traceResume ctx) s = .next s)
    ∧ (∀ core ctx va kind, core < 96 → va.toNat < 2 ^ 57 →
      (∀ en s1, translate s core ctx va.toNat kind = some (en, s1) → exec (.pageWalkDone core ctx va kind) s = .next s1)
      ∧ (translate s core ctx va.toNat kind = none → exec (.pageWalkDone core ctx va kind) s = .next s))
    ∧ (∀ part chip pa w, s.start = .ready → (s.part? part).isSome = true →
      (∀ n, inPart s part pa n = true → lostRange s pa n = false → exec (.remoteAccessArrival ⟨part, chip, pa, .load n, w⟩) s =
        .next { s with replies := s.replies ++ [(chip, leNat (readBytes s.mem pa n))] })
      ∧ (∀ bs, inPart s part pa bs.length = true → lostRange s pa bs.length = false → s.window part < w + 2 →
        exec (.remoteAccessArrival ⟨part, chip, pa, .store bs, w⟩) s = .next { s with mem := writeBytes s.mem pa bs })
      ∧ (∀ bs, w + 2 ≤ s.window part → exec (.remoteAccessArrival ⟨part, chip, pa, .store bs, w⟩) s = .next s)
      ∧ (∀ x y, inPart s part pa 4 = true → lostRange s pa 4 = false → s.window part < w + 2 →
        let old := leNat (readBytes s.mem pa 4)
        exec (.remoteAccessArrival ⟨part, chip, pa, .atomic 0 4 x y, w⟩) s =
          .next { s with mem := writeBytes s.mem pa (leBytes (BitVec.ofNat 32 old + x.setWidth 32).toNat 4), replies := s.replies ++ [(chip, old)] }))
end

