-- ==== Sys2Proof/Laws/Memory.lean ====
section
/-! SUPPORT. Memory: a read after a write, and the canonical form that every write keeps (log 1). -/

namespace Sys2Proof.Machine

theorem readByte_writeByte_same (m : Memory) (a : Nat) (v : Byte) (h : Memory.wf m = true) : readByte (writeByte m a v) a = v := by
  induction m with
  | nil =>
    simp only [writeByte]
    split
    · rename_i hv; simp [readByte, hv]
    · simp [readByte]
  | cons c t ih =>
    obtain ⟨k, w⟩ := c
    simp only [Memory.wf, Bool.and_eq_true, List.all_eq_true, decide_eq_true_eq] at h
    have low : ∀ b, b ≤ k → readByte t b = 0 := by
      intro b hb
      cases t with
      | nil => rfl
      | cons c t' =>
        obtain ⟨k', w'⟩ := c
        have := h.1.2 (k', w') (by simp)
        simp only [readByte]
        rw [if_neg (by omega), if_pos (by omega)]
    simp only [writeByte]
    split
    · split
      · rename_i hv; simp only [readByte]; rw [if_neg (by omega), if_pos (by omega), hv]
      · simp [readByte]
    · split
      · rename_i hk
        split
        · rename_i hv; rw [low a (by omega), hv]
        · simp [readByte, hk]
      · simp only [readByte]; rw [if_neg (by omega), if_neg (by omega)]; exact ih h.2

theorem readByte_writeByte_other (m : Memory) (a b : Nat) (v : Byte) (hm : Memory.wf m = true) (h : b ≠ a) :
    readByte (writeByte m a v) b = readByte m b := by
  induction m with
  | nil =>
    by_cases hv : v = 0
    · simp [writeByte, hv]
    · simp only [writeByte, hv, if_false, readByte]
      rw [if_neg (by omega)]; split <;> rfl
  | cons c t ih =>
    obtain ⟨k, w⟩ := c
    simp only [Memory.wf, Bool.and_eq_true, List.all_eq_true, decide_eq_true_eq] at hm
    simp only [writeByte]
    split
    · split
      · rfl
      · rename_i hk _
        simp only [readByte]
        rw [if_neg (by omega)]
        split
        · rw [if_neg (by omega), if_pos (by omega)]
        · rfl
    · split
      · rename_i hk
        split
        · simp only [readByte]
          rw [if_neg (by omega)]
          split
          · cases t with
            | nil => rfl
            | cons c t' =>
              obtain ⟨k', w'⟩ := c
              have := hm.1.2 (k', w') (by simp)
              simp only [readByte]
              rw [if_neg (by omega), if_pos (by omega)]
          · rfl
        · simp only [readByte, if_neg (show ¬k = b by omega)]
      · simp only [readByte]; rw [ih hm.2]

/-- Keys after a write are the key written and keys that were there. -/
theorem mem_writeByte (m : Memory) (a : Nat) (v : Byte) (c : Nat × Byte) (h : c ∈ writeByte m a v) : c.1 = a ∨ c ∈ m := by
  induction m with
  | nil =>
    simp only [writeByte] at h
    split at h
    · simp at h
    · exact .inl (by rw [List.mem_singleton.1 h])
  | cons d t ih =>
    obtain ⟨k, w⟩ := d
    simp only [writeByte] at h
    split at h
    · split at h
      · exact .inr h
      · rcases List.mem_cons.1 h with rfl | h
        · exact .inl rfl
        · exact .inr h
    · split at h
      · split at h
        · exact .inr (List.mem_cons_of_mem _ h)
        · rcases List.mem_cons.1 h with rfl | h
          · rename_i hk _; exact .inl hk.symm
          · exact .inr (List.mem_cons_of_mem _ h)
      · rcases List.mem_cons.1 h with rfl | h
        · exact .inr (by simp)
        · rcases ih h with h | h
          · exact .inl h
          · exact .inr (List.mem_cons_of_mem _ h)

theorem writeByte_wf (m : Memory) (a : Nat) (v : Byte) (h : Memory.wf m = true) : Memory.wf (writeByte m a v) = true := by
  induction m with
  | nil =>
    simp only [writeByte]
    split
    · rfl
    · rename_i hv; simp [Memory.wf]; simpa using hv
  | cons d t ih =>
    obtain ⟨k, w⟩ := d
    have h' := h
    simp only [Memory.wf, Bool.and_eq_true, List.all_eq_true, decide_eq_true_eq] at h'
    simp only [writeByte]
    split
    · split
      · exact h
      · rename_i hk hv
        simp only [Memory.wf, Bool.and_eq_true, List.all_eq_true, decide_eq_true_eq]
        refine ⟨⟨by simpa using hv, ?_⟩, h'⟩
        intro c hc
        rcases List.mem_cons.1 hc with rfl | hc
        · exact hk
        · have := h'.1.2 c hc; omega
    · split
      · split
        · exact h'.2
        · rename_i _ hv
          simp only [Memory.wf, Bool.and_eq_true, List.all_eq_true, decide_eq_true_eq]
          exact ⟨⟨by simpa using hv, h'.1.2⟩, h'.2⟩
      · simp only [Memory.wf, Bool.and_eq_true, List.all_eq_true, decide_eq_true_eq]
        refine ⟨⟨h'.1.1, ?_⟩, ih h'.2⟩
        intro c hc
        rcases mem_writeByte t a v c hc with hc | hc
        · omega
        · exact h'.1.2 c hc

theorem writeBytes_wf (m : Memory) (a : Nat) (bs : List Byte) (h : Memory.wf m = true) : Memory.wf (writeBytes m a bs) = true := by
  induction bs generalizing m a with
  | nil => exact h
  | cons b bs ih => exact ih _ _ (writeByte_wf m a b h)

theorem writeNat_wf (m : Memory) (a n x : Nat) (h : Memory.wf m = true) : Memory.wf (writeNat m a n x) = true :=
  writeBytes_wf m a _ h

/-- A part of a canonical memory is canonical. -/
theorem filter_wf (m : Memory) (p : Nat × Byte → Bool) (h : Memory.wf m = true) : Memory.wf (List.filter p m : Memory) = true := by
  induction m with
  | nil => rfl
  | cons d t ih =>
    obtain ⟨k, w⟩ := d
    simp only [Memory.wf, Bool.and_eq_true, List.all_eq_true, decide_eq_true_eq] at h
    rw [List.filter_cons]
    split
    · simp only [Memory.wf, Bool.and_eq_true, List.all_eq_true, decide_eq_true_eq]
      exact ⟨⟨h.1.1, fun c hc => h.1.2 c (List.mem_filter.1 hc).1⟩, ih h.2⟩
    · exact ih h.2

theorem cellsOf_wf (m : Memory) (lo n : Nat) (h : Memory.wf m = true) : Memory.wf (cellsOf m lo n) = true := filter_wf m _ h

/-- What a write of bytes leaves at an address outside them. -/
theorem readByte_writeBytes_other (m : Memory) (a x : Nat) (bs : List Byte) (hm : Memory.wf m = true) (h : x < a ∨ a + bs.length ≤ x) :
    readByte (writeBytes m a bs) x = readByte m x := by
  induction bs generalizing m a with
  | nil => rfl
  | cons b bs ih =>
    simp only [List.length_cons] at h
    rw [writeBytes, ih _ _ (writeByte_wf m a b hm) (by omega), readByte_writeByte_other m a x b hm (by omega)]

/-- What a write of bytes leaves at each of them. -/
theorem readByte_writeBytes_same (m : Memory) (a k : Nat) (bs : List Byte) (hm : Memory.wf m = true) (h : k < bs.length) :
    readByte (writeBytes m a bs) (a + k) = bs.getD k 0 := by
  induction bs generalizing m a k with
  | nil => simp at h
  | cons b bs ih =>
    cases k with
    | zero =>
      rw [writeBytes, readByte_writeBytes_other _ _ _ _ (writeByte_wf m a b hm) (by omega)]
      simpa using readByte_writeByte_same m a b hm
    | succ k =>
      have := ih (writeByte m a b) (a + 1) k (writeByte_wf m a b hm) (by simpa using h)
      rw [writeBytes, show a + (k + 1) = a + 1 + k by omega, this]
      simp

/-- Every byte of a read of several. -/
theorem readBytes_length (m : Memory) (a n : Nat) : (readBytes m a n).length = n := by
  induction n generalizing a with
  | zero => rfl
  | succ n ih => simp [readBytes, ih]

theorem leBytes_length (x n : Nat) : (leBytes x n).length = n := by
  induction n generalizing x with
  | zero => rfl
  | succ n ih => simp [leBytes, ih]

theorem leNat_leBytes (x n : Nat) : leNat (leBytes x n) = x % 256 ^ n := by
  induction n generalizing x with
  | zero => simp [leBytes, leNat, Nat.mod_one]
  | succ n ih =>
    simp only [leBytes, leNat, ih, BitVec.toNat_ofNat]
    rw [show (2 : Nat) ^ 8 = 256 by norm_num, pow_succ', Nat.mod_mul]

end Sys2Proof.Machine
end

