-- ==== Sys2Proof/Laws/State.lean ====
section
/-! SUPPORT. What each update of the state leaves as it was, one lemma for each field; and what is found after an update. -/

namespace Sys2Proof.Machine

namespace State

@[simp] theorem setField_start (s : State) (f : Nat) (x : Field) : (s.setField f x).start = s.start := rfl
@[simp] theorem setField_failCount (s : State) (f : Nat) (x : Field) : (s.setField f x).failCount = s.failCount := rfl
@[simp] theorem setField_startStep (s : State) (f : Nat) (x : Field) : (s.setField f x).startStep = s.startStep := rfl
@[simp] theorem setField_starts (s : State) (f : Nat) (x : Field) : (s.setField f x).starts = s.starts := rfl
@[simp] theorem setField_paramSet (s : State) (f : Nat) (x : Field) : (s.setField f x).paramSet = s.paramSet := rfl
@[simp] theorem setField_paramOk (s : State) (f : Nat) (x : Field) : (s.setField f x).paramOk = s.paramOk := rfl
@[simp] theorem setField_fieldsUp (s : State) (f : Nat) (x : Field) : (s.setField f x).fieldsUp = s.fieldsUp := rfl
@[simp] theorem setField_railAt (s : State) (f : Nat) (x : Field) : (s.setField f x).railAt = s.railAt := rfl
@[simp] theorem setField_image (s : State) (f : Nat) (x : Field) : (s.setField f x).image = s.image := rfl
@[simp] theorem setField_ptpns (s : State) (f : Nat) (x : Field) : (s.setField f x).ptpns = s.ptpns := rfl
@[simp] theorem setField_ptpSub (s : State) (f : Nat) (x : Field) : (s.setField f x).ptpSub = s.ptpSub := rfl
@[simp] theorem setField_captures (s : State) (f : Nat) (x : Field) : (s.setField f x).captures = s.captures := rfl
@[simp] theorem setField_missed (s : State) (f : Nat) (x : Field) : (s.setField f x).missed = s.missed := rfl
@[simp] theorem setField_log (s : State) (f : Nat) (x : Field) : (s.setField f x).log = s.log := rfl
@[simp] theorem setField_logFlushed (s : State) (f : Nat) (x : Field) : (s.setField f x).logFlushed = s.logFlushed := rfl
@[simp] theorem setField_flushedAt (s : State) (f : Nat) (x : Field) : (s.setField f x).flushedAt = s.flushedAt := rfl
@[simp] theorem setField_portSampled (s : State) (f : Nat) (x : Field) : (s.setField f x).portSampled = s.portSampled := rfl
@[simp] theorem setField_mgmtReply (s : State) (f : Nat) (x : Field) : (s.setField f x).mgmtReply = s.mgmtReply := rfl
@[simp] theorem setField_keyNumber (s : State) (f : Nat) (x : Field) : (s.setField f x).keyNumber = s.keyNumber := rfl
@[simp] theorem setField_parts (s : State) (f : Nat) (x : Field) : (s.setField f x).parts = s.parts := rfl
@[simp] theorem setField_partBytes (s : State) (f : Nat) (x : Field) : (s.setField f x).partBytes = s.partBytes := rfl
@[simp] theorem setField_stagedParts (s : State) (f : Nat) (x : Field) : (s.setField f x).stagedParts = s.stagedParts := rfl
@[simp] theorem setField_slots (s : State) (f : Nat) (x : Field) : (s.setField f x).slots = s.slots := rfl
@[simp] theorem setField_stagedSlots (s : State) (f : Nat) (x : Field) : (s.setField f x).stagedSlots = s.stagedSlots := rfl
@[simp] theorem setField_ptres (s : State) (f : Nat) (x : Field) : (s.setField f x).ptres = s.ptres := rfl
@[simp] theorem setField_vfres (s : State) (f : Nat) (x : Field) : (s.setField f x).vfres = s.vfres := rfl
@[simp] theorem setField_pitches (s : State) (f : Nat) (x : Field) : (s.setField f x).pitches = s.pitches := rfl
@[simp] theorem setField_ports (s : State) (f : Nat) (x : Field) : (s.setField f x).ports = s.ports := rfl
@[simp] theorem setField_links (s : State) (f : Nat) (x : Field) : (s.setField f x).links = s.links := rfl
@[simp] theorem setField_frames (s : State) (f : Nat) (x : Field) : (s.setField f x).frames = s.frames := rfl
@[simp] theorem setField_frameSeq (s : State) (f : Nat) (x : Field) : (s.setField f x).frameSeq = s.frameSeq := rfl
@[simp] theorem setField_sent (s : State) (f : Nat) (x : Field) : (s.setField f x).sent = s.sent := rfl
@[simp] theorem setField_unacked (s : State) (f : Nat) (x : Field) : (s.setField f x).unacked = s.unacked := rfl
@[simp] theorem setField_acks (s : State) (f : Nat) (x : Field) : (s.setField f x).acks = s.acks := rfl
@[simp] theorem setField_broken (s : State) (f : Nat) (x : Field) : (s.setField f x).broken = s.broken := rfl
@[simp] theorem setField_buffered (s : State) (f : Nat) (x : Field) : (s.setField f x).buffered = s.buffered := rfl
@[simp] theorem setField_sendReports (s : State) (f : Nat) (x : Field) : (s.setField f x).sendReports = s.sendReports := rfl
@[simp] theorem setField_replies (s : State) (f : Nat) (x : Field) : (s.setField f x).replies = s.replies := rfl
@[simp] theorem setField_chipid (s : State) (f : Nat) (x : Field) : (s.setField f x).chipid = s.chipid := rfl
@[simp] theorem setField_mesh (s : State) (f : Nat) (x : Field) : (s.setField f x).mesh = s.mesh := rfl
@[simp] theorem setField_contexts (s : State) (f : Nat) (x : Field) : (s.setField f x).contexts = s.contexts := rfl
@[simp] theorem setField_queues (s : State) (f : Nat) (x : Field) : (s.setField f x).queues = s.queues := rfl
@[simp] theorem setField_kernels (s : State) (f : Nat) (x : Field) : (s.setField f x).kernels = s.kernels := rfl
@[simp] theorem setField_graphs (s : State) (f : Nat) (x : Field) : (s.setField f x).graphs = s.graphs := rfl
@[simp] theorem setField_blocks (s : State) (f : Nat) (x : Field) : (s.setField f x).blocks = s.blocks := rfl
@[simp] theorem setField_groups (s : State) (f : Nat) (x : Field) : (s.setField f x).groups = s.groups := rfl
@[simp] theorem setField_phases (s : State) (f : Nat) (x : Field) : (s.setField f x).phases = s.phases := rfl
@[simp] theorem setField_phaseReports (s : State) (f : Nat) (x : Field) : (s.setField f x).phaseReports = s.phaseReports := rfl
@[simp] theorem setField_nextOrder (s : State) (f : Nat) (x : Field) : (s.setField f x).nextOrder = s.nextOrder := rfl
@[simp] theorem setField_governed (s : State) (f : Nat) (x : Field) : (s.setField f x).governed = s.governed := rfl
@[simp] theorem setField_tiles (s : State) (f : Nat) (x : Field) : (s.setField f x).tiles = s.tiles := rfl
@[simp] theorem setField_gens (s : State) (f : Nat) (x : Field) : (s.setField f x).gens = s.gens := rfl
@[simp] theorem setField_locks (s : State) (f : Nat) (x : Field) : (s.setField f x).locks = s.locks := rfl
@[simp] theorem setField_engines (s : State) (f : Nat) (x : Field) : (s.setField f x).engines = s.engines := rfl
@[simp] theorem setField_nextEngine (s : State) (f : Nat) (x : Field) : (s.setField f x).nextEngine = s.nextEngine := rfl
@[simp] theorem setField_stragglers (s : State) (f : Nat) (x : Field) : (s.setField f x).stragglers = s.stragglers := rfl
@[simp] theorem setField_loopBufs (s : State) (f : Nat) (x : Field) : (s.setField f x).loopBufs = s.loopBufs := rfl
@[simp] theorem setField_served (s : State) (f : Nat) (x : Field) : (s.setField f x).served = s.served := rfl
@[simp] theorem setField_mem (s : State) (f : Nat) (x : Field) : (s.setField f x).mem = s.mem := rfl
@[simp] theorem setField_hostMem (s : State) (f : Nat) (x : Field) : (s.setField f x).hostMem = s.hostMem := rfl
@[simp] theorem setField_remoteMem (s : State) (f : Nat) (x : Field) : (s.setField f x).remoteMem = s.remoteMem := rfl
@[simp] theorem setField_tags (s : State) (f : Nat) (x : Field) : (s.setField f x).tags = s.tags := rfl
@[simp] theorem setField_marks (s : State) (f : Nat) (x : Field) : (s.setField f x).marks = s.marks := rfl
@[simp] theorem setField_tlb (s : State) (f : Nat) (x : Field) : (s.setField f x).tlb = s.tlb := rfl
@[simp] theorem setField_l1 (s : State) (f : Nat) (x : Field) : (s.setField f x).l1 = s.l1 := rfl
@[simp] theorem setField_wcb (s : State) (f : Nat) (x : Field) : (s.setField f x).wcb = s.wcb := rfl
@[simp] theorem setField_cluster (s : State) (f : Nat) (x : Field) : (s.setField f x).cluster = s.cluster := rfl
@[simp] theorem setField_tracker (s : State) (f : Nat) (x : Field) : (s.setField f x).tracker = s.tracker := rfl
@[simp] theorem setField_vest (s : State) (f : Nat) (x : Field) : (s.setField f x).vest = s.vest := rfl
@[simp] theorem setField_nextVest (s : State) (f : Nat) (x : Field) : (s.setField f x).nextVest = s.nextVest := rfl
@[simp] theorem setField_rings (s : State) (f : Nat) (x : Field) : (s.setField f x).rings = s.rings := rfl
@[simp] theorem setField_reports (s : State) (f : Nat) (x : Field) : (s.setField f x).reports = s.reports := rfl
@[simp] theorem setField_msix (s : State) (f : Nat) (x : Field) : (s.setField f x).msix = s.msix := rfl
@[simp] theorem setField_tensors (s : State) (f : Nat) (x : Field) : (s.setField f x).tensors = s.tensors := rfl
@[simp] theorem setField_descriptors (s : State) (f : Nat) (x : Field) : (s.setField f x).descriptors = s.descriptors := rfl
@[simp] theorem setField_seq (s : State) (f : Nat) (x : Field) : (s.setField f x).seq = s.seq := rfl
@[simp] theorem setField_agenda (s : State) (f : Nat) (x : Field) : (s.setField f x).agenda = s.agenda := rfl
@[simp] theorem setField_cur (s : State) (f : Nat) (x : Field) : (s.setField f x).cur = s.cur := rfl
@[simp] theorem setField_freeCtr (s : State) (f : Nat) (x : Field) : (s.setField f x).freeCtr = s.freeCtr := rfl
@[simp] theorem updGroup_start (s : State) (id : GroupId) (h : Group → Group) : (s.updGroup id h).start = s.start := rfl
@[simp] theorem updGroup_failCount (s : State) (id : GroupId) (h : Group → Group) : (s.updGroup id h).failCount = s.failCount := rfl
@[simp] theorem updGroup_startStep (s : State) (id : GroupId) (h : Group → Group) : (s.updGroup id h).startStep = s.startStep := rfl
@[simp] theorem updGroup_starts (s : State) (id : GroupId) (h : Group → Group) : (s.updGroup id h).starts = s.starts := rfl
@[simp] theorem updGroup_paramSet (s : State) (id : GroupId) (h : Group → Group) : (s.updGroup id h).paramSet = s.paramSet := rfl
@[simp] theorem updGroup_paramOk (s : State) (id : GroupId) (h : Group → Group) : (s.updGroup id h).paramOk = s.paramOk := rfl
@[simp] theorem updGroup_fieldsUp (s : State) (id : GroupId) (h : Group → Group) : (s.updGroup id h).fieldsUp = s.fieldsUp := rfl
@[simp] theorem updGroup_railAt (s : State) (id : GroupId) (h : Group → Group) : (s.updGroup id h).railAt = s.railAt := rfl
@[simp] theorem updGroup_image (s : State) (id : GroupId) (h : Group → Group) : (s.updGroup id h).image = s.image := rfl
@[simp] theorem updGroup_fields (s : State) (id : GroupId) (h : Group → Group) : (s.updGroup id h).fields = s.fields := rfl
@[simp] theorem updGroup_ptpns (s : State) (id : GroupId) (h : Group → Group) : (s.updGroup id h).ptpns = s.ptpns := rfl
@[simp] theorem updGroup_ptpSub (s : State) (id : GroupId) (h : Group → Group) : (s.updGroup id h).ptpSub = s.ptpSub := rfl
@[simp] theorem updGroup_captures (s : State) (id : GroupId) (h : Group → Group) : (s.updGroup id h).captures = s.captures := rfl
@[simp] theorem updGroup_missed (s : State) (id : GroupId) (h : Group → Group) : (s.updGroup id h).missed = s.missed := rfl
@[simp] theorem updGroup_log (s : State) (id : GroupId) (h : Group → Group) : (s.updGroup id h).log = s.log := rfl
@[simp] theorem updGroup_logFlushed (s : State) (id : GroupId) (h : Group → Group) : (s.updGroup id h).logFlushed = s.logFlushed := rfl
@[simp] theorem updGroup_flushedAt (s : State) (id : GroupId) (h : Group → Group) : (s.updGroup id h).flushedAt = s.flushedAt := rfl
@[simp] theorem updGroup_portSampled (s : State) (id : GroupId) (h : Group → Group) : (s.updGroup id h).portSampled = s.portSampled := rfl
@[simp] theorem updGroup_mgmtReply (s : State) (id : GroupId) (h : Group → Group) : (s.updGroup id h).mgmtReply = s.mgmtReply := rfl
@[simp] theorem updGroup_keyNumber (s : State) (id : GroupId) (h : Group → Group) : (s.updGroup id h).keyNumber = s.keyNumber := rfl
@[simp] theorem updGroup_parts (s : State) (id : GroupId) (h : Group → Group) : (s.updGroup id h).parts = s.parts := rfl
@[simp] theorem updGroup_partBytes (s : State) (id : GroupId) (h : Group → Group) : (s.updGroup id h).partBytes = s.partBytes := rfl
@[simp] theorem updGroup_stagedParts (s : State) (id : GroupId) (h : Group → Group) : (s.updGroup id h).stagedParts = s.stagedParts := rfl
@[simp] theorem updGroup_slots (s : State) (id : GroupId) (h : Group → Group) : (s.updGroup id h).slots = s.slots := rfl
@[simp] theorem updGroup_stagedSlots (s : State) (id : GroupId) (h : Group → Group) : (s.updGroup id h).stagedSlots = s.stagedSlots := rfl
@[simp] theorem updGroup_ptres (s : State) (id : GroupId) (h : Group → Group) : (s.updGroup id h).ptres = s.ptres := rfl
@[simp] theorem updGroup_vfres (s : State) (id : GroupId) (h : Group → Group) : (s.updGroup id h).vfres = s.vfres := rfl
@[simp] theorem updGroup_pitches (s : State) (id : GroupId) (h : Group → Group) : (s.updGroup id h).pitches = s.pitches := rfl
@[simp] theorem updGroup_ports (s : State) (id : GroupId) (h : Group → Group) : (s.updGroup id h).ports = s.ports := rfl
@[simp] theorem updGroup_links (s : State) (id : GroupId) (h : Group → Group) : (s.updGroup id h).links = s.links := rfl
@[simp] theorem updGroup_frames (s : State) (id : GroupId) (h : Group → Group) : (s.updGroup id h).frames = s.frames := rfl
@[simp] theorem updGroup_frameSeq (s : State) (id : GroupId) (h : Group → Group) : (s.updGroup id h).frameSeq = s.frameSeq := rfl
@[simp] theorem updGroup_sent (s : State) (id : GroupId) (h : Group → Group) : (s.updGroup id h).sent = s.sent := rfl
@[simp] theorem updGroup_unacked (s : State) (id : GroupId) (h : Group → Group) : (s.updGroup id h).unacked = s.unacked := rfl
@[simp] theorem updGroup_acks (s : State) (id : GroupId) (h : Group → Group) : (s.updGroup id h).acks = s.acks := rfl
@[simp] theorem updGroup_broken (s : State) (id : GroupId) (h : Group → Group) : (s.updGroup id h).broken = s.broken := rfl
@[simp] theorem updGroup_buffered (s : State) (id : GroupId) (h : Group → Group) : (s.updGroup id h).buffered = s.buffered := rfl
@[simp] theorem updGroup_sendReports (s : State) (id : GroupId) (h : Group → Group) : (s.updGroup id h).sendReports = s.sendReports := rfl
@[simp] theorem updGroup_replies (s : State) (id : GroupId) (h : Group → Group) : (s.updGroup id h).replies = s.replies := rfl
@[simp] theorem updGroup_chipid (s : State) (id : GroupId) (h : Group → Group) : (s.updGroup id h).chipid = s.chipid := rfl
@[simp] theorem updGroup_mesh (s : State) (id : GroupId) (h : Group → Group) : (s.updGroup id h).mesh = s.mesh := rfl
@[simp] theorem updGroup_contexts (s : State) (id : GroupId) (h : Group → Group) : (s.updGroup id h).contexts = s.contexts := rfl
@[simp] theorem updGroup_queues (s : State) (id : GroupId) (h : Group → Group) : (s.updGroup id h).queues = s.queues := rfl
@[simp] theorem updGroup_kernels (s : State) (id : GroupId) (h : Group → Group) : (s.updGroup id h).kernels = s.kernels := rfl
@[simp] theorem updGroup_graphs (s : State) (id : GroupId) (h : Group → Group) : (s.updGroup id h).graphs = s.graphs := rfl
@[simp] theorem updGroup_blocks (s : State) (id : GroupId) (h : Group → Group) : (s.updGroup id h).blocks = s.blocks := rfl
@[simp] theorem updGroup_phases (s : State) (id : GroupId) (h : Group → Group) : (s.updGroup id h).phases = s.phases := rfl
@[simp] theorem updGroup_phaseReports (s : State) (id : GroupId) (h : Group → Group) : (s.updGroup id h).phaseReports = s.phaseReports := rfl
@[simp] theorem updGroup_nextOrder (s : State) (id : GroupId) (h : Group → Group) : (s.updGroup id h).nextOrder = s.nextOrder := rfl
@[simp] theorem updGroup_governed (s : State) (id : GroupId) (h : Group → Group) : (s.updGroup id h).governed = s.governed := rfl
@[simp] theorem updGroup_tiles (s : State) (id : GroupId) (h : Group → Group) : (s.updGroup id h).tiles = s.tiles := rfl
@[simp] theorem updGroup_gens (s : State) (id : GroupId) (h : Group → Group) : (s.updGroup id h).gens = s.gens := rfl
@[simp] theorem updGroup_locks (s : State) (id : GroupId) (h : Group → Group) : (s.updGroup id h).locks = s.locks := rfl
@[simp] theorem updGroup_engines (s : State) (id : GroupId) (h : Group → Group) : (s.updGroup id h).engines = s.engines := rfl
@[simp] theorem updGroup_nextEngine (s : State) (id : GroupId) (h : Group → Group) : (s.updGroup id h).nextEngine = s.nextEngine := rfl
@[simp] theorem updGroup_stragglers (s : State) (id : GroupId) (h : Group → Group) : (s.updGroup id h).stragglers = s.stragglers := rfl
@[simp] theorem updGroup_loopBufs (s : State) (id : GroupId) (h : Group → Group) : (s.updGroup id h).loopBufs = s.loopBufs := rfl
@[simp] theorem updGroup_served (s : State) (id : GroupId) (h : Group → Group) : (s.updGroup id h).served = s.served := rfl
@[simp] theorem updGroup_mem (s : State) (id : GroupId) (h : Group → Group) : (s.updGroup id h).mem = s.mem := rfl
@[simp] theorem updGroup_hostMem (s : State) (id : GroupId) (h : Group → Group) : (s.updGroup id h).hostMem = s.hostMem := rfl
@[simp] theorem updGroup_remoteMem (s : State) (id : GroupId) (h : Group → Group) : (s.updGroup id h).remoteMem = s.remoteMem := rfl
@[simp] theorem updGroup_tags (s : State) (id : GroupId) (h : Group → Group) : (s.updGroup id h).tags = s.tags := rfl
@[simp] theorem updGroup_marks (s : State) (id : GroupId) (h : Group → Group) : (s.updGroup id h).marks = s.marks := rfl
@[simp] theorem updGroup_tlb (s : State) (id : GroupId) (h : Group → Group) : (s.updGroup id h).tlb = s.tlb := rfl
@[simp] theorem updGroup_l1 (s : State) (id : GroupId) (h : Group → Group) : (s.updGroup id h).l1 = s.l1 := rfl
@[simp] theorem updGroup_wcb (s : State) (id : GroupId) (h : Group → Group) : (s.updGroup id h).wcb = s.wcb := rfl
@[simp] theorem updGroup_cluster (s : State) (id : GroupId) (h : Group → Group) : (s.updGroup id h).cluster = s.cluster := rfl
@[simp] theorem updGroup_tracker (s : State) (id : GroupId) (h : Group → Group) : (s.updGroup id h).tracker = s.tracker := rfl
@[simp] theorem updGroup_vest (s : State) (id : GroupId) (h : Group → Group) : (s.updGroup id h).vest = s.vest := rfl
@[simp] theorem updGroup_nextVest (s : State) (id : GroupId) (h : Group → Group) : (s.updGroup id h).nextVest = s.nextVest := rfl
@[simp] theorem updGroup_rings (s : State) (id : GroupId) (h : Group → Group) : (s.updGroup id h).rings = s.rings := rfl
@[simp] theorem updGroup_reports (s : State) (id : GroupId) (h : Group → Group) : (s.updGroup id h).reports = s.reports := rfl
@[simp] theorem updGroup_msix (s : State) (id : GroupId) (h : Group → Group) : (s.updGroup id h).msix = s.msix := rfl
@[simp] theorem updGroup_tensors (s : State) (id : GroupId) (h : Group → Group) : (s.updGroup id h).tensors = s.tensors := rfl
@[simp] theorem updGroup_descriptors (s : State) (id : GroupId) (h : Group → Group) : (s.updGroup id h).descriptors = s.descriptors := rfl
@[simp] theorem updGroup_seq (s : State) (id : GroupId) (h : Group → Group) : (s.updGroup id h).seq = s.seq := rfl
@[simp] theorem updGroup_agenda (s : State) (id : GroupId) (h : Group → Group) : (s.updGroup id h).agenda = s.agenda := rfl
@[simp] theorem updGroup_cur (s : State) (id : GroupId) (h : Group → Group) : (s.updGroup id h).cur = s.cur := rfl
@[simp] theorem updGroup_freeCtr (s : State) (id : GroupId) (h : Group → Group) : (s.updGroup id h).freeCtr = s.freeCtr := rfl
@[simp] theorem setGroup_start (s : State) (g : Group) : (s.setGroup g).start = s.start := rfl
@[simp] theorem setGroup_failCount (s : State) (g : Group) : (s.setGroup g).failCount = s.failCount := rfl
@[simp] theorem setGroup_startStep (s : State) (g : Group) : (s.setGroup g).startStep = s.startStep := rfl
@[simp] theorem setGroup_starts (s : State) (g : Group) : (s.setGroup g).starts = s.starts := rfl
@[simp] theorem setGroup_paramSet (s : State) (g : Group) : (s.setGroup g).paramSet = s.paramSet := rfl
@[simp] theorem setGroup_paramOk (s : State) (g : Group) : (s.setGroup g).paramOk = s.paramOk := rfl
@[simp] theorem setGroup_fieldsUp (s : State) (g : Group) : (s.setGroup g).fieldsUp = s.fieldsUp := rfl
@[simp] theorem setGroup_railAt (s : State) (g : Group) : (s.setGroup g).railAt = s.railAt := rfl
@[simp] theorem setGroup_image (s : State) (g : Group) : (s.setGroup g).image = s.image := rfl
@[simp] theorem setGroup_fields (s : State) (g : Group) : (s.setGroup g).fields = s.fields := rfl
@[simp] theorem setGroup_ptpns (s : State) (g : Group) : (s.setGroup g).ptpns = s.ptpns := rfl
@[simp] theorem setGroup_ptpSub (s : State) (g : Group) : (s.setGroup g).ptpSub = s.ptpSub := rfl
@[simp] theorem setGroup_captures (s : State) (g : Group) : (s.setGroup g).captures = s.captures := rfl
@[simp] theorem setGroup_missed (s : State) (g : Group) : (s.setGroup g).missed = s.missed := rfl
@[simp] theorem setGroup_log (s : State) (g : Group) : (s.setGroup g).log = s.log := rfl
@[simp] theorem setGroup_logFlushed (s : State) (g : Group) : (s.setGroup g).logFlushed = s.logFlushed := rfl
@[simp] theorem setGroup_flushedAt (s : State) (g : Group) : (s.setGroup g).flushedAt = s.flushedAt := rfl
@[simp] theorem setGroup_portSampled (s : State) (g : Group) : (s.setGroup g).portSampled = s.portSampled := rfl
@[simp] theorem setGroup_mgmtReply (s : State) (g : Group) : (s.setGroup g).mgmtReply = s.mgmtReply := rfl
@[simp] theorem setGroup_keyNumber (s : State) (g : Group) : (s.setGroup g).keyNumber = s.keyNumber := rfl
@[simp] theorem setGroup_parts (s : State) (g : Group) : (s.setGroup g).parts = s.parts := rfl
@[simp] theorem setGroup_partBytes (s : State) (g : Group) : (s.setGroup g).partBytes = s.partBytes := rfl
@[simp] theorem setGroup_stagedParts (s : State) (g : Group) : (s.setGroup g).stagedParts = s.stagedParts := rfl
@[simp] theorem setGroup_slots (s : State) (g : Group) : (s.setGroup g).slots = s.slots := rfl
@[simp] theorem setGroup_stagedSlots (s : State) (g : Group) : (s.setGroup g).stagedSlots = s.stagedSlots := rfl
@[simp] theorem setGroup_ptres (s : State) (g : Group) : (s.setGroup g).ptres = s.ptres := rfl
@[simp] theorem setGroup_vfres (s : State) (g : Group) : (s.setGroup g).vfres = s.vfres := rfl
@[simp] theorem setGroup_pitches (s : State) (g : Group) : (s.setGroup g).pitches = s.pitches := rfl
@[simp] theorem setGroup_ports (s : State) (g : Group) : (s.setGroup g).ports = s.ports := rfl
@[simp] theorem setGroup_links (s : State) (g : Group) : (s.setGroup g).links = s.links := rfl
@[simp] theorem setGroup_frames (s : State) (g : Group) : (s.setGroup g).frames = s.frames := rfl
@[simp] theorem setGroup_frameSeq (s : State) (g : Group) : (s.setGroup g).frameSeq = s.frameSeq := rfl
@[simp] theorem setGroup_sent (s : State) (g : Group) : (s.setGroup g).sent = s.sent := rfl
@[simp] theorem setGroup_unacked (s : State) (g : Group) : (s.setGroup g).unacked = s.unacked := rfl
@[simp] theorem setGroup_acks (s : State) (g : Group) : (s.setGroup g).acks = s.acks := rfl
@[simp] theorem setGroup_broken (s : State) (g : Group) : (s.setGroup g).broken = s.broken := rfl
@[simp] theorem setGroup_buffered (s : State) (g : Group) : (s.setGroup g).buffered = s.buffered := rfl
@[simp] theorem setGroup_sendReports (s : State) (g : Group) : (s.setGroup g).sendReports = s.sendReports := rfl
@[simp] theorem setGroup_replies (s : State) (g : Group) : (s.setGroup g).replies = s.replies := rfl
@[simp] theorem setGroup_chipid (s : State) (g : Group) : (s.setGroup g).chipid = s.chipid := rfl
@[simp] theorem setGroup_mesh (s : State) (g : Group) : (s.setGroup g).mesh = s.mesh := rfl
@[simp] theorem setGroup_contexts (s : State) (g : Group) : (s.setGroup g).contexts = s.contexts := rfl
@[simp] theorem setGroup_queues (s : State) (g : Group) : (s.setGroup g).queues = s.queues := rfl
@[simp] theorem setGroup_kernels (s : State) (g : Group) : (s.setGroup g).kernels = s.kernels := rfl
@[simp] theorem setGroup_graphs (s : State) (g : Group) : (s.setGroup g).graphs = s.graphs := rfl
@[simp] theorem setGroup_blocks (s : State) (g : Group) : (s.setGroup g).blocks = s.blocks := rfl
@[simp] theorem setGroup_phases (s : State) (g : Group) : (s.setGroup g).phases = s.phases := rfl
@[simp] theorem setGroup_phaseReports (s : State) (g : Group) : (s.setGroup g).phaseReports = s.phaseReports := rfl
@[simp] theorem setGroup_nextOrder (s : State) (g : Group) : (s.setGroup g).nextOrder = s.nextOrder := rfl
@[simp] theorem setGroup_governed (s : State) (g : Group) : (s.setGroup g).governed = s.governed := rfl
@[simp] theorem setGroup_tiles (s : State) (g : Group) : (s.setGroup g).tiles = s.tiles := rfl
@[simp] theorem setGroup_gens (s : State) (g : Group) : (s.setGroup g).gens = s.gens := rfl
@[simp] theorem setGroup_locks (s : State) (g : Group) : (s.setGroup g).locks = s.locks := rfl
@[simp] theorem setGroup_engines (s : State) (g : Group) : (s.setGroup g).engines = s.engines := rfl
@[simp] theorem setGroup_nextEngine (s : State) (g : Group) : (s.setGroup g).nextEngine = s.nextEngine := rfl
@[simp] theorem setGroup_stragglers (s : State) (g : Group) : (s.setGroup g).stragglers = s.stragglers := rfl
@[simp] theorem setGroup_loopBufs (s : State) (g : Group) : (s.setGroup g).loopBufs = s.loopBufs := rfl
@[simp] theorem setGroup_served (s : State) (g : Group) : (s.setGroup g).served = s.served := rfl
@[simp] theorem setGroup_mem (s : State) (g : Group) : (s.setGroup g).mem = s.mem := rfl
@[simp] theorem setGroup_hostMem (s : State) (g : Group) : (s.setGroup g).hostMem = s.hostMem := rfl
@[simp] theorem setGroup_remoteMem (s : State) (g : Group) : (s.setGroup g).remoteMem = s.remoteMem := rfl
@[simp] theorem setGroup_tags (s : State) (g : Group) : (s.setGroup g).tags = s.tags := rfl
@[simp] theorem setGroup_marks (s : State) (g : Group) : (s.setGroup g).marks = s.marks := rfl
@[simp] theorem setGroup_tlb (s : State) (g : Group) : (s.setGroup g).tlb = s.tlb := rfl
@[simp] theorem setGroup_l1 (s : State) (g : Group) : (s.setGroup g).l1 = s.l1 := rfl
@[simp] theorem setGroup_wcb (s : State) (g : Group) : (s.setGroup g).wcb = s.wcb := rfl
@[simp] theorem setGroup_cluster (s : State) (g : Group) : (s.setGroup g).cluster = s.cluster := rfl
@[simp] theorem setGroup_tracker (s : State) (g : Group) : (s.setGroup g).tracker = s.tracker := rfl
@[simp] theorem setGroup_vest (s : State) (g : Group) : (s.setGroup g).vest = s.vest := rfl
@[simp] theorem setGroup_nextVest (s : State) (g : Group) : (s.setGroup g).nextVest = s.nextVest := rfl
@[simp] theorem setGroup_rings (s : State) (g : Group) : (s.setGroup g).rings = s.rings := rfl
@[simp] theorem setGroup_reports (s : State) (g : Group) : (s.setGroup g).reports = s.reports := rfl
@[simp] theorem setGroup_msix (s : State) (g : Group) : (s.setGroup g).msix = s.msix := rfl
@[simp] theorem setGroup_tensors (s : State) (g : Group) : (s.setGroup g).tensors = s.tensors := rfl
@[simp] theorem setGroup_descriptors (s : State) (g : Group) : (s.setGroup g).descriptors = s.descriptors := rfl
@[simp] theorem setGroup_seq (s : State) (g : Group) : (s.setGroup g).seq = s.seq := rfl
@[simp] theorem setGroup_agenda (s : State) (g : Group) : (s.setGroup g).agenda = s.agenda := rfl
@[simp] theorem setGroup_cur (s : State) (g : Group) : (s.setGroup g).cur = s.cur := rfl
@[simp] theorem setGroup_freeCtr (s : State) (g : Group) : (s.setGroup g).freeCtr = s.freeCtr := rfl
@[simp] theorem updBlock_start (s : State) (kid n : Nat) (h : Block → Block) : (s.updBlock kid n h).start = s.start := rfl
@[simp] theorem updBlock_failCount (s : State) (kid n : Nat) (h : Block → Block) : (s.updBlock kid n h).failCount = s.failCount := rfl
@[simp] theorem updBlock_startStep (s : State) (kid n : Nat) (h : Block → Block) : (s.updBlock kid n h).startStep = s.startStep := rfl
@[simp] theorem updBlock_starts (s : State) (kid n : Nat) (h : Block → Block) : (s.updBlock kid n h).starts = s.starts := rfl
@[simp] theorem updBlock_paramSet (s : State) (kid n : Nat) (h : Block → Block) : (s.updBlock kid n h).paramSet = s.paramSet := rfl
@[simp] theorem updBlock_paramOk (s : State) (kid n : Nat) (h : Block → Block) : (s.updBlock kid n h).paramOk = s.paramOk := rfl
@[simp] theorem updBlock_fieldsUp (s : State) (kid n : Nat) (h : Block → Block) : (s.updBlock kid n h).fieldsUp = s.fieldsUp := rfl
@[simp] theorem updBlock_railAt (s : State) (kid n : Nat) (h : Block → Block) : (s.updBlock kid n h).railAt = s.railAt := rfl
@[simp] theorem updBlock_image (s : State) (kid n : Nat) (h : Block → Block) : (s.updBlock kid n h).image = s.image := rfl
@[simp] theorem updBlock_fields (s : State) (kid n : Nat) (h : Block → Block) : (s.updBlock kid n h).fields = s.fields := rfl
@[simp] theorem updBlock_ptpns (s : State) (kid n : Nat) (h : Block → Block) : (s.updBlock kid n h).ptpns = s.ptpns := rfl
@[simp] theorem updBlock_ptpSub (s : State) (kid n : Nat) (h : Block → Block) : (s.updBlock kid n h).ptpSub = s.ptpSub := rfl
@[simp] theorem updBlock_captures (s : State) (kid n : Nat) (h : Block → Block) : (s.updBlock kid n h).captures = s.captures := rfl
@[simp] theorem updBlock_missed (s : State) (kid n : Nat) (h : Block → Block) : (s.updBlock kid n h).missed = s.missed := rfl
@[simp] theorem updBlock_log (s : State) (kid n : Nat) (h : Block → Block) : (s.updBlock kid n h).log = s.log := rfl
@[simp] theorem updBlock_logFlushed (s : State) (kid n : Nat) (h : Block → Block) : (s.updBlock kid n h).logFlushed = s.logFlushed := rfl
@[simp] theorem updBlock_flushedAt (s : State) (kid n : Nat) (h : Block → Block) : (s.updBlock kid n h).flushedAt = s.flushedAt := rfl
@[simp] theorem updBlock_portSampled (s : State) (kid n : Nat) (h : Block → Block) : (s.updBlock kid n h).portSampled = s.portSampled := rfl
@[simp] theorem updBlock_mgmtReply (s : State) (kid n : Nat) (h : Block → Block) : (s.updBlock kid n h).mgmtReply = s.mgmtReply := rfl
@[simp] theorem updBlock_keyNumber (s : State) (kid n : Nat) (h : Block → Block) : (s.updBlock kid n h).keyNumber = s.keyNumber := rfl
@[simp] theorem updBlock_parts (s : State) (kid n : Nat) (h : Block → Block) : (s.updBlock kid n h).parts = s.parts := rfl
@[simp] theorem updBlock_partBytes (s : State) (kid n : Nat) (h : Block → Block) : (s.updBlock kid n h).partBytes = s.partBytes := rfl
@[simp] theorem updBlock_stagedParts (s : State) (kid n : Nat) (h : Block → Block) : (s.updBlock kid n h).stagedParts = s.stagedParts := rfl
@[simp] theorem updBlock_slots (s : State) (kid n : Nat) (h : Block → Block) : (s.updBlock kid n h).slots = s.slots := rfl
@[simp] theorem updBlock_stagedSlots (s : State) (kid n : Nat) (h : Block → Block) : (s.updBlock kid n h).stagedSlots = s.stagedSlots := rfl
@[simp] theorem updBlock_ptres (s : State) (kid n : Nat) (h : Block → Block) : (s.updBlock kid n h).ptres = s.ptres := rfl
@[simp] theorem updBlock_vfres (s : State) (kid n : Nat) (h : Block → Block) : (s.updBlock kid n h).vfres = s.vfres := rfl
@[simp] theorem updBlock_pitches (s : State) (kid n : Nat) (h : Block → Block) : (s.updBlock kid n h).pitches = s.pitches := rfl
@[simp] theorem updBlock_ports (s : State) (kid n : Nat) (h : Block → Block) : (s.updBlock kid n h).ports = s.ports := rfl
@[simp] theorem updBlock_links (s : State) (kid n : Nat) (h : Block → Block) : (s.updBlock kid n h).links = s.links := rfl
@[simp] theorem updBlock_frames (s : State) (kid n : Nat) (h : Block → Block) : (s.updBlock kid n h).frames = s.frames := rfl
@[simp] theorem updBlock_frameSeq (s : State) (kid n : Nat) (h : Block → Block) : (s.updBlock kid n h).frameSeq = s.frameSeq := rfl
@[simp] theorem updBlock_sent (s : State) (kid n : Nat) (h : Block → Block) : (s.updBlock kid n h).sent = s.sent := rfl
@[simp] theorem updBlock_unacked (s : State) (kid n : Nat) (h : Block → Block) : (s.updBlock kid n h).unacked = s.unacked := rfl
@[simp] theorem updBlock_acks (s : State) (kid n : Nat) (h : Block → Block) : (s.updBlock kid n h).acks = s.acks := rfl
@[simp] theorem updBlock_broken (s : State) (kid n : Nat) (h : Block → Block) : (s.updBlock kid n h).broken = s.broken := rfl
@[simp] theorem updBlock_buffered (s : State) (kid n : Nat) (h : Block → Block) : (s.updBlock kid n h).buffered = s.buffered := rfl
@[simp] theorem updBlock_sendReports (s : State) (kid n : Nat) (h : Block → Block) : (s.updBlock kid n h).sendReports = s.sendReports := rfl
@[simp] theorem updBlock_replies (s : State) (kid n : Nat) (h : Block → Block) : (s.updBlock kid n h).replies = s.replies := rfl
@[simp] theorem updBlock_chipid (s : State) (kid n : Nat) (h : Block → Block) : (s.updBlock kid n h).chipid = s.chipid := rfl
@[simp] theorem updBlock_mesh (s : State) (kid n : Nat) (h : Block → Block) : (s.updBlock kid n h).mesh = s.mesh := rfl
@[simp] theorem updBlock_contexts (s : State) (kid n : Nat) (h : Block → Block) : (s.updBlock kid n h).contexts = s.contexts := rfl
@[simp] theorem updBlock_queues (s : State) (kid n : Nat) (h : Block → Block) : (s.updBlock kid n h).queues = s.queues := rfl
@[simp] theorem updBlock_kernels (s : State) (kid n : Nat) (h : Block → Block) : (s.updBlock kid n h).kernels = s.kernels := rfl
@[simp] theorem updBlock_graphs (s : State) (kid n : Nat) (h : Block → Block) : (s.updBlock kid n h).graphs = s.graphs := rfl
@[simp] theorem updBlock_groups (s : State) (kid n : Nat) (h : Block → Block) : (s.updBlock kid n h).groups = s.groups := rfl
@[simp] theorem updBlock_phases (s : State) (kid n : Nat) (h : Block → Block) : (s.updBlock kid n h).phases = s.phases := rfl
@[simp] theorem updBlock_phaseReports (s : State) (kid n : Nat) (h : Block → Block) : (s.updBlock kid n h).phaseReports = s.phaseReports := rfl
@[simp] theorem updBlock_nextOrder (s : State) (kid n : Nat) (h : Block → Block) : (s.updBlock kid n h).nextOrder = s.nextOrder := rfl
@[simp] theorem updBlock_governed (s : State) (kid n : Nat) (h : Block → Block) : (s.updBlock kid n h).governed = s.governed := rfl
@[simp] theorem updBlock_tiles (s : State) (kid n : Nat) (h : Block → Block) : (s.updBlock kid n h).tiles = s.tiles := rfl
@[simp] theorem updBlock_gens (s : State) (kid n : Nat) (h : Block → Block) : (s.updBlock kid n h).gens = s.gens := rfl
@[simp] theorem updBlock_locks (s : State) (kid n : Nat) (h : Block → Block) : (s.updBlock kid n h).locks = s.locks := rfl
@[simp] theorem updBlock_engines (s : State) (kid n : Nat) (h : Block → Block) : (s.updBlock kid n h).engines = s.engines := rfl
@[simp] theorem updBlock_nextEngine (s : State) (kid n : Nat) (h : Block → Block) : (s.updBlock kid n h).nextEngine = s.nextEngine := rfl
@[simp] theorem updBlock_stragglers (s : State) (kid n : Nat) (h : Block → Block) : (s.updBlock kid n h).stragglers = s.stragglers := rfl
@[simp] theorem updBlock_loopBufs (s : State) (kid n : Nat) (h : Block → Block) : (s.updBlock kid n h).loopBufs = s.loopBufs := rfl
@[simp] theorem updBlock_served (s : State) (kid n : Nat) (h : Block → Block) : (s.updBlock kid n h).served = s.served := rfl
@[simp] theorem updBlock_mem (s : State) (kid n : Nat) (h : Block → Block) : (s.updBlock kid n h).mem = s.mem := rfl
@[simp] theorem updBlock_hostMem (s : State) (kid n : Nat) (h : Block → Block) : (s.updBlock kid n h).hostMem = s.hostMem := rfl
@[simp] theorem updBlock_remoteMem (s : State) (kid n : Nat) (h : Block → Block) : (s.updBlock kid n h).remoteMem = s.remoteMem := rfl
@[simp] theorem updBlock_tags (s : State) (kid n : Nat) (h : Block → Block) : (s.updBlock kid n h).tags = s.tags := rfl
@[simp] theorem updBlock_marks (s : State) (kid n : Nat) (h : Block → Block) : (s.updBlock kid n h).marks = s.marks := rfl
@[simp] theorem updBlock_tlb (s : State) (kid n : Nat) (h : Block → Block) : (s.updBlock kid n h).tlb = s.tlb := rfl
@[simp] theorem updBlock_l1 (s : State) (kid n : Nat) (h : Block → Block) : (s.updBlock kid n h).l1 = s.l1 := rfl
@[simp] theorem updBlock_wcb (s : State) (kid n : Nat) (h : Block → Block) : (s.updBlock kid n h).wcb = s.wcb := rfl
@[simp] theorem updBlock_cluster (s : State) (kid n : Nat) (h : Block → Block) : (s.updBlock kid n h).cluster = s.cluster := rfl
@[simp] theorem updBlock_tracker (s : State) (kid n : Nat) (h : Block → Block) : (s.updBlock kid n h).tracker = s.tracker := rfl
@[simp] theorem updBlock_vest (s : State) (kid n : Nat) (h : Block → Block) : (s.updBlock kid n h).vest = s.vest := rfl
@[simp] theorem updBlock_nextVest (s : State) (kid n : Nat) (h : Block → Block) : (s.updBlock kid n h).nextVest = s.nextVest := rfl
@[simp] theorem updBlock_rings (s : State) (kid n : Nat) (h : Block → Block) : (s.updBlock kid n h).rings = s.rings := rfl
@[simp] theorem updBlock_reports (s : State) (kid n : Nat) (h : Block → Block) : (s.updBlock kid n h).reports = s.reports := rfl
@[simp] theorem updBlock_msix (s : State) (kid n : Nat) (h : Block → Block) : (s.updBlock kid n h).msix = s.msix := rfl
@[simp] theorem updBlock_tensors (s : State) (kid n : Nat) (h : Block → Block) : (s.updBlock kid n h).tensors = s.tensors := rfl
@[simp] theorem updBlock_descriptors (s : State) (kid n : Nat) (h : Block → Block) : (s.updBlock kid n h).descriptors = s.descriptors := rfl
@[simp] theorem updBlock_seq (s : State) (kid n : Nat) (h : Block → Block) : (s.updBlock kid n h).seq = s.seq := rfl
@[simp] theorem updBlock_agenda (s : State) (kid n : Nat) (h : Block → Block) : (s.updBlock kid n h).agenda = s.agenda := rfl
@[simp] theorem updBlock_cur (s : State) (kid n : Nat) (h : Block → Block) : (s.updBlock kid n h).cur = s.cur := rfl
@[simp] theorem updBlock_freeCtr (s : State) (kid n : Nat) (h : Block → Block) : (s.updBlock kid n h).freeCtr = s.freeCtr := rfl
@[simp] theorem updKernel_start (s : State) (kid : Nat) (h : Kernel → Kernel) : (s.updKernel kid h).start = s.start := rfl
@[simp] theorem updKernel_failCount (s : State) (kid : Nat) (h : Kernel → Kernel) : (s.updKernel kid h).failCount = s.failCount := rfl
@[simp] theorem updKernel_startStep (s : State) (kid : Nat) (h : Kernel → Kernel) : (s.updKernel kid h).startStep = s.startStep := rfl
@[simp] theorem updKernel_starts (s : State) (kid : Nat) (h : Kernel → Kernel) : (s.updKernel kid h).starts = s.starts := rfl
@[simp] theorem updKernel_paramSet (s : State) (kid : Nat) (h : Kernel → Kernel) : (s.updKernel kid h).paramSet = s.paramSet := rfl
@[simp] theorem updKernel_paramOk (s : State) (kid : Nat) (h : Kernel → Kernel) : (s.updKernel kid h).paramOk = s.paramOk := rfl
@[simp] theorem updKernel_fieldsUp (s : State) (kid : Nat) (h : Kernel → Kernel) : (s.updKernel kid h).fieldsUp = s.fieldsUp := rfl
@[simp] theorem updKernel_railAt (s : State) (kid : Nat) (h : Kernel → Kernel) : (s.updKernel kid h).railAt = s.railAt := rfl
@[simp] theorem updKernel_image (s : State) (kid : Nat) (h : Kernel → Kernel) : (s.updKernel kid h).image = s.image := rfl
@[simp] theorem updKernel_fields (s : State) (kid : Nat) (h : Kernel → Kernel) : (s.updKernel kid h).fields = s.fields := rfl
@[simp] theorem updKernel_ptpns (s : State) (kid : Nat) (h : Kernel → Kernel) : (s.updKernel kid h).ptpns = s.ptpns := rfl
@[simp] theorem updKernel_ptpSub (s : State) (kid : Nat) (h : Kernel → Kernel) : (s.updKernel kid h).ptpSub = s.ptpSub := rfl
@[simp] theorem updKernel_captures (s : State) (kid : Nat) (h : Kernel → Kernel) : (s.updKernel kid h).captures = s.captures := rfl
@[simp] theorem updKernel_missed (s : State) (kid : Nat) (h : Kernel → Kernel) : (s.updKernel kid h).missed = s.missed := rfl
@[simp] theorem updKernel_log (s : State) (kid : Nat) (h : Kernel → Kernel) : (s.updKernel kid h).log = s.log := rfl
@[simp] theorem updKernel_logFlushed (s : State) (kid : Nat) (h : Kernel → Kernel) : (s.updKernel kid h).logFlushed = s.logFlushed := rfl
@[simp] theorem updKernel_flushedAt (s : State) (kid : Nat) (h : Kernel → Kernel) : (s.updKernel kid h).flushedAt = s.flushedAt := rfl
@[simp] theorem updKernel_portSampled (s : State) (kid : Nat) (h : Kernel → Kernel) : (s.updKernel kid h).portSampled = s.portSampled := rfl
@[simp] theorem updKernel_mgmtReply (s : State) (kid : Nat) (h : Kernel → Kernel) : (s.updKernel kid h).mgmtReply = s.mgmtReply := rfl
@[simp] theorem updKernel_keyNumber (s : State) (kid : Nat) (h : Kernel → Kernel) : (s.updKernel kid h).keyNumber = s.keyNumber := rfl
@[simp] theorem updKernel_parts (s : State) (kid : Nat) (h : Kernel → Kernel) : (s.updKernel kid h).parts = s.parts := rfl
@[simp] theorem updKernel_partBytes (s : State) (kid : Nat) (h : Kernel → Kernel) : (s.updKernel kid h).partBytes = s.partBytes := rfl
@[simp] theorem updKernel_stagedParts (s : State) (kid : Nat) (h : Kernel → Kernel) : (s.updKernel kid h).stagedParts = s.stagedParts := rfl
@[simp] theorem updKernel_slots (s : State) (kid : Nat) (h : Kernel → Kernel) : (s.updKernel kid h).slots = s.slots := rfl
@[simp] theorem updKernel_stagedSlots (s : State) (kid : Nat) (h : Kernel → Kernel) : (s.updKernel kid h).stagedSlots = s.stagedSlots := rfl
@[simp] theorem updKernel_ptres (s : State) (kid : Nat) (h : Kernel → Kernel) : (s.updKernel kid h).ptres = s.ptres := rfl
@[simp] theorem updKernel_vfres (s : State) (kid : Nat) (h : Kernel → Kernel) : (s.updKernel kid h).vfres = s.vfres := rfl
@[simp] theorem updKernel_pitches (s : State) (kid : Nat) (h : Kernel → Kernel) : (s.updKernel kid h).pitches = s.pitches := rfl
@[simp] theorem updKernel_ports (s : State) (kid : Nat) (h : Kernel → Kernel) : (s.updKernel kid h).ports = s.ports := rfl
@[simp] theorem updKernel_links (s : State) (kid : Nat) (h : Kernel → Kernel) : (s.updKernel kid h).links = s.links := rfl
@[simp] theorem updKernel_frames (s : State) (kid : Nat) (h : Kernel → Kernel) : (s.updKernel kid h).frames = s.frames := rfl
@[simp] theorem updKernel_frameSeq (s : State) (kid : Nat) (h : Kernel → Kernel) : (s.updKernel kid h).frameSeq = s.frameSeq := rfl
@[simp] theorem updKernel_sent (s : State) (kid : Nat) (h : Kernel → Kernel) : (s.updKernel kid h).sent = s.sent := rfl
@[simp] theorem updKernel_unacked (s : State) (kid : Nat) (h : Kernel → Kernel) : (s.updKernel kid h).unacked = s.unacked := rfl
@[simp] theorem updKernel_acks (s : State) (kid : Nat) (h : Kernel → Kernel) : (s.updKernel kid h).acks = s.acks := rfl
@[simp] theorem updKernel_broken (s : State) (kid : Nat) (h : Kernel → Kernel) : (s.updKernel kid h).broken = s.broken := rfl
@[simp] theorem updKernel_buffered (s : State) (kid : Nat) (h : Kernel → Kernel) : (s.updKernel kid h).buffered = s.buffered := rfl
@[simp] theorem updKernel_sendReports (s : State) (kid : Nat) (h : Kernel → Kernel) : (s.updKernel kid h).sendReports = s.sendReports := rfl
@[simp] theorem updKernel_replies (s : State) (kid : Nat) (h : Kernel → Kernel) : (s.updKernel kid h).replies = s.replies := rfl
@[simp] theorem updKernel_chipid (s : State) (kid : Nat) (h : Kernel → Kernel) : (s.updKernel kid h).chipid = s.chipid := rfl
@[simp] theorem updKernel_mesh (s : State) (kid : Nat) (h : Kernel → Kernel) : (s.updKernel kid h).mesh = s.mesh := rfl
@[simp] theorem updKernel_contexts (s : State) (kid : Nat) (h : Kernel → Kernel) : (s.updKernel kid h).contexts = s.contexts := rfl
@[simp] theorem updKernel_queues (s : State) (kid : Nat) (h : Kernel → Kernel) : (s.updKernel kid h).queues = s.queues := rfl
@[simp] theorem updKernel_graphs (s : State) (kid : Nat) (h : Kernel → Kernel) : (s.updKernel kid h).graphs = s.graphs := rfl
@[simp] theorem updKernel_blocks (s : State) (kid : Nat) (h : Kernel → Kernel) : (s.updKernel kid h).blocks = s.blocks := rfl
@[simp] theorem updKernel_groups (s : State) (kid : Nat) (h : Kernel → Kernel) : (s.updKernel kid h).groups = s.groups := rfl
@[simp] theorem updKernel_phases (s : State) (kid : Nat) (h : Kernel → Kernel) : (s.updKernel kid h).phases = s.phases := rfl
@[simp] theorem updKernel_phaseReports (s : State) (kid : Nat) (h : Kernel → Kernel) : (s.updKernel kid h).phaseReports = s.phaseReports := rfl
@[simp] theorem updKernel_nextOrder (s : State) (kid : Nat) (h : Kernel → Kernel) : (s.updKernel kid h).nextOrder = s.nextOrder := rfl
@[simp] theorem updKernel_governed (s : State) (kid : Nat) (h : Kernel → Kernel) : (s.updKernel kid h).governed = s.governed := rfl
@[simp] theorem updKernel_tiles (s : State) (kid : Nat) (h : Kernel → Kernel) : (s.updKernel kid h).tiles = s.tiles := rfl
@[simp] theorem updKernel_gens (s : State) (kid : Nat) (h : Kernel → Kernel) : (s.updKernel kid h).gens = s.gens := rfl
@[simp] theorem updKernel_locks (s : State) (kid : Nat) (h : Kernel → Kernel) : (s.updKernel kid h).locks = s.locks := rfl
@[simp] theorem updKernel_engines (s : State) (kid : Nat) (h : Kernel → Kernel) : (s.updKernel kid h).engines = s.engines := rfl
@[simp] theorem updKernel_nextEngine (s : State) (kid : Nat) (h : Kernel → Kernel) : (s.updKernel kid h).nextEngine = s.nextEngine := rfl
@[simp] theorem updKernel_stragglers (s : State) (kid : Nat) (h : Kernel → Kernel) : (s.updKernel kid h).stragglers = s.stragglers := rfl
@[simp] theorem updKernel_loopBufs (s : State) (kid : Nat) (h : Kernel → Kernel) : (s.updKernel kid h).loopBufs = s.loopBufs := rfl
@[simp] theorem updKernel_served (s : State) (kid : Nat) (h : Kernel → Kernel) : (s.updKernel kid h).served = s.served := rfl
@[simp] theorem updKernel_mem (s : State) (kid : Nat) (h : Kernel → Kernel) : (s.updKernel kid h).mem = s.mem := rfl
@[simp] theorem updKernel_hostMem (s : State) (kid : Nat) (h : Kernel → Kernel) : (s.updKernel kid h).hostMem = s.hostMem := rfl
@[simp] theorem updKernel_remoteMem (s : State) (kid : Nat) (h : Kernel → Kernel) : (s.updKernel kid h).remoteMem = s.remoteMem := rfl
@[simp] theorem updKernel_tags (s : State) (kid : Nat) (h : Kernel → Kernel) : (s.updKernel kid h).tags = s.tags := rfl
@[simp] theorem updKernel_marks (s : State) (kid : Nat) (h : Kernel → Kernel) : (s.updKernel kid h).marks = s.marks := rfl
@[simp] theorem updKernel_tlb (s : State) (kid : Nat) (h : Kernel → Kernel) : (s.updKernel kid h).tlb = s.tlb := rfl
@[simp] theorem updKernel_l1 (s : State) (kid : Nat) (h : Kernel → Kernel) : (s.updKernel kid h).l1 = s.l1 := rfl
@[simp] theorem updKernel_wcb (s : State) (kid : Nat) (h : Kernel → Kernel) : (s.updKernel kid h).wcb = s.wcb := rfl
@[simp] theorem updKernel_cluster (s : State) (kid : Nat) (h : Kernel → Kernel) : (s.updKernel kid h).cluster = s.cluster := rfl
@[simp] theorem updKernel_tracker (s : State) (kid : Nat) (h : Kernel → Kernel) : (s.updKernel kid h).tracker = s.tracker := rfl
@[simp] theorem updKernel_vest (s : State) (kid : Nat) (h : Kernel → Kernel) : (s.updKernel kid h).vest = s.vest := rfl
@[simp] theorem updKernel_nextVest (s : State) (kid : Nat) (h : Kernel → Kernel) : (s.updKernel kid h).nextVest = s.nextVest := rfl
@[simp] theorem updKernel_rings (s : State) (kid : Nat) (h : Kernel → Kernel) : (s.updKernel kid h).rings = s.rings := rfl
@[simp] theorem updKernel_reports (s : State) (kid : Nat) (h : Kernel → Kernel) : (s.updKernel kid h).reports = s.reports := rfl
@[simp] theorem updKernel_msix (s : State) (kid : Nat) (h : Kernel → Kernel) : (s.updKernel kid h).msix = s.msix := rfl
@[simp] theorem updKernel_tensors (s : State) (kid : Nat) (h : Kernel → Kernel) : (s.updKernel kid h).tensors = s.tensors := rfl
@[simp] theorem updKernel_descriptors (s : State) (kid : Nat) (h : Kernel → Kernel) : (s.updKernel kid h).descriptors = s.descriptors := rfl
@[simp] theorem updKernel_seq (s : State) (kid : Nat) (h : Kernel → Kernel) : (s.updKernel kid h).seq = s.seq := rfl
@[simp] theorem updKernel_agenda (s : State) (kid : Nat) (h : Kernel → Kernel) : (s.updKernel kid h).agenda = s.agenda := rfl
@[simp] theorem updKernel_cur (s : State) (kid : Nat) (h : Kernel → Kernel) : (s.updKernel kid h).cur = s.cur := rfl
@[simp] theorem updKernel_freeCtr (s : State) (kid : Nat) (h : Kernel → Kernel) : (s.updKernel kid h).freeCtr = s.freeCtr := rfl
@[simp] theorem updCtx_start (s : State) (id : Nat) (h : Context → Context) : (s.updCtx id h).start = s.start := rfl
@[simp] theorem updCtx_failCount (s : State) (id : Nat) (h : Context → Context) : (s.updCtx id h).failCount = s.failCount := rfl
@[simp] theorem updCtx_startStep (s : State) (id : Nat) (h : Context → Context) : (s.updCtx id h).startStep = s.startStep := rfl
@[simp] theorem updCtx_starts (s : State) (id : Nat) (h : Context → Context) : (s.updCtx id h).starts = s.starts := rfl
@[simp] theorem updCtx_paramSet (s : State) (id : Nat) (h : Context → Context) : (s.updCtx id h).paramSet = s.paramSet := rfl
@[simp] theorem updCtx_paramOk (s : State) (id : Nat) (h : Context → Context) : (s.updCtx id h).paramOk = s.paramOk := rfl
@[simp] theorem updCtx_fieldsUp (s : State) (id : Nat) (h : Context → Context) : (s.updCtx id h).fieldsUp = s.fieldsUp := rfl
@[simp] theorem updCtx_railAt (s : State) (id : Nat) (h : Context → Context) : (s.updCtx id h).railAt = s.railAt := rfl
@[simp] theorem updCtx_image (s : State) (id : Nat) (h : Context → Context) : (s.updCtx id h).image = s.image := rfl
@[simp] theorem updCtx_fields (s : State) (id : Nat) (h : Context → Context) : (s.updCtx id h).fields = s.fields := rfl
@[simp] theorem updCtx_ptpns (s : State) (id : Nat) (h : Context → Context) : (s.updCtx id h).ptpns = s.ptpns := rfl
@[simp] theorem updCtx_ptpSub (s : State) (id : Nat) (h : Context → Context) : (s.updCtx id h).ptpSub = s.ptpSub := rfl
@[simp] theorem updCtx_captures (s : State) (id : Nat) (h : Context → Context) : (s.updCtx id h).captures = s.captures := rfl
@[simp] theorem updCtx_missed (s : State) (id : Nat) (h : Context → Context) : (s.updCtx id h).missed = s.missed := rfl
@[simp] theorem updCtx_log (s : State) (id : Nat) (h : Context → Context) : (s.updCtx id h).log = s.log := rfl
@[simp] theorem updCtx_logFlushed (s : State) (id : Nat) (h : Context → Context) : (s.updCtx id h).logFlushed = s.logFlushed := rfl
@[simp] theorem updCtx_flushedAt (s : State) (id : Nat) (h : Context → Context) : (s.updCtx id h).flushedAt = s.flushedAt := rfl
@[simp] theorem updCtx_portSampled (s : State) (id : Nat) (h : Context → Context) : (s.updCtx id h).portSampled = s.portSampled := rfl
@[simp] theorem updCtx_mgmtReply (s : State) (id : Nat) (h : Context → Context) : (s.updCtx id h).mgmtReply = s.mgmtReply := rfl
@[simp] theorem updCtx_keyNumber (s : State) (id : Nat) (h : Context → Context) : (s.updCtx id h).keyNumber = s.keyNumber := rfl
@[simp] theorem updCtx_parts (s : State) (id : Nat) (h : Context → Context) : (s.updCtx id h).parts = s.parts := rfl
@[simp] theorem updCtx_partBytes (s : State) (id : Nat) (h : Context → Context) : (s.updCtx id h).partBytes = s.partBytes := rfl
@[simp] theorem updCtx_stagedParts (s : State) (id : Nat) (h : Context → Context) : (s.updCtx id h).stagedParts = s.stagedParts := rfl
@[simp] theorem updCtx_slots (s : State) (id : Nat) (h : Context → Context) : (s.updCtx id h).slots = s.slots := rfl
@[simp] theorem updCtx_stagedSlots (s : State) (id : Nat) (h : Context → Context) : (s.updCtx id h).stagedSlots = s.stagedSlots := rfl
@[simp] theorem updCtx_ptres (s : State) (id : Nat) (h : Context → Context) : (s.updCtx id h).ptres = s.ptres := rfl
@[simp] theorem updCtx_vfres (s : State) (id : Nat) (h : Context → Context) : (s.updCtx id h).vfres = s.vfres := rfl
@[simp] theorem updCtx_pitches (s : State) (id : Nat) (h : Context → Context) : (s.updCtx id h).pitches = s.pitches := rfl
@[simp] theorem updCtx_ports (s : State) (id : Nat) (h : Context → Context) : (s.updCtx id h).ports = s.ports := rfl
@[simp] theorem updCtx_links (s : State) (id : Nat) (h : Context → Context) : (s.updCtx id h).links = s.links := rfl
@[simp] theorem updCtx_frames (s : State) (id : Nat) (h : Context → Context) : (s.updCtx id h).frames = s.frames := rfl
@[simp] theorem updCtx_frameSeq (s : State) (id : Nat) (h : Context → Context) : (s.updCtx id h).frameSeq = s.frameSeq := rfl
@[simp] theorem updCtx_sent (s : State) (id : Nat) (h : Context → Context) : (s.updCtx id h).sent = s.sent := rfl
@[simp] theorem updCtx_unacked (s : State) (id : Nat) (h : Context → Context) : (s.updCtx id h).unacked = s.unacked := rfl
@[simp] theorem updCtx_acks (s : State) (id : Nat) (h : Context → Context) : (s.updCtx id h).acks = s.acks := rfl
@[simp] theorem updCtx_broken (s : State) (id : Nat) (h : Context → Context) : (s.updCtx id h).broken = s.broken := rfl
@[simp] theorem updCtx_buffered (s : State) (id : Nat) (h : Context → Context) : (s.updCtx id h).buffered = s.buffered := rfl
@[simp] theorem updCtx_sendReports (s : State) (id : Nat) (h : Context → Context) : (s.updCtx id h).sendReports = s.sendReports := rfl
@[simp] theorem updCtx_replies (s : State) (id : Nat) (h : Context → Context) : (s.updCtx id h).replies = s.replies := rfl
@[simp] theorem updCtx_chipid (s : State) (id : Nat) (h : Context → Context) : (s.updCtx id h).chipid = s.chipid := rfl
@[simp] theorem updCtx_mesh (s : State) (id : Nat) (h : Context → Context) : (s.updCtx id h).mesh = s.mesh := rfl
@[simp] theorem updCtx_queues (s : State) (id : Nat) (h : Context → Context) : (s.updCtx id h).queues = s.queues := rfl
@[simp] theorem updCtx_kernels (s : State) (id : Nat) (h : Context → Context) : (s.updCtx id h).kernels = s.kernels := rfl
@[simp] theorem updCtx_graphs (s : State) (id : Nat) (h : Context → Context) : (s.updCtx id h).graphs = s.graphs := rfl
@[simp] theorem updCtx_blocks (s : State) (id : Nat) (h : Context → Context) : (s.updCtx id h).blocks = s.blocks := rfl
@[simp] theorem updCtx_groups (s : State) (id : Nat) (h : Context → Context) : (s.updCtx id h).groups = s.groups := rfl
@[simp] theorem updCtx_phases (s : State) (id : Nat) (h : Context → Context) : (s.updCtx id h).phases = s.phases := rfl
@[simp] theorem updCtx_phaseReports (s : State) (id : Nat) (h : Context → Context) : (s.updCtx id h).phaseReports = s.phaseReports := rfl
@[simp] theorem updCtx_nextOrder (s : State) (id : Nat) (h : Context → Context) : (s.updCtx id h).nextOrder = s.nextOrder := rfl
@[simp] theorem updCtx_governed (s : State) (id : Nat) (h : Context → Context) : (s.updCtx id h).governed = s.governed := rfl
@[simp] theorem updCtx_tiles (s : State) (id : Nat) (h : Context → Context) : (s.updCtx id h).tiles = s.tiles := rfl
@[simp] theorem updCtx_gens (s : State) (id : Nat) (h : Context → Context) : (s.updCtx id h).gens = s.gens := rfl
@[simp] theorem updCtx_locks (s : State) (id : Nat) (h : Context → Context) : (s.updCtx id h).locks = s.locks := rfl
@[simp] theorem updCtx_engines (s : State) (id : Nat) (h : Context → Context) : (s.updCtx id h).engines = s.engines := rfl
@[simp] theorem updCtx_nextEngine (s : State) (id : Nat) (h : Context → Context) : (s.updCtx id h).nextEngine = s.nextEngine := rfl
@[simp] theorem updCtx_stragglers (s : State) (id : Nat) (h : Context → Context) : (s.updCtx id h).stragglers = s.stragglers := rfl
@[simp] theorem updCtx_loopBufs (s : State) (id : Nat) (h : Context → Context) : (s.updCtx id h).loopBufs = s.loopBufs := rfl
@[simp] theorem updCtx_served (s : State) (id : Nat) (h : Context → Context) : (s.updCtx id h).served = s.served := rfl
@[simp] theorem updCtx_mem (s : State) (id : Nat) (h : Context → Context) : (s.updCtx id h).mem = s.mem := rfl
@[simp] theorem updCtx_hostMem (s : State) (id : Nat) (h : Context → Context) : (s.updCtx id h).hostMem = s.hostMem := rfl
@[simp] theorem updCtx_remoteMem (s : State) (id : Nat) (h : Context → Context) : (s.updCtx id h).remoteMem = s.remoteMem := rfl
@[simp] theorem updCtx_tags (s : State) (id : Nat) (h : Context → Context) : (s.updCtx id h).tags = s.tags := rfl
@[simp] theorem updCtx_marks (s : State) (id : Nat) (h : Context → Context) : (s.updCtx id h).marks = s.marks := rfl
@[simp] theorem updCtx_tlb (s : State) (id : Nat) (h : Context → Context) : (s.updCtx id h).tlb = s.tlb := rfl
@[simp] theorem updCtx_l1 (s : State) (id : Nat) (h : Context → Context) : (s.updCtx id h).l1 = s.l1 := rfl
@[simp] theorem updCtx_wcb (s : State) (id : Nat) (h : Context → Context) : (s.updCtx id h).wcb = s.wcb := rfl
@[simp] theorem updCtx_cluster (s : State) (id : Nat) (h : Context → Context) : (s.updCtx id h).cluster = s.cluster := rfl
@[simp] theorem updCtx_tracker (s : State) (id : Nat) (h : Context → Context) : (s.updCtx id h).tracker = s.tracker := rfl
@[simp] theorem updCtx_vest (s : State) (id : Nat) (h : Context → Context) : (s.updCtx id h).vest = s.vest := rfl
@[simp] theorem updCtx_nextVest (s : State) (id : Nat) (h : Context → Context) : (s.updCtx id h).nextVest = s.nextVest := rfl
@[simp] theorem updCtx_rings (s : State) (id : Nat) (h : Context → Context) : (s.updCtx id h).rings = s.rings := rfl
@[simp] theorem updCtx_reports (s : State) (id : Nat) (h : Context → Context) : (s.updCtx id h).reports = s.reports := rfl
@[simp] theorem updCtx_msix (s : State) (id : Nat) (h : Context → Context) : (s.updCtx id h).msix = s.msix := rfl
@[simp] theorem updCtx_tensors (s : State) (id : Nat) (h : Context → Context) : (s.updCtx id h).tensors = s.tensors := rfl
@[simp] theorem updCtx_descriptors (s : State) (id : Nat) (h : Context → Context) : (s.updCtx id h).descriptors = s.descriptors := rfl
@[simp] theorem updCtx_seq (s : State) (id : Nat) (h : Context → Context) : (s.updCtx id h).seq = s.seq := rfl
@[simp] theorem updCtx_agenda (s : State) (id : Nat) (h : Context → Context) : (s.updCtx id h).agenda = s.agenda := rfl
@[simp] theorem updCtx_cur (s : State) (id : Nat) (h : Context → Context) : (s.updCtx id h).cur = s.cur := rfl
@[simp] theorem updCtx_freeCtr (s : State) (id : Nat) (h : Context → Context) : (s.updCtx id h).freeCtr = s.freeCtr := rfl
@[simp] theorem updQueue_start (s : State) (n : Nat) (h : Queue → Queue) : (s.updQueue n h).start = s.start := rfl
@[simp] theorem updQueue_failCount (s : State) (n : Nat) (h : Queue → Queue) : (s.updQueue n h).failCount = s.failCount := rfl
@[simp] theorem updQueue_startStep (s : State) (n : Nat) (h : Queue → Queue) : (s.updQueue n h).startStep = s.startStep := rfl
@[simp] theorem updQueue_starts (s : State) (n : Nat) (h : Queue → Queue) : (s.updQueue n h).starts = s.starts := rfl
@[simp] theorem updQueue_paramSet (s : State) (n : Nat) (h : Queue → Queue) : (s.updQueue n h).paramSet = s.paramSet := rfl
@[simp] theorem updQueue_paramOk (s : State) (n : Nat) (h : Queue → Queue) : (s.updQueue n h).paramOk = s.paramOk := rfl
@[simp] theorem updQueue_fieldsUp (s : State) (n : Nat) (h : Queue → Queue) : (s.updQueue n h).fieldsUp = s.fieldsUp := rfl
@[simp] theorem updQueue_railAt (s : State) (n : Nat) (h : Queue → Queue) : (s.updQueue n h).railAt = s.railAt := rfl
@[simp] theorem updQueue_image (s : State) (n : Nat) (h : Queue → Queue) : (s.updQueue n h).image = s.image := rfl
@[simp] theorem updQueue_fields (s : State) (n : Nat) (h : Queue → Queue) : (s.updQueue n h).fields = s.fields := rfl
@[simp] theorem updQueue_ptpns (s : State) (n : Nat) (h : Queue → Queue) : (s.updQueue n h).ptpns = s.ptpns := rfl
@[simp] theorem updQueue_ptpSub (s : State) (n : Nat) (h : Queue → Queue) : (s.updQueue n h).ptpSub = s.ptpSub := rfl
@[simp] theorem updQueue_captures (s : State) (n : Nat) (h : Queue → Queue) : (s.updQueue n h).captures = s.captures := rfl
@[simp] theorem updQueue_missed (s : State) (n : Nat) (h : Queue → Queue) : (s.updQueue n h).missed = s.missed := rfl
@[simp] theorem updQueue_log (s : State) (n : Nat) (h : Queue → Queue) : (s.updQueue n h).log = s.log := rfl
@[simp] theorem updQueue_logFlushed (s : State) (n : Nat) (h : Queue → Queue) : (s.updQueue n h).logFlushed = s.logFlushed := rfl
@[simp] theorem updQueue_flushedAt (s : State) (n : Nat) (h : Queue → Queue) : (s.updQueue n h).flushedAt = s.flushedAt := rfl
@[simp] theorem updQueue_portSampled (s : State) (n : Nat) (h : Queue → Queue) : (s.updQueue n h).portSampled = s.portSampled := rfl
@[simp] theorem updQueue_mgmtReply (s : State) (n : Nat) (h : Queue → Queue) : (s.updQueue n h).mgmtReply = s.mgmtReply := rfl
@[simp] theorem updQueue_keyNumber (s : State) (n : Nat) (h : Queue → Queue) : (s.updQueue n h).keyNumber = s.keyNumber := rfl
@[simp] theorem updQueue_parts (s : State) (n : Nat) (h : Queue → Queue) : (s.updQueue n h).parts = s.parts := rfl
@[simp] theorem updQueue_partBytes (s : State) (n : Nat) (h : Queue → Queue) : (s.updQueue n h).partBytes = s.partBytes := rfl
@[simp] theorem updQueue_stagedParts (s : State) (n : Nat) (h : Queue → Queue) : (s.updQueue n h).stagedParts = s.stagedParts := rfl
@[simp] theorem updQueue_slots (s : State) (n : Nat) (h : Queue → Queue) : (s.updQueue n h).slots = s.slots := rfl
@[simp] theorem updQueue_stagedSlots (s : State) (n : Nat) (h : Queue → Queue) : (s.updQueue n h).stagedSlots = s.stagedSlots := rfl
@[simp] theorem updQueue_ptres (s : State) (n : Nat) (h : Queue → Queue) : (s.updQueue n h).ptres = s.ptres := rfl
@[simp] theorem updQueue_vfres (s : State) (n : Nat) (h : Queue → Queue) : (s.updQueue n h).vfres = s.vfres := rfl
@[simp] theorem updQueue_pitches (s : State) (n : Nat) (h : Queue → Queue) : (s.updQueue n h).pitches = s.pitches := rfl
@[simp] theorem updQueue_ports (s : State) (n : Nat) (h : Queue → Queue) : (s.updQueue n h).ports = s.ports := rfl
@[simp] theorem updQueue_links (s : State) (n : Nat) (h : Queue → Queue) : (s.updQueue n h).links = s.links := rfl
@[simp] theorem updQueue_frames (s : State) (n : Nat) (h : Queue → Queue) : (s.updQueue n h).frames = s.frames := rfl
@[simp] theorem updQueue_frameSeq (s : State) (n : Nat) (h : Queue → Queue) : (s.updQueue n h).frameSeq = s.frameSeq := rfl
@[simp] theorem updQueue_sent (s : State) (n : Nat) (h : Queue → Queue) : (s.updQueue n h).sent = s.sent := rfl
@[simp] theorem updQueue_unacked (s : State) (n : Nat) (h : Queue → Queue) : (s.updQueue n h).unacked = s.unacked := rfl
@[simp] theorem updQueue_acks (s : State) (n : Nat) (h : Queue → Queue) : (s.updQueue n h).acks = s.acks := rfl
@[simp] theorem updQueue_broken (s : State) (n : Nat) (h : Queue → Queue) : (s.updQueue n h).broken = s.broken := rfl
@[simp] theorem updQueue_buffered (s : State) (n : Nat) (h : Queue → Queue) : (s.updQueue n h).buffered = s.buffered := rfl
@[simp] theorem updQueue_sendReports (s : State) (n : Nat) (h : Queue → Queue) : (s.updQueue n h).sendReports = s.sendReports := rfl
@[simp] theorem updQueue_replies (s : State) (n : Nat) (h : Queue → Queue) : (s.updQueue n h).replies = s.replies := rfl
@[simp] theorem updQueue_chipid (s : State) (n : Nat) (h : Queue → Queue) : (s.updQueue n h).chipid = s.chipid := rfl
@[simp] theorem updQueue_mesh (s : State) (n : Nat) (h : Queue → Queue) : (s.updQueue n h).mesh = s.mesh := rfl
@[simp] theorem updQueue_contexts (s : State) (n : Nat) (h : Queue → Queue) : (s.updQueue n h).contexts = s.contexts := rfl
@[simp] theorem updQueue_kernels (s : State) (n : Nat) (h : Queue → Queue) : (s.updQueue n h).kernels = s.kernels := rfl
@[simp] theorem updQueue_graphs (s : State) (n : Nat) (h : Queue → Queue) : (s.updQueue n h).graphs = s.graphs := rfl
@[simp] theorem updQueue_blocks (s : State) (n : Nat) (h : Queue → Queue) : (s.updQueue n h).blocks = s.blocks := rfl
@[simp] theorem updQueue_groups (s : State) (n : Nat) (h : Queue → Queue) : (s.updQueue n h).groups = s.groups := rfl
@[simp] theorem updQueue_phases (s : State) (n : Nat) (h : Queue → Queue) : (s.updQueue n h).phases = s.phases := rfl
@[simp] theorem updQueue_phaseReports (s : State) (n : Nat) (h : Queue → Queue) : (s.updQueue n h).phaseReports = s.phaseReports := rfl
@[simp] theorem updQueue_nextOrder (s : State) (n : Nat) (h : Queue → Queue) : (s.updQueue n h).nextOrder = s.nextOrder := rfl
@[simp] theorem updQueue_governed (s : State) (n : Nat) (h : Queue → Queue) : (s.updQueue n h).governed = s.governed := rfl
@[simp] theorem updQueue_tiles (s : State) (n : Nat) (h : Queue → Queue) : (s.updQueue n h).tiles = s.tiles := rfl
@[simp] theorem updQueue_gens (s : State) (n : Nat) (h : Queue → Queue) : (s.updQueue n h).gens = s.gens := rfl
@[simp] theorem updQueue_locks (s : State) (n : Nat) (h : Queue → Queue) : (s.updQueue n h).locks = s.locks := rfl
@[simp] theorem updQueue_engines (s : State) (n : Nat) (h : Queue → Queue) : (s.updQueue n h).engines = s.engines := rfl
@[simp] theorem updQueue_nextEngine (s : State) (n : Nat) (h : Queue → Queue) : (s.updQueue n h).nextEngine = s.nextEngine := rfl
@[simp] theorem updQueue_stragglers (s : State) (n : Nat) (h : Queue → Queue) : (s.updQueue n h).stragglers = s.stragglers := rfl
@[simp] theorem updQueue_loopBufs (s : State) (n : Nat) (h : Queue → Queue) : (s.updQueue n h).loopBufs = s.loopBufs := rfl
@[simp] theorem updQueue_served (s : State) (n : Nat) (h : Queue → Queue) : (s.updQueue n h).served = s.served := rfl
@[simp] theorem updQueue_mem (s : State) (n : Nat) (h : Queue → Queue) : (s.updQueue n h).mem = s.mem := rfl
@[simp] theorem updQueue_hostMem (s : State) (n : Nat) (h : Queue → Queue) : (s.updQueue n h).hostMem = s.hostMem := rfl
@[simp] theorem updQueue_remoteMem (s : State) (n : Nat) (h : Queue → Queue) : (s.updQueue n h).remoteMem = s.remoteMem := rfl
@[simp] theorem updQueue_tags (s : State) (n : Nat) (h : Queue → Queue) : (s.updQueue n h).tags = s.tags := rfl
@[simp] theorem updQueue_marks (s : State) (n : Nat) (h : Queue → Queue) : (s.updQueue n h).marks = s.marks := rfl
@[simp] theorem updQueue_tlb (s : State) (n : Nat) (h : Queue → Queue) : (s.updQueue n h).tlb = s.tlb := rfl
@[simp] theorem updQueue_l1 (s : State) (n : Nat) (h : Queue → Queue) : (s.updQueue n h).l1 = s.l1 := rfl
@[simp] theorem updQueue_wcb (s : State) (n : Nat) (h : Queue → Queue) : (s.updQueue n h).wcb = s.wcb := rfl
@[simp] theorem updQueue_cluster (s : State) (n : Nat) (h : Queue → Queue) : (s.updQueue n h).cluster = s.cluster := rfl
@[simp] theorem updQueue_tracker (s : State) (n : Nat) (h : Queue → Queue) : (s.updQueue n h).tracker = s.tracker := rfl
@[simp] theorem updQueue_vest (s : State) (n : Nat) (h : Queue → Queue) : (s.updQueue n h).vest = s.vest := rfl
@[simp] theorem updQueue_nextVest (s : State) (n : Nat) (h : Queue → Queue) : (s.updQueue n h).nextVest = s.nextVest := rfl
@[simp] theorem updQueue_rings (s : State) (n : Nat) (h : Queue → Queue) : (s.updQueue n h).rings = s.rings := rfl
@[simp] theorem updQueue_reports (s : State) (n : Nat) (h : Queue → Queue) : (s.updQueue n h).reports = s.reports := rfl
@[simp] theorem updQueue_msix (s : State) (n : Nat) (h : Queue → Queue) : (s.updQueue n h).msix = s.msix := rfl
@[simp] theorem updQueue_tensors (s : State) (n : Nat) (h : Queue → Queue) : (s.updQueue n h).tensors = s.tensors := rfl
@[simp] theorem updQueue_descriptors (s : State) (n : Nat) (h : Queue → Queue) : (s.updQueue n h).descriptors = s.descriptors := rfl
@[simp] theorem updQueue_seq (s : State) (n : Nat) (h : Queue → Queue) : (s.updQueue n h).seq = s.seq := rfl
@[simp] theorem updQueue_agenda (s : State) (n : Nat) (h : Queue → Queue) : (s.updQueue n h).agenda = s.agenda := rfl
@[simp] theorem updQueue_cur (s : State) (n : Nat) (h : Queue → Queue) : (s.updQueue n h).cur = s.cur := rfl
@[simp] theorem updQueue_freeCtr (s : State) (n : Nat) (h : Queue → Queue) : (s.updQueue n h).freeCtr = s.freeCtr := rfl
@[simp] theorem updEngine_start (s : State) (id : Nat) (h : Engine → Engine) : (s.updEngine id h).start = s.start := rfl
@[simp] theorem updEngine_failCount (s : State) (id : Nat) (h : Engine → Engine) : (s.updEngine id h).failCount = s.failCount := rfl
@[simp] theorem updEngine_startStep (s : State) (id : Nat) (h : Engine → Engine) : (s.updEngine id h).startStep = s.startStep := rfl
@[simp] theorem updEngine_starts (s : State) (id : Nat) (h : Engine → Engine) : (s.updEngine id h).starts = s.starts := rfl
@[simp] theorem updEngine_paramSet (s : State) (id : Nat) (h : Engine → Engine) : (s.updEngine id h).paramSet = s.paramSet := rfl
@[simp] theorem updEngine_paramOk (s : State) (id : Nat) (h : Engine → Engine) : (s.updEngine id h).paramOk = s.paramOk := rfl
@[simp] theorem updEngine_fieldsUp (s : State) (id : Nat) (h : Engine → Engine) : (s.updEngine id h).fieldsUp = s.fieldsUp := rfl
@[simp] theorem updEngine_railAt (s : State) (id : Nat) (h : Engine → Engine) : (s.updEngine id h).railAt = s.railAt := rfl
@[simp] theorem updEngine_image (s : State) (id : Nat) (h : Engine → Engine) : (s.updEngine id h).image = s.image := rfl
@[simp] theorem updEngine_fields (s : State) (id : Nat) (h : Engine → Engine) : (s.updEngine id h).fields = s.fields := rfl
@[simp] theorem updEngine_ptpns (s : State) (id : Nat) (h : Engine → Engine) : (s.updEngine id h).ptpns = s.ptpns := rfl
@[simp] theorem updEngine_ptpSub (s : State) (id : Nat) (h : Engine → Engine) : (s.updEngine id h).ptpSub = s.ptpSub := rfl
@[simp] theorem updEngine_captures (s : State) (id : Nat) (h : Engine → Engine) : (s.updEngine id h).captures = s.captures := rfl
@[simp] theorem updEngine_missed (s : State) (id : Nat) (h : Engine → Engine) : (s.updEngine id h).missed = s.missed := rfl
@[simp] theorem updEngine_log (s : State) (id : Nat) (h : Engine → Engine) : (s.updEngine id h).log = s.log := rfl
@[simp] theorem updEngine_logFlushed (s : State) (id : Nat) (h : Engine → Engine) : (s.updEngine id h).logFlushed = s.logFlushed := rfl
@[simp] theorem updEngine_flushedAt (s : State) (id : Nat) (h : Engine → Engine) : (s.updEngine id h).flushedAt = s.flushedAt := rfl
@[simp] theorem updEngine_portSampled (s : State) (id : Nat) (h : Engine → Engine) : (s.updEngine id h).portSampled = s.portSampled := rfl
@[simp] theorem updEngine_mgmtReply (s : State) (id : Nat) (h : Engine → Engine) : (s.updEngine id h).mgmtReply = s.mgmtReply := rfl
@[simp] theorem updEngine_keyNumber (s : State) (id : Nat) (h : Engine → Engine) : (s.updEngine id h).keyNumber = s.keyNumber := rfl
@[simp] theorem updEngine_parts (s : State) (id : Nat) (h : Engine → Engine) : (s.updEngine id h).parts = s.parts := rfl
@[simp] theorem updEngine_partBytes (s : State) (id : Nat) (h : Engine → Engine) : (s.updEngine id h).partBytes = s.partBytes := rfl
@[simp] theorem updEngine_stagedParts (s : State) (id : Nat) (h : Engine → Engine) : (s.updEngine id h).stagedParts = s.stagedParts := rfl
@[simp] theorem updEngine_slots (s : State) (id : Nat) (h : Engine → Engine) : (s.updEngine id h).slots = s.slots := rfl
@[simp] theorem updEngine_stagedSlots (s : State) (id : Nat) (h : Engine → Engine) : (s.updEngine id h).stagedSlots = s.stagedSlots := rfl
@[simp] theorem updEngine_ptres (s : State) (id : Nat) (h : Engine → Engine) : (s.updEngine id h).ptres = s.ptres := rfl
@[simp] theorem updEngine_vfres (s : State) (id : Nat) (h : Engine → Engine) : (s.updEngine id h).vfres = s.vfres := rfl
@[simp] theorem updEngine_pitches (s : State) (id : Nat) (h : Engine → Engine) : (s.updEngine id h).pitches = s.pitches := rfl
@[simp] theorem updEngine_ports (s : State) (id : Nat) (h : Engine → Engine) : (s.updEngine id h).ports = s.ports := rfl
@[simp] theorem updEngine_links (s : State) (id : Nat) (h : Engine → Engine) : (s.updEngine id h).links = s.links := rfl
@[simp] theorem updEngine_frames (s : State) (id : Nat) (h : Engine → Engine) : (s.updEngine id h).frames = s.frames := rfl
@[simp] theorem updEngine_frameSeq (s : State) (id : Nat) (h : Engine → Engine) : (s.updEngine id h).frameSeq = s.frameSeq := rfl
@[simp] theorem updEngine_sent (s : State) (id : Nat) (h : Engine → Engine) : (s.updEngine id h).sent = s.sent := rfl
@[simp] theorem updEngine_unacked (s : State) (id : Nat) (h : Engine → Engine) : (s.updEngine id h).unacked = s.unacked := rfl
@[simp] theorem updEngine_acks (s : State) (id : Nat) (h : Engine → Engine) : (s.updEngine id h).acks = s.acks := rfl
@[simp] theorem updEngine_broken (s : State) (id : Nat) (h : Engine → Engine) : (s.updEngine id h).broken = s.broken := rfl
@[simp] theorem updEngine_buffered (s : State) (id : Nat) (h : Engine → Engine) : (s.updEngine id h).buffered = s.buffered := rfl
@[simp] theorem updEngine_sendReports (s : State) (id : Nat) (h : Engine → Engine) : (s.updEngine id h).sendReports = s.sendReports := rfl
@[simp] theorem updEngine_replies (s : State) (id : Nat) (h : Engine → Engine) : (s.updEngine id h).replies = s.replies := rfl
@[simp] theorem updEngine_chipid (s : State) (id : Nat) (h : Engine → Engine) : (s.updEngine id h).chipid = s.chipid := rfl
@[simp] theorem updEngine_mesh (s : State) (id : Nat) (h : Engine → Engine) : (s.updEngine id h).mesh = s.mesh := rfl
@[simp] theorem updEngine_contexts (s : State) (id : Nat) (h : Engine → Engine) : (s.updEngine id h).contexts = s.contexts := rfl
@[simp] theorem updEngine_queues (s : State) (id : Nat) (h : Engine → Engine) : (s.updEngine id h).queues = s.queues := rfl
@[simp] theorem updEngine_kernels (s : State) (id : Nat) (h : Engine → Engine) : (s.updEngine id h).kernels = s.kernels := rfl
@[simp] theorem updEngine_graphs (s : State) (id : Nat) (h : Engine → Engine) : (s.updEngine id h).graphs = s.graphs := rfl
@[simp] theorem updEngine_blocks (s : State) (id : Nat) (h : Engine → Engine) : (s.updEngine id h).blocks = s.blocks := rfl
@[simp] theorem updEngine_groups (s : State) (id : Nat) (h : Engine → Engine) : (s.updEngine id h).groups = s.groups := rfl
@[simp] theorem updEngine_phases (s : State) (id : Nat) (h : Engine → Engine) : (s.updEngine id h).phases = s.phases := rfl
@[simp] theorem updEngine_phaseReports (s : State) (id : Nat) (h : Engine → Engine) : (s.updEngine id h).phaseReports = s.phaseReports := rfl
@[simp] theorem updEngine_nextOrder (s : State) (id : Nat) (h : Engine → Engine) : (s.updEngine id h).nextOrder = s.nextOrder := rfl
@[simp] theorem updEngine_governed (s : State) (id : Nat) (h : Engine → Engine) : (s.updEngine id h).governed = s.governed := rfl
@[simp] theorem updEngine_tiles (s : State) (id : Nat) (h : Engine → Engine) : (s.updEngine id h).tiles = s.tiles := rfl
@[simp] theorem updEngine_gens (s : State) (id : Nat) (h : Engine → Engine) : (s.updEngine id h).gens = s.gens := rfl
@[simp] theorem updEngine_locks (s : State) (id : Nat) (h : Engine → Engine) : (s.updEngine id h).locks = s.locks := rfl
@[simp] theorem updEngine_nextEngine (s : State) (id : Nat) (h : Engine → Engine) : (s.updEngine id h).nextEngine = s.nextEngine := rfl
@[simp] theorem updEngine_stragglers (s : State) (id : Nat) (h : Engine → Engine) : (s.updEngine id h).stragglers = s.stragglers := rfl
@[simp] theorem updEngine_loopBufs (s : State) (id : Nat) (h : Engine → Engine) : (s.updEngine id h).loopBufs = s.loopBufs := rfl
@[simp] theorem updEngine_served (s : State) (id : Nat) (h : Engine → Engine) : (s.updEngine id h).served = s.served := rfl
@[simp] theorem updEngine_mem (s : State) (id : Nat) (h : Engine → Engine) : (s.updEngine id h).mem = s.mem := rfl
@[simp] theorem updEngine_hostMem (s : State) (id : Nat) (h : Engine → Engine) : (s.updEngine id h).hostMem = s.hostMem := rfl
@[simp] theorem updEngine_remoteMem (s : State) (id : Nat) (h : Engine → Engine) : (s.updEngine id h).remoteMem = s.remoteMem := rfl
@[simp] theorem updEngine_tags (s : State) (id : Nat) (h : Engine → Engine) : (s.updEngine id h).tags = s.tags := rfl
@[simp] theorem updEngine_marks (s : State) (id : Nat) (h : Engine → Engine) : (s.updEngine id h).marks = s.marks := rfl
@[simp] theorem updEngine_tlb (s : State) (id : Nat) (h : Engine → Engine) : (s.updEngine id h).tlb = s.tlb := rfl
@[simp] theorem updEngine_l1 (s : State) (id : Nat) (h : Engine → Engine) : (s.updEngine id h).l1 = s.l1 := rfl
@[simp] theorem updEngine_wcb (s : State) (id : Nat) (h : Engine → Engine) : (s.updEngine id h).wcb = s.wcb := rfl
@[simp] theorem updEngine_cluster (s : State) (id : Nat) (h : Engine → Engine) : (s.updEngine id h).cluster = s.cluster := rfl
@[simp] theorem updEngine_tracker (s : State) (id : Nat) (h : Engine → Engine) : (s.updEngine id h).tracker = s.tracker := rfl
@[simp] theorem updEngine_vest (s : State) (id : Nat) (h : Engine → Engine) : (s.updEngine id h).vest = s.vest := rfl
@[simp] theorem updEngine_nextVest (s : State) (id : Nat) (h : Engine → Engine) : (s.updEngine id h).nextVest = s.nextVest := rfl
@[simp] theorem updEngine_rings (s : State) (id : Nat) (h : Engine → Engine) : (s.updEngine id h).rings = s.rings := rfl
@[simp] theorem updEngine_reports (s : State) (id : Nat) (h : Engine → Engine) : (s.updEngine id h).reports = s.reports := rfl
@[simp] theorem updEngine_msix (s : State) (id : Nat) (h : Engine → Engine) : (s.updEngine id h).msix = s.msix := rfl
@[simp] theorem updEngine_tensors (s : State) (id : Nat) (h : Engine → Engine) : (s.updEngine id h).tensors = s.tensors := rfl
@[simp] theorem updEngine_descriptors (s : State) (id : Nat) (h : Engine → Engine) : (s.updEngine id h).descriptors = s.descriptors := rfl
@[simp] theorem updEngine_seq (s : State) (id : Nat) (h : Engine → Engine) : (s.updEngine id h).seq = s.seq := rfl
@[simp] theorem updEngine_agenda (s : State) (id : Nat) (h : Engine → Engine) : (s.updEngine id h).agenda = s.agenda := rfl
@[simp] theorem updEngine_cur (s : State) (id : Nat) (h : Engine → Engine) : (s.updEngine id h).cur = s.cur := rfl
@[simp] theorem updEngine_freeCtr (s : State) (id : Nat) (h : Engine → Engine) : (s.updEngine id h).freeCtr = s.freeCtr := rfl
@[simp] theorem dropEngine_start (s : State) (id : Nat) : (s.dropEngine id).start = s.start := rfl
@[simp] theorem dropEngine_failCount (s : State) (id : Nat) : (s.dropEngine id).failCount = s.failCount := rfl
@[simp] theorem dropEngine_startStep (s : State) (id : Nat) : (s.dropEngine id).startStep = s.startStep := rfl
@[simp] theorem dropEngine_starts (s : State) (id : Nat) : (s.dropEngine id).starts = s.starts := rfl
@[simp] theorem dropEngine_paramSet (s : State) (id : Nat) : (s.dropEngine id).paramSet = s.paramSet := rfl
@[simp] theorem dropEngine_paramOk (s : State) (id : Nat) : (s.dropEngine id).paramOk = s.paramOk := rfl
@[simp] theorem dropEngine_fieldsUp (s : State) (id : Nat) : (s.dropEngine id).fieldsUp = s.fieldsUp := rfl
@[simp] theorem dropEngine_railAt (s : State) (id : Nat) : (s.dropEngine id).railAt = s.railAt := rfl
@[simp] theorem dropEngine_image (s : State) (id : Nat) : (s.dropEngine id).image = s.image := rfl
@[simp] theorem dropEngine_fields (s : State) (id : Nat) : (s.dropEngine id).fields = s.fields := rfl
@[simp] theorem dropEngine_ptpns (s : State) (id : Nat) : (s.dropEngine id).ptpns = s.ptpns := rfl
@[simp] theorem dropEngine_ptpSub (s : State) (id : Nat) : (s.dropEngine id).ptpSub = s.ptpSub := rfl
@[simp] theorem dropEngine_captures (s : State) (id : Nat) : (s.dropEngine id).captures = s.captures := rfl
@[simp] theorem dropEngine_missed (s : State) (id : Nat) : (s.dropEngine id).missed = s.missed := rfl
@[simp] theorem dropEngine_log (s : State) (id : Nat) : (s.dropEngine id).log = s.log := rfl
@[simp] theorem dropEngine_logFlushed (s : State) (id : Nat) : (s.dropEngine id).logFlushed = s.logFlushed := rfl
@[simp] theorem dropEngine_flushedAt (s : State) (id : Nat) : (s.dropEngine id).flushedAt = s.flushedAt := rfl
@[simp] theorem dropEngine_portSampled (s : State) (id : Nat) : (s.dropEngine id).portSampled = s.portSampled := rfl
@[simp] theorem dropEngine_mgmtReply (s : State) (id : Nat) : (s.dropEngine id).mgmtReply = s.mgmtReply := rfl
@[simp] theorem dropEngine_keyNumber (s : State) (id : Nat) : (s.dropEngine id).keyNumber = s.keyNumber := rfl
@[simp] theorem dropEngine_parts (s : State) (id : Nat) : (s.dropEngine id).parts = s.parts := rfl
@[simp] theorem dropEngine_partBytes (s : State) (id : Nat) : (s.dropEngine id).partBytes = s.partBytes := rfl
@[simp] theorem dropEngine_stagedParts (s : State) (id : Nat) : (s.dropEngine id).stagedParts = s.stagedParts := rfl
@[simp] theorem dropEngine_slots (s : State) (id : Nat) : (s.dropEngine id).slots = s.slots := rfl
@[simp] theorem dropEngine_stagedSlots (s : State) (id : Nat) : (s.dropEngine id).stagedSlots = s.stagedSlots := rfl
@[simp] theorem dropEngine_ptres (s : State) (id : Nat) : (s.dropEngine id).ptres = s.ptres := rfl
@[simp] theorem dropEngine_vfres (s : State) (id : Nat) : (s.dropEngine id).vfres = s.vfres := rfl
@[simp] theorem dropEngine_pitches (s : State) (id : Nat) : (s.dropEngine id).pitches = s.pitches := rfl
@[simp] theorem dropEngine_ports (s : State) (id : Nat) : (s.dropEngine id).ports = s.ports := rfl
@[simp] theorem dropEngine_links (s : State) (id : Nat) : (s.dropEngine id).links = s.links := rfl
@[simp] theorem dropEngine_frames (s : State) (id : Nat) : (s.dropEngine id).frames = s.frames := rfl
@[simp] theorem dropEngine_frameSeq (s : State) (id : Nat) : (s.dropEngine id).frameSeq = s.frameSeq := rfl
@[simp] theorem dropEngine_sent (s : State) (id : Nat) : (s.dropEngine id).sent = s.sent := rfl
@[simp] theorem dropEngine_unacked (s : State) (id : Nat) : (s.dropEngine id).unacked = s.unacked := rfl
@[simp] theorem dropEngine_acks (s : State) (id : Nat) : (s.dropEngine id).acks = s.acks := rfl
@[simp] theorem dropEngine_broken (s : State) (id : Nat) : (s.dropEngine id).broken = s.broken := rfl
@[simp] theorem dropEngine_buffered (s : State) (id : Nat) : (s.dropEngine id).buffered = s.buffered := rfl
@[simp] theorem dropEngine_sendReports (s : State) (id : Nat) : (s.dropEngine id).sendReports = s.sendReports := rfl
@[simp] theorem dropEngine_replies (s : State) (id : Nat) : (s.dropEngine id).replies = s.replies := rfl
@[simp] theorem dropEngine_chipid (s : State) (id : Nat) : (s.dropEngine id).chipid = s.chipid := rfl
@[simp] theorem dropEngine_mesh (s : State) (id : Nat) : (s.dropEngine id).mesh = s.mesh := rfl
@[simp] theorem dropEngine_contexts (s : State) (id : Nat) : (s.dropEngine id).contexts = s.contexts := rfl
@[simp] theorem dropEngine_queues (s : State) (id : Nat) : (s.dropEngine id).queues = s.queues := rfl
@[simp] theorem dropEngine_kernels (s : State) (id : Nat) : (s.dropEngine id).kernels = s.kernels := rfl
@[simp] theorem dropEngine_graphs (s : State) (id : Nat) : (s.dropEngine id).graphs = s.graphs := rfl
@[simp] theorem dropEngine_blocks (s : State) (id : Nat) : (s.dropEngine id).blocks = s.blocks := rfl
@[simp] theorem dropEngine_groups (s : State) (id : Nat) : (s.dropEngine id).groups = s.groups := rfl
@[simp] theorem dropEngine_phases (s : State) (id : Nat) : (s.dropEngine id).phases = s.phases := rfl
@[simp] theorem dropEngine_phaseReports (s : State) (id : Nat) : (s.dropEngine id).phaseReports = s.phaseReports := rfl
@[simp] theorem dropEngine_nextOrder (s : State) (id : Nat) : (s.dropEngine id).nextOrder = s.nextOrder := rfl
@[simp] theorem dropEngine_governed (s : State) (id : Nat) : (s.dropEngine id).governed = s.governed := rfl
@[simp] theorem dropEngine_tiles (s : State) (id : Nat) : (s.dropEngine id).tiles = s.tiles := rfl
@[simp] theorem dropEngine_gens (s : State) (id : Nat) : (s.dropEngine id).gens = s.gens := rfl
@[simp] theorem dropEngine_locks (s : State) (id : Nat) : (s.dropEngine id).locks = s.locks := rfl
@[simp] theorem dropEngine_nextEngine (s : State) (id : Nat) : (s.dropEngine id).nextEngine = s.nextEngine := rfl
@[simp] theorem dropEngine_stragglers (s : State) (id : Nat) : (s.dropEngine id).stragglers = s.stragglers := rfl
@[simp] theorem dropEngine_loopBufs (s : State) (id : Nat) : (s.dropEngine id).loopBufs = s.loopBufs := rfl
@[simp] theorem dropEngine_served (s : State) (id : Nat) : (s.dropEngine id).served = s.served := rfl
@[simp] theorem dropEngine_mem (s : State) (id : Nat) : (s.dropEngine id).mem = s.mem := rfl
@[simp] theorem dropEngine_hostMem (s : State) (id : Nat) : (s.dropEngine id).hostMem = s.hostMem := rfl
@[simp] theorem dropEngine_remoteMem (s : State) (id : Nat) : (s.dropEngine id).remoteMem = s.remoteMem := rfl
@[simp] theorem dropEngine_tags (s : State) (id : Nat) : (s.dropEngine id).tags = s.tags := rfl
@[simp] theorem dropEngine_marks (s : State) (id : Nat) : (s.dropEngine id).marks = s.marks := rfl
@[simp] theorem dropEngine_tlb (s : State) (id : Nat) : (s.dropEngine id).tlb = s.tlb := rfl
@[simp] theorem dropEngine_l1 (s : State) (id : Nat) : (s.dropEngine id).l1 = s.l1 := rfl
@[simp] theorem dropEngine_wcb (s : State) (id : Nat) : (s.dropEngine id).wcb = s.wcb := rfl
@[simp] theorem dropEngine_cluster (s : State) (id : Nat) : (s.dropEngine id).cluster = s.cluster := rfl
@[simp] theorem dropEngine_tracker (s : State) (id : Nat) : (s.dropEngine id).tracker = s.tracker := rfl
@[simp] theorem dropEngine_vest (s : State) (id : Nat) : (s.dropEngine id).vest = s.vest := rfl
@[simp] theorem dropEngine_nextVest (s : State) (id : Nat) : (s.dropEngine id).nextVest = s.nextVest := rfl
@[simp] theorem dropEngine_rings (s : State) (id : Nat) : (s.dropEngine id).rings = s.rings := rfl
@[simp] theorem dropEngine_reports (s : State) (id : Nat) : (s.dropEngine id).reports = s.reports := rfl
@[simp] theorem dropEngine_msix (s : State) (id : Nat) : (s.dropEngine id).msix = s.msix := rfl
@[simp] theorem dropEngine_tensors (s : State) (id : Nat) : (s.dropEngine id).tensors = s.tensors := rfl
@[simp] theorem dropEngine_descriptors (s : State) (id : Nat) : (s.dropEngine id).descriptors = s.descriptors := rfl
@[simp] theorem dropEngine_seq (s : State) (id : Nat) : (s.dropEngine id).seq = s.seq := rfl
@[simp] theorem dropEngine_agenda (s : State) (id : Nat) : (s.dropEngine id).agenda = s.agenda := rfl
@[simp] theorem dropEngine_cur (s : State) (id : Nat) : (s.dropEngine id).cur = s.cur := rfl
@[simp] theorem dropEngine_freeCtr (s : State) (id : Nat) : (s.dropEngine id).freeCtr = s.freeCtr := rfl
@[simp] theorem updGraph_start (s : State) (ctx : Nat) (b : DWord) (h : Graph → Graph) : (s.updGraph ctx b h).start = s.start := rfl
@[simp] theorem updGraph_failCount (s : State) (ctx : Nat) (b : DWord) (h : Graph → Graph) : (s.updGraph ctx b h).failCount = s.failCount := rfl
@[simp] theorem updGraph_startStep (s : State) (ctx : Nat) (b : DWord) (h : Graph → Graph) : (s.updGraph ctx b h).startStep = s.startStep := rfl
@[simp] theorem updGraph_starts (s : State) (ctx : Nat) (b : DWord) (h : Graph → Graph) : (s.updGraph ctx b h).starts = s.starts := rfl
@[simp] theorem updGraph_paramSet (s : State) (ctx : Nat) (b : DWord) (h : Graph → Graph) : (s.updGraph ctx b h).paramSet = s.paramSet := rfl
@[simp] theorem updGraph_paramOk (s : State) (ctx : Nat) (b : DWord) (h : Graph → Graph) : (s.updGraph ctx b h).paramOk = s.paramOk := rfl
@[simp] theorem updGraph_fieldsUp (s : State) (ctx : Nat) (b : DWord) (h : Graph → Graph) : (s.updGraph ctx b h).fieldsUp = s.fieldsUp := rfl
@[simp] theorem updGraph_railAt (s : State) (ctx : Nat) (b : DWord) (h : Graph → Graph) : (s.updGraph ctx b h).railAt = s.railAt := rfl
@[simp] theorem updGraph_image (s : State) (ctx : Nat) (b : DWord) (h : Graph → Graph) : (s.updGraph ctx b h).image = s.image := rfl
@[simp] theorem updGraph_fields (s : State) (ctx : Nat) (b : DWord) (h : Graph → Graph) : (s.updGraph ctx b h).fields = s.fields := rfl
@[simp] theorem updGraph_ptpns (s : State) (ctx : Nat) (b : DWord) (h : Graph → Graph) : (s.updGraph ctx b h).ptpns = s.ptpns := rfl
@[simp] theorem updGraph_ptpSub (s : State) (ctx : Nat) (b : DWord) (h : Graph → Graph) : (s.updGraph ctx b h).ptpSub = s.ptpSub := rfl
@[simp] theorem updGraph_captures (s : State) (ctx : Nat) (b : DWord) (h : Graph → Graph) : (s.updGraph ctx b h).captures = s.captures := rfl
@[simp] theorem updGraph_missed (s : State) (ctx : Nat) (b : DWord) (h : Graph → Graph) : (s.updGraph ctx b h).missed = s.missed := rfl
@[simp] theorem updGraph_log (s : State) (ctx : Nat) (b : DWord) (h : Graph → Graph) : (s.updGraph ctx b h).log = s.log := rfl
@[simp] theorem updGraph_logFlushed (s : State) (ctx : Nat) (b : DWord) (h : Graph → Graph) : (s.updGraph ctx b h).logFlushed = s.logFlushed := rfl
@[simp] theorem updGraph_flushedAt (s : State) (ctx : Nat) (b : DWord) (h : Graph → Graph) : (s.updGraph ctx b h).flushedAt = s.flushedAt := rfl
@[simp] theorem updGraph_portSampled (s : State) (ctx : Nat) (b : DWord) (h : Graph → Graph) : (s.updGraph ctx b h).portSampled = s.portSampled := rfl
@[simp] theorem updGraph_mgmtReply (s : State) (ctx : Nat) (b : DWord) (h : Graph → Graph) : (s.updGraph ctx b h).mgmtReply = s.mgmtReply := rfl
@[simp] theorem updGraph_keyNumber (s : State) (ctx : Nat) (b : DWord) (h : Graph → Graph) : (s.updGraph ctx b h).keyNumber = s.keyNumber := rfl
@[simp] theorem updGraph_parts (s : State) (ctx : Nat) (b : DWord) (h : Graph → Graph) : (s.updGraph ctx b h).parts = s.parts := rfl
@[simp] theorem updGraph_partBytes (s : State) (ctx : Nat) (b : DWord) (h : Graph → Graph) : (s.updGraph ctx b h).partBytes = s.partBytes := rfl
@[simp] theorem updGraph_stagedParts (s : State) (ctx : Nat) (b : DWord) (h : Graph → Graph) : (s.updGraph ctx b h).stagedParts = s.stagedParts := rfl
@[simp] theorem updGraph_slots (s : State) (ctx : Nat) (b : DWord) (h : Graph → Graph) : (s.updGraph ctx b h).slots = s.slots := rfl
@[simp] theorem updGraph_stagedSlots (s : State) (ctx : Nat) (b : DWord) (h : Graph → Graph) : (s.updGraph ctx b h).stagedSlots = s.stagedSlots := rfl
@[simp] theorem updGraph_ptres (s : State) (ctx : Nat) (b : DWord) (h : Graph → Graph) : (s.updGraph ctx b h).ptres = s.ptres := rfl
@[simp] theorem updGraph_vfres (s : State) (ctx : Nat) (b : DWord) (h : Graph → Graph) : (s.updGraph ctx b h).vfres = s.vfres := rfl
@[simp] theorem updGraph_pitches (s : State) (ctx : Nat) (b : DWord) (h : Graph → Graph) : (s.updGraph ctx b h).pitches = s.pitches := rfl
@[simp] theorem updGraph_ports (s : State) (ctx : Nat) (b : DWord) (h : Graph → Graph) : (s.updGraph ctx b h).ports = s.ports := rfl
@[simp] theorem updGraph_links (s : State) (ctx : Nat) (b : DWord) (h : Graph → Graph) : (s.updGraph ctx b h).links = s.links := rfl
@[simp] theorem updGraph_frames (s : State) (ctx : Nat) (b : DWord) (h : Graph → Graph) : (s.updGraph ctx b h).frames = s.frames := rfl
@[simp] theorem updGraph_frameSeq (s : State) (ctx : Nat) (b : DWord) (h : Graph → Graph) : (s.updGraph ctx b h).frameSeq = s.frameSeq := rfl
@[simp] theorem updGraph_sent (s : State) (ctx : Nat) (b : DWord) (h : Graph → Graph) : (s.updGraph ctx b h).sent = s.sent := rfl
@[simp] theorem updGraph_unacked (s : State) (ctx : Nat) (b : DWord) (h : Graph → Graph) : (s.updGraph ctx b h).unacked = s.unacked := rfl
@[simp] theorem updGraph_acks (s : State) (ctx : Nat) (b : DWord) (h : Graph → Graph) : (s.updGraph ctx b h).acks = s.acks := rfl
@[simp] theorem updGraph_broken (s : State) (ctx : Nat) (b : DWord) (h : Graph → Graph) : (s.updGraph ctx b h).broken = s.broken := rfl
@[simp] theorem updGraph_buffered (s : State) (ctx : Nat) (b : DWord) (h : Graph → Graph) : (s.updGraph ctx b h).buffered = s.buffered := rfl
@[simp] theorem updGraph_sendReports (s : State) (ctx : Nat) (b : DWord) (h : Graph → Graph) : (s.updGraph ctx b h).sendReports = s.sendReports := rfl
@[simp] theorem updGraph_replies (s : State) (ctx : Nat) (b : DWord) (h : Graph → Graph) : (s.updGraph ctx b h).replies = s.replies := rfl
@[simp] theorem updGraph_chipid (s : State) (ctx : Nat) (b : DWord) (h : Graph → Graph) : (s.updGraph ctx b h).chipid = s.chipid := rfl
@[simp] theorem updGraph_mesh (s : State) (ctx : Nat) (b : DWord) (h : Graph → Graph) : (s.updGraph ctx b h).mesh = s.mesh := rfl
@[simp] theorem updGraph_contexts (s : State) (ctx : Nat) (b : DWord) (h : Graph → Graph) : (s.updGraph ctx b h).contexts = s.contexts := rfl
@[simp] theorem updGraph_queues (s : State) (ctx : Nat) (b : DWord) (h : Graph → Graph) : (s.updGraph ctx b h).queues = s.queues := rfl
@[simp] theorem updGraph_kernels (s : State) (ctx : Nat) (b : DWord) (h : Graph → Graph) : (s.updGraph ctx b h).kernels = s.kernels := rfl
@[simp] theorem updGraph_blocks (s : State) (ctx : Nat) (b : DWord) (h : Graph → Graph) : (s.updGraph ctx b h).blocks = s.blocks := rfl
@[simp] theorem updGraph_groups (s : State) (ctx : Nat) (b : DWord) (h : Graph → Graph) : (s.updGraph ctx b h).groups = s.groups := rfl
@[simp] theorem updGraph_phases (s : State) (ctx : Nat) (b : DWord) (h : Graph → Graph) : (s.updGraph ctx b h).phases = s.phases := rfl
@[simp] theorem updGraph_phaseReports (s : State) (ctx : Nat) (b : DWord) (h : Graph → Graph) : (s.updGraph ctx b h).phaseReports = s.phaseReports := rfl
@[simp] theorem updGraph_nextOrder (s : State) (ctx : Nat) (b : DWord) (h : Graph → Graph) : (s.updGraph ctx b h).nextOrder = s.nextOrder := rfl
@[simp] theorem updGraph_governed (s : State) (ctx : Nat) (b : DWord) (h : Graph → Graph) : (s.updGraph ctx b h).governed = s.governed := rfl
@[simp] theorem updGraph_tiles (s : State) (ctx : Nat) (b : DWord) (h : Graph → Graph) : (s.updGraph ctx b h).tiles = s.tiles := rfl
@[simp] theorem updGraph_gens (s : State) (ctx : Nat) (b : DWord) (h : Graph → Graph) : (s.updGraph ctx b h).gens = s.gens := rfl
@[simp] theorem updGraph_locks (s : State) (ctx : Nat) (b : DWord) (h : Graph → Graph) : (s.updGraph ctx b h).locks = s.locks := rfl
@[simp] theorem updGraph_engines (s : State) (ctx : Nat) (b : DWord) (h : Graph → Graph) : (s.updGraph ctx b h).engines = s.engines := rfl
@[simp] theorem updGraph_nextEngine (s : State) (ctx : Nat) (b : DWord) (h : Graph → Graph) : (s.updGraph ctx b h).nextEngine = s.nextEngine := rfl
@[simp] theorem updGraph_stragglers (s : State) (ctx : Nat) (b : DWord) (h : Graph → Graph) : (s.updGraph ctx b h).stragglers = s.stragglers := rfl
@[simp] theorem updGraph_loopBufs (s : State) (ctx : Nat) (b : DWord) (h : Graph → Graph) : (s.updGraph ctx b h).loopBufs = s.loopBufs := rfl
@[simp] theorem updGraph_served (s : State) (ctx : Nat) (b : DWord) (h : Graph → Graph) : (s.updGraph ctx b h).served = s.served := rfl
@[simp] theorem updGraph_mem (s : State) (ctx : Nat) (b : DWord) (h : Graph → Graph) : (s.updGraph ctx b h).mem = s.mem := rfl
@[simp] theorem updGraph_hostMem (s : State) (ctx : Nat) (b : DWord) (h : Graph → Graph) : (s.updGraph ctx b h).hostMem = s.hostMem := rfl
@[simp] theorem updGraph_remoteMem (s : State) (ctx : Nat) (b : DWord) (h : Graph → Graph) : (s.updGraph ctx b h).remoteMem = s.remoteMem := rfl
@[simp] theorem updGraph_tags (s : State) (ctx : Nat) (b : DWord) (h : Graph → Graph) : (s.updGraph ctx b h).tags = s.tags := rfl
@[simp] theorem updGraph_marks (s : State) (ctx : Nat) (b : DWord) (h : Graph → Graph) : (s.updGraph ctx b h).marks = s.marks := rfl
@[simp] theorem updGraph_tlb (s : State) (ctx : Nat) (b : DWord) (h : Graph → Graph) : (s.updGraph ctx b h).tlb = s.tlb := rfl
@[simp] theorem updGraph_l1 (s : State) (ctx : Nat) (b : DWord) (h : Graph → Graph) : (s.updGraph ctx b h).l1 = s.l1 := rfl
@[simp] theorem updGraph_wcb (s : State) (ctx : Nat) (b : DWord) (h : Graph → Graph) : (s.updGraph ctx b h).wcb = s.wcb := rfl
@[simp] theorem updGraph_cluster (s : State) (ctx : Nat) (b : DWord) (h : Graph → Graph) : (s.updGraph ctx b h).cluster = s.cluster := rfl
@[simp] theorem updGraph_tracker (s : State) (ctx : Nat) (b : DWord) (h : Graph → Graph) : (s.updGraph ctx b h).tracker = s.tracker := rfl
@[simp] theorem updGraph_vest (s : State) (ctx : Nat) (b : DWord) (h : Graph → Graph) : (s.updGraph ctx b h).vest = s.vest := rfl
@[simp] theorem updGraph_nextVest (s : State) (ctx : Nat) (b : DWord) (h : Graph → Graph) : (s.updGraph ctx b h).nextVest = s.nextVest := rfl
@[simp] theorem updGraph_rings (s : State) (ctx : Nat) (b : DWord) (h : Graph → Graph) : (s.updGraph ctx b h).rings = s.rings := rfl
@[simp] theorem updGraph_reports (s : State) (ctx : Nat) (b : DWord) (h : Graph → Graph) : (s.updGraph ctx b h).reports = s.reports := rfl
@[simp] theorem updGraph_msix (s : State) (ctx : Nat) (b : DWord) (h : Graph → Graph) : (s.updGraph ctx b h).msix = s.msix := rfl
@[simp] theorem updGraph_tensors (s : State) (ctx : Nat) (b : DWord) (h : Graph → Graph) : (s.updGraph ctx b h).tensors = s.tensors := rfl
@[simp] theorem updGraph_descriptors (s : State) (ctx : Nat) (b : DWord) (h : Graph → Graph) : (s.updGraph ctx b h).descriptors = s.descriptors := rfl
@[simp] theorem updGraph_seq (s : State) (ctx : Nat) (b : DWord) (h : Graph → Graph) : (s.updGraph ctx b h).seq = s.seq := rfl
@[simp] theorem updGraph_agenda (s : State) (ctx : Nat) (b : DWord) (h : Graph → Graph) : (s.updGraph ctx b h).agenda = s.agenda := rfl
@[simp] theorem updGraph_cur (s : State) (ctx : Nat) (b : DWord) (h : Graph → Graph) : (s.updGraph ctx b h).cur = s.cur := rfl
@[simp] theorem updGraph_freeCtr (s : State) (ctx : Nat) (b : DWord) (h : Graph → Graph) : (s.updGraph ctx b h).freeCtr = s.freeCtr := rfl
@[simp] theorem updTensor_start (s : State) (p tid : Nat) (h : Tensor → Tensor) : (s.updTensor p tid h).start = s.start := rfl
@[simp] theorem updTensor_failCount (s : State) (p tid : Nat) (h : Tensor → Tensor) : (s.updTensor p tid h).failCount = s.failCount := rfl
@[simp] theorem updTensor_startStep (s : State) (p tid : Nat) (h : Tensor → Tensor) : (s.updTensor p tid h).startStep = s.startStep := rfl
@[simp] theorem updTensor_starts (s : State) (p tid : Nat) (h : Tensor → Tensor) : (s.updTensor p tid h).starts = s.starts := rfl
@[simp] theorem updTensor_paramSet (s : State) (p tid : Nat) (h : Tensor → Tensor) : (s.updTensor p tid h).paramSet = s.paramSet := rfl
@[simp] theorem updTensor_paramOk (s : State) (p tid : Nat) (h : Tensor → Tensor) : (s.updTensor p tid h).paramOk = s.paramOk := rfl
@[simp] theorem updTensor_fieldsUp (s : State) (p tid : Nat) (h : Tensor → Tensor) : (s.updTensor p tid h).fieldsUp = s.fieldsUp := rfl
@[simp] theorem updTensor_railAt (s : State) (p tid : Nat) (h : Tensor → Tensor) : (s.updTensor p tid h).railAt = s.railAt := rfl
@[simp] theorem updTensor_image (s : State) (p tid : Nat) (h : Tensor → Tensor) : (s.updTensor p tid h).image = s.image := rfl
@[simp] theorem updTensor_fields (s : State) (p tid : Nat) (h : Tensor → Tensor) : (s.updTensor p tid h).fields = s.fields := rfl
@[simp] theorem updTensor_ptpns (s : State) (p tid : Nat) (h : Tensor → Tensor) : (s.updTensor p tid h).ptpns = s.ptpns := rfl
@[simp] theorem updTensor_ptpSub (s : State) (p tid : Nat) (h : Tensor → Tensor) : (s.updTensor p tid h).ptpSub = s.ptpSub := rfl
@[simp] theorem updTensor_captures (s : State) (p tid : Nat) (h : Tensor → Tensor) : (s.updTensor p tid h).captures = s.captures := rfl
@[simp] theorem updTensor_missed (s : State) (p tid : Nat) (h : Tensor → Tensor) : (s.updTensor p tid h).missed = s.missed := rfl
@[simp] theorem updTensor_log (s : State) (p tid : Nat) (h : Tensor → Tensor) : (s.updTensor p tid h).log = s.log := rfl
@[simp] theorem updTensor_logFlushed (s : State) (p tid : Nat) (h : Tensor → Tensor) : (s.updTensor p tid h).logFlushed = s.logFlushed := rfl
@[simp] theorem updTensor_flushedAt (s : State) (p tid : Nat) (h : Tensor → Tensor) : (s.updTensor p tid h).flushedAt = s.flushedAt := rfl
@[simp] theorem updTensor_portSampled (s : State) (p tid : Nat) (h : Tensor → Tensor) : (s.updTensor p tid h).portSampled = s.portSampled := rfl
@[simp] theorem updTensor_mgmtReply (s : State) (p tid : Nat) (h : Tensor → Tensor) : (s.updTensor p tid h).mgmtReply = s.mgmtReply := rfl
@[simp] theorem updTensor_keyNumber (s : State) (p tid : Nat) (h : Tensor → Tensor) : (s.updTensor p tid h).keyNumber = s.keyNumber := rfl
@[simp] theorem updTensor_parts (s : State) (p tid : Nat) (h : Tensor → Tensor) : (s.updTensor p tid h).parts = s.parts := rfl
@[simp] theorem updTensor_partBytes (s : State) (p tid : Nat) (h : Tensor → Tensor) : (s.updTensor p tid h).partBytes = s.partBytes := rfl
@[simp] theorem updTensor_stagedParts (s : State) (p tid : Nat) (h : Tensor → Tensor) : (s.updTensor p tid h).stagedParts = s.stagedParts := rfl
@[simp] theorem updTensor_slots (s : State) (p tid : Nat) (h : Tensor → Tensor) : (s.updTensor p tid h).slots = s.slots := rfl
@[simp] theorem updTensor_stagedSlots (s : State) (p tid : Nat) (h : Tensor → Tensor) : (s.updTensor p tid h).stagedSlots = s.stagedSlots := rfl
@[simp] theorem updTensor_ptres (s : State) (p tid : Nat) (h : Tensor → Tensor) : (s.updTensor p tid h).ptres = s.ptres := rfl
@[simp] theorem updTensor_vfres (s : State) (p tid : Nat) (h : Tensor → Tensor) : (s.updTensor p tid h).vfres = s.vfres := rfl
@[simp] theorem updTensor_pitches (s : State) (p tid : Nat) (h : Tensor → Tensor) : (s.updTensor p tid h).pitches = s.pitches := rfl
@[simp] theorem updTensor_ports (s : State) (p tid : Nat) (h : Tensor → Tensor) : (s.updTensor p tid h).ports = s.ports := rfl
@[simp] theorem updTensor_links (s : State) (p tid : Nat) (h : Tensor → Tensor) : (s.updTensor p tid h).links = s.links := rfl
@[simp] theorem updTensor_frames (s : State) (p tid : Nat) (h : Tensor → Tensor) : (s.updTensor p tid h).frames = s.frames := rfl
@[simp] theorem updTensor_frameSeq (s : State) (p tid : Nat) (h : Tensor → Tensor) : (s.updTensor p tid h).frameSeq = s.frameSeq := rfl
@[simp] theorem updTensor_sent (s : State) (p tid : Nat) (h : Tensor → Tensor) : (s.updTensor p tid h).sent = s.sent := rfl
@[simp] theorem updTensor_unacked (s : State) (p tid : Nat) (h : Tensor → Tensor) : (s.updTensor p tid h).unacked = s.unacked := rfl
@[simp] theorem updTensor_acks (s : State) (p tid : Nat) (h : Tensor → Tensor) : (s.updTensor p tid h).acks = s.acks := rfl
@[simp] theorem updTensor_broken (s : State) (p tid : Nat) (h : Tensor → Tensor) : (s.updTensor p tid h).broken = s.broken := rfl
@[simp] theorem updTensor_buffered (s : State) (p tid : Nat) (h : Tensor → Tensor) : (s.updTensor p tid h).buffered = s.buffered := rfl
@[simp] theorem updTensor_sendReports (s : State) (p tid : Nat) (h : Tensor → Tensor) : (s.updTensor p tid h).sendReports = s.sendReports := rfl
@[simp] theorem updTensor_replies (s : State) (p tid : Nat) (h : Tensor → Tensor) : (s.updTensor p tid h).replies = s.replies := rfl
@[simp] theorem updTensor_chipid (s : State) (p tid : Nat) (h : Tensor → Tensor) : (s.updTensor p tid h).chipid = s.chipid := rfl
@[simp] theorem updTensor_mesh (s : State) (p tid : Nat) (h : Tensor → Tensor) : (s.updTensor p tid h).mesh = s.mesh := rfl
@[simp] theorem updTensor_contexts (s : State) (p tid : Nat) (h : Tensor → Tensor) : (s.updTensor p tid h).contexts = s.contexts := rfl
@[simp] theorem updTensor_queues (s : State) (p tid : Nat) (h : Tensor → Tensor) : (s.updTensor p tid h).queues = s.queues := rfl
@[simp] theorem updTensor_kernels (s : State) (p tid : Nat) (h : Tensor → Tensor) : (s.updTensor p tid h).kernels = s.kernels := rfl
@[simp] theorem updTensor_graphs (s : State) (p tid : Nat) (h : Tensor → Tensor) : (s.updTensor p tid h).graphs = s.graphs := rfl
@[simp] theorem updTensor_blocks (s : State) (p tid : Nat) (h : Tensor → Tensor) : (s.updTensor p tid h).blocks = s.blocks := rfl
@[simp] theorem updTensor_groups (s : State) (p tid : Nat) (h : Tensor → Tensor) : (s.updTensor p tid h).groups = s.groups := rfl
@[simp] theorem updTensor_phases (s : State) (p tid : Nat) (h : Tensor → Tensor) : (s.updTensor p tid h).phases = s.phases := rfl
@[simp] theorem updTensor_phaseReports (s : State) (p tid : Nat) (h : Tensor → Tensor) : (s.updTensor p tid h).phaseReports = s.phaseReports := rfl
@[simp] theorem updTensor_nextOrder (s : State) (p tid : Nat) (h : Tensor → Tensor) : (s.updTensor p tid h).nextOrder = s.nextOrder := rfl
@[simp] theorem updTensor_governed (s : State) (p tid : Nat) (h : Tensor → Tensor) : (s.updTensor p tid h).governed = s.governed := rfl
@[simp] theorem updTensor_tiles (s : State) (p tid : Nat) (h : Tensor → Tensor) : (s.updTensor p tid h).tiles = s.tiles := rfl
@[simp] theorem updTensor_gens (s : State) (p tid : Nat) (h : Tensor → Tensor) : (s.updTensor p tid h).gens = s.gens := rfl
@[simp] theorem updTensor_locks (s : State) (p tid : Nat) (h : Tensor → Tensor) : (s.updTensor p tid h).locks = s.locks := rfl
@[simp] theorem updTensor_engines (s : State) (p tid : Nat) (h : Tensor → Tensor) : (s.updTensor p tid h).engines = s.engines := rfl
@[simp] theorem updTensor_nextEngine (s : State) (p tid : Nat) (h : Tensor → Tensor) : (s.updTensor p tid h).nextEngine = s.nextEngine := rfl
@[simp] theorem updTensor_stragglers (s : State) (p tid : Nat) (h : Tensor → Tensor) : (s.updTensor p tid h).stragglers = s.stragglers := rfl
@[simp] theorem updTensor_loopBufs (s : State) (p tid : Nat) (h : Tensor → Tensor) : (s.updTensor p tid h).loopBufs = s.loopBufs := rfl
@[simp] theorem updTensor_served (s : State) (p tid : Nat) (h : Tensor → Tensor) : (s.updTensor p tid h).served = s.served := rfl
@[simp] theorem updTensor_mem (s : State) (p tid : Nat) (h : Tensor → Tensor) : (s.updTensor p tid h).mem = s.mem := rfl
@[simp] theorem updTensor_hostMem (s : State) (p tid : Nat) (h : Tensor → Tensor) : (s.updTensor p tid h).hostMem = s.hostMem := rfl
@[simp] theorem updTensor_remoteMem (s : State) (p tid : Nat) (h : Tensor → Tensor) : (s.updTensor p tid h).remoteMem = s.remoteMem := rfl
@[simp] theorem updTensor_tags (s : State) (p tid : Nat) (h : Tensor → Tensor) : (s.updTensor p tid h).tags = s.tags := rfl
@[simp] theorem updTensor_marks (s : State) (p tid : Nat) (h : Tensor → Tensor) : (s.updTensor p tid h).marks = s.marks := rfl
@[simp] theorem updTensor_tlb (s : State) (p tid : Nat) (h : Tensor → Tensor) : (s.updTensor p tid h).tlb = s.tlb := rfl
@[simp] theorem updTensor_l1 (s : State) (p tid : Nat) (h : Tensor → Tensor) : (s.updTensor p tid h).l1 = s.l1 := rfl
@[simp] theorem updTensor_wcb (s : State) (p tid : Nat) (h : Tensor → Tensor) : (s.updTensor p tid h).wcb = s.wcb := rfl
@[simp] theorem updTensor_cluster (s : State) (p tid : Nat) (h : Tensor → Tensor) : (s.updTensor p tid h).cluster = s.cluster := rfl
@[simp] theorem updTensor_tracker (s : State) (p tid : Nat) (h : Tensor → Tensor) : (s.updTensor p tid h).tracker = s.tracker := rfl
@[simp] theorem updTensor_vest (s : State) (p tid : Nat) (h : Tensor → Tensor) : (s.updTensor p tid h).vest = s.vest := rfl
@[simp] theorem updTensor_nextVest (s : State) (p tid : Nat) (h : Tensor → Tensor) : (s.updTensor p tid h).nextVest = s.nextVest := rfl
@[simp] theorem updTensor_rings (s : State) (p tid : Nat) (h : Tensor → Tensor) : (s.updTensor p tid h).rings = s.rings := rfl
@[simp] theorem updTensor_reports (s : State) (p tid : Nat) (h : Tensor → Tensor) : (s.updTensor p tid h).reports = s.reports := rfl
@[simp] theorem updTensor_msix (s : State) (p tid : Nat) (h : Tensor → Tensor) : (s.updTensor p tid h).msix = s.msix := rfl
@[simp] theorem updTensor_descriptors (s : State) (p tid : Nat) (h : Tensor → Tensor) : (s.updTensor p tid h).descriptors = s.descriptors := rfl
@[simp] theorem updTensor_seq (s : State) (p tid : Nat) (h : Tensor → Tensor) : (s.updTensor p tid h).seq = s.seq := rfl
@[simp] theorem updTensor_agenda (s : State) (p tid : Nat) (h : Tensor → Tensor) : (s.updTensor p tid h).agenda = s.agenda := rfl
@[simp] theorem updTensor_cur (s : State) (p tid : Nat) (h : Tensor → Tensor) : (s.updTensor p tid h).cur = s.cur := rfl
@[simp] theorem updTensor_freeCtr (s : State) (p tid : Nat) (h : Tensor → Tensor) : (s.updTensor p tid h).freeCtr = s.freeCtr := rfl
@[simp] theorem setLink_start (s : State) (l : Link) : (s.setLink l).start = s.start := rfl
@[simp] theorem setLink_failCount (s : State) (l : Link) : (s.setLink l).failCount = s.failCount := rfl
@[simp] theorem setLink_startStep (s : State) (l : Link) : (s.setLink l).startStep = s.startStep := rfl
@[simp] theorem setLink_starts (s : State) (l : Link) : (s.setLink l).starts = s.starts := rfl
@[simp] theorem setLink_paramSet (s : State) (l : Link) : (s.setLink l).paramSet = s.paramSet := rfl
@[simp] theorem setLink_paramOk (s : State) (l : Link) : (s.setLink l).paramOk = s.paramOk := rfl
@[simp] theorem setLink_fieldsUp (s : State) (l : Link) : (s.setLink l).fieldsUp = s.fieldsUp := rfl
@[simp] theorem setLink_railAt (s : State) (l : Link) : (s.setLink l).railAt = s.railAt := rfl
@[simp] theorem setLink_image (s : State) (l : Link) : (s.setLink l).image = s.image := rfl
@[simp] theorem setLink_fields (s : State) (l : Link) : (s.setLink l).fields = s.fields := rfl
@[simp] theorem setLink_ptpns (s : State) (l : Link) : (s.setLink l).ptpns = s.ptpns := rfl
@[simp] theorem setLink_ptpSub (s : State) (l : Link) : (s.setLink l).ptpSub = s.ptpSub := rfl
@[simp] theorem setLink_captures (s : State) (l : Link) : (s.setLink l).captures = s.captures := rfl
@[simp] theorem setLink_missed (s : State) (l : Link) : (s.setLink l).missed = s.missed := rfl
@[simp] theorem setLink_log (s : State) (l : Link) : (s.setLink l).log = s.log := rfl
@[simp] theorem setLink_logFlushed (s : State) (l : Link) : (s.setLink l).logFlushed = s.logFlushed := rfl
@[simp] theorem setLink_flushedAt (s : State) (l : Link) : (s.setLink l).flushedAt = s.flushedAt := rfl
@[simp] theorem setLink_portSampled (s : State) (l : Link) : (s.setLink l).portSampled = s.portSampled := rfl
@[simp] theorem setLink_mgmtReply (s : State) (l : Link) : (s.setLink l).mgmtReply = s.mgmtReply := rfl
@[simp] theorem setLink_keyNumber (s : State) (l : Link) : (s.setLink l).keyNumber = s.keyNumber := rfl
@[simp] theorem setLink_parts (s : State) (l : Link) : (s.setLink l).parts = s.parts := rfl
@[simp] theorem setLink_partBytes (s : State) (l : Link) : (s.setLink l).partBytes = s.partBytes := rfl
@[simp] theorem setLink_stagedParts (s : State) (l : Link) : (s.setLink l).stagedParts = s.stagedParts := rfl
@[simp] theorem setLink_slots (s : State) (l : Link) : (s.setLink l).slots = s.slots := rfl
@[simp] theorem setLink_stagedSlots (s : State) (l : Link) : (s.setLink l).stagedSlots = s.stagedSlots := rfl
@[simp] theorem setLink_ptres (s : State) (l : Link) : (s.setLink l).ptres = s.ptres := rfl
@[simp] theorem setLink_vfres (s : State) (l : Link) : (s.setLink l).vfres = s.vfres := rfl
@[simp] theorem setLink_pitches (s : State) (l : Link) : (s.setLink l).pitches = s.pitches := rfl
@[simp] theorem setLink_ports (s : State) (l : Link) : (s.setLink l).ports = s.ports := rfl
@[simp] theorem setLink_frames (s : State) (l : Link) : (s.setLink l).frames = s.frames := rfl
@[simp] theorem setLink_frameSeq (s : State) (l : Link) : (s.setLink l).frameSeq = s.frameSeq := rfl
@[simp] theorem setLink_sent (s : State) (l : Link) : (s.setLink l).sent = s.sent := rfl
@[simp] theorem setLink_unacked (s : State) (l : Link) : (s.setLink l).unacked = s.unacked := rfl
@[simp] theorem setLink_acks (s : State) (l : Link) : (s.setLink l).acks = s.acks := rfl
@[simp] theorem setLink_broken (s : State) (l : Link) : (s.setLink l).broken = s.broken := rfl
@[simp] theorem setLink_buffered (s : State) (l : Link) : (s.setLink l).buffered = s.buffered := rfl
@[simp] theorem setLink_sendReports (s : State) (l : Link) : (s.setLink l).sendReports = s.sendReports := rfl
@[simp] theorem setLink_replies (s : State) (l : Link) : (s.setLink l).replies = s.replies := rfl
@[simp] theorem setLink_chipid (s : State) (l : Link) : (s.setLink l).chipid = s.chipid := rfl
@[simp] theorem setLink_mesh (s : State) (l : Link) : (s.setLink l).mesh = s.mesh := rfl
@[simp] theorem setLink_contexts (s : State) (l : Link) : (s.setLink l).contexts = s.contexts := rfl
@[simp] theorem setLink_queues (s : State) (l : Link) : (s.setLink l).queues = s.queues := rfl
@[simp] theorem setLink_kernels (s : State) (l : Link) : (s.setLink l).kernels = s.kernels := rfl
@[simp] theorem setLink_graphs (s : State) (l : Link) : (s.setLink l).graphs = s.graphs := rfl
@[simp] theorem setLink_blocks (s : State) (l : Link) : (s.setLink l).blocks = s.blocks := rfl
@[simp] theorem setLink_groups (s : State) (l : Link) : (s.setLink l).groups = s.groups := rfl
@[simp] theorem setLink_phases (s : State) (l : Link) : (s.setLink l).phases = s.phases := rfl
@[simp] theorem setLink_phaseReports (s : State) (l : Link) : (s.setLink l).phaseReports = s.phaseReports := rfl
@[simp] theorem setLink_nextOrder (s : State) (l : Link) : (s.setLink l).nextOrder = s.nextOrder := rfl
@[simp] theorem setLink_governed (s : State) (l : Link) : (s.setLink l).governed = s.governed := rfl
@[simp] theorem setLink_tiles (s : State) (l : Link) : (s.setLink l).tiles = s.tiles := rfl
@[simp] theorem setLink_gens (s : State) (l : Link) : (s.setLink l).gens = s.gens := rfl
@[simp] theorem setLink_locks (s : State) (l : Link) : (s.setLink l).locks = s.locks := rfl
@[simp] theorem setLink_engines (s : State) (l : Link) : (s.setLink l).engines = s.engines := rfl
@[simp] theorem setLink_nextEngine (s : State) (l : Link) : (s.setLink l).nextEngine = s.nextEngine := rfl
@[simp] theorem setLink_stragglers (s : State) (l : Link) : (s.setLink l).stragglers = s.stragglers := rfl
@[simp] theorem setLink_loopBufs (s : State) (l : Link) : (s.setLink l).loopBufs = s.loopBufs := rfl
@[simp] theorem setLink_served (s : State) (l : Link) : (s.setLink l).served = s.served := rfl
@[simp] theorem setLink_mem (s : State) (l : Link) : (s.setLink l).mem = s.mem := rfl
@[simp] theorem setLink_hostMem (s : State) (l : Link) : (s.setLink l).hostMem = s.hostMem := rfl
@[simp] theorem setLink_remoteMem (s : State) (l : Link) : (s.setLink l).remoteMem = s.remoteMem := rfl
@[simp] theorem setLink_tags (s : State) (l : Link) : (s.setLink l).tags = s.tags := rfl
@[simp] theorem setLink_marks (s : State) (l : Link) : (s.setLink l).marks = s.marks := rfl
@[simp] theorem setLink_tlb (s : State) (l : Link) : (s.setLink l).tlb = s.tlb := rfl
@[simp] theorem setLink_l1 (s : State) (l : Link) : (s.setLink l).l1 = s.l1 := rfl
@[simp] theorem setLink_wcb (s : State) (l : Link) : (s.setLink l).wcb = s.wcb := rfl
@[simp] theorem setLink_cluster (s : State) (l : Link) : (s.setLink l).cluster = s.cluster := rfl
@[simp] theorem setLink_tracker (s : State) (l : Link) : (s.setLink l).tracker = s.tracker := rfl
@[simp] theorem setLink_vest (s : State) (l : Link) : (s.setLink l).vest = s.vest := rfl
@[simp] theorem setLink_nextVest (s : State) (l : Link) : (s.setLink l).nextVest = s.nextVest := rfl
@[simp] theorem setLink_rings (s : State) (l : Link) : (s.setLink l).rings = s.rings := rfl
@[simp] theorem setLink_reports (s : State) (l : Link) : (s.setLink l).reports = s.reports := rfl
@[simp] theorem setLink_msix (s : State) (l : Link) : (s.setLink l).msix = s.msix := rfl
@[simp] theorem setLink_tensors (s : State) (l : Link) : (s.setLink l).tensors = s.tensors := rfl
@[simp] theorem setLink_descriptors (s : State) (l : Link) : (s.setLink l).descriptors = s.descriptors := rfl
@[simp] theorem setLink_seq (s : State) (l : Link) : (s.setLink l).seq = s.seq := rfl
@[simp] theorem setLink_agenda (s : State) (l : Link) : (s.setLink l).agenda = s.agenda := rfl
@[simp] theorem setLink_cur (s : State) (l : Link) : (s.setLink l).cur = s.cur := rfl
@[simp] theorem setLink_freeCtr (s : State) (l : Link) : (s.setLink l).freeCtr = s.freeCtr := rfl
@[simp] theorem fresh_start (s : State) : (s.fresh).start = s.start := rfl
@[simp] theorem fresh_failCount (s : State) : (s.fresh).failCount = s.failCount := rfl
@[simp] theorem fresh_startStep (s : State) : (s.fresh).startStep = s.startStep := rfl
@[simp] theorem fresh_starts (s : State) : (s.fresh).starts = s.starts := rfl
@[simp] theorem fresh_paramSet (s : State) : (s.fresh).paramSet = s.paramSet := rfl
@[simp] theorem fresh_paramOk (s : State) : (s.fresh).paramOk = s.paramOk := rfl
@[simp] theorem fresh_fieldsUp (s : State) : (s.fresh).fieldsUp = s.fieldsUp := rfl
@[simp] theorem fresh_railAt (s : State) : (s.fresh).railAt = s.railAt := rfl
@[simp] theorem fresh_image (s : State) : (s.fresh).image = s.image := rfl
@[simp] theorem fresh_fields (s : State) : (s.fresh).fields = s.fields := rfl
@[simp] theorem fresh_ptpns (s : State) : (s.fresh).ptpns = s.ptpns := rfl
@[simp] theorem fresh_ptpSub (s : State) : (s.fresh).ptpSub = s.ptpSub := rfl
@[simp] theorem fresh_captures (s : State) : (s.fresh).captures = s.captures := rfl
@[simp] theorem fresh_missed (s : State) : (s.fresh).missed = s.missed := rfl
@[simp] theorem fresh_log (s : State) : (s.fresh).log = s.log := rfl
@[simp] theorem fresh_logFlushed (s : State) : (s.fresh).logFlushed = s.logFlushed := rfl
@[simp] theorem fresh_flushedAt (s : State) : (s.fresh).flushedAt = s.flushedAt := rfl
@[simp] theorem fresh_portSampled (s : State) : (s.fresh).portSampled = s.portSampled := rfl
@[simp] theorem fresh_mgmtReply (s : State) : (s.fresh).mgmtReply = s.mgmtReply := rfl
@[simp] theorem fresh_keyNumber (s : State) : (s.fresh).keyNumber = s.keyNumber := rfl
@[simp] theorem fresh_parts (s : State) : (s.fresh).parts = s.parts := rfl
@[simp] theorem fresh_partBytes (s : State) : (s.fresh).partBytes = s.partBytes := rfl
@[simp] theorem fresh_stagedParts (s : State) : (s.fresh).stagedParts = s.stagedParts := rfl
@[simp] theorem fresh_slots (s : State) : (s.fresh).slots = s.slots := rfl
@[simp] theorem fresh_stagedSlots (s : State) : (s.fresh).stagedSlots = s.stagedSlots := rfl
@[simp] theorem fresh_ptres (s : State) : (s.fresh).ptres = s.ptres := rfl
@[simp] theorem fresh_vfres (s : State) : (s.fresh).vfres = s.vfres := rfl
@[simp] theorem fresh_pitches (s : State) : (s.fresh).pitches = s.pitches := rfl
@[simp] theorem fresh_ports (s : State) : (s.fresh).ports = s.ports := rfl
@[simp] theorem fresh_links (s : State) : (s.fresh).links = s.links := rfl
@[simp] theorem fresh_frames (s : State) : (s.fresh).frames = s.frames := rfl
@[simp] theorem fresh_frameSeq (s : State) : (s.fresh).frameSeq = s.frameSeq := rfl
@[simp] theorem fresh_sent (s : State) : (s.fresh).sent = s.sent := rfl
@[simp] theorem fresh_unacked (s : State) : (s.fresh).unacked = s.unacked := rfl
@[simp] theorem fresh_acks (s : State) : (s.fresh).acks = s.acks := rfl
@[simp] theorem fresh_broken (s : State) : (s.fresh).broken = s.broken := rfl
@[simp] theorem fresh_buffered (s : State) : (s.fresh).buffered = s.buffered := rfl
@[simp] theorem fresh_sendReports (s : State) : (s.fresh).sendReports = s.sendReports := rfl
@[simp] theorem fresh_replies (s : State) : (s.fresh).replies = s.replies := rfl
@[simp] theorem fresh_chipid (s : State) : (s.fresh).chipid = s.chipid := rfl
@[simp] theorem fresh_mesh (s : State) : (s.fresh).mesh = s.mesh := rfl
@[simp] theorem fresh_contexts (s : State) : (s.fresh).contexts = s.contexts := rfl
@[simp] theorem fresh_queues (s : State) : (s.fresh).queues = s.queues := rfl
@[simp] theorem fresh_kernels (s : State) : (s.fresh).kernels = s.kernels := rfl
@[simp] theorem fresh_graphs (s : State) : (s.fresh).graphs = s.graphs := rfl
@[simp] theorem fresh_blocks (s : State) : (s.fresh).blocks = s.blocks := rfl
@[simp] theorem fresh_groups (s : State) : (s.fresh).groups = s.groups := rfl
@[simp] theorem fresh_phases (s : State) : (s.fresh).phases = s.phases := rfl
@[simp] theorem fresh_phaseReports (s : State) : (s.fresh).phaseReports = s.phaseReports := rfl
@[simp] theorem fresh_nextOrder (s : State) : (s.fresh).nextOrder = s.nextOrder := rfl
@[simp] theorem fresh_governed (s : State) : (s.fresh).governed = s.governed := rfl
@[simp] theorem fresh_tiles (s : State) : (s.fresh).tiles = s.tiles := rfl
@[simp] theorem fresh_gens (s : State) : (s.fresh).gens = s.gens := rfl
@[simp] theorem fresh_locks (s : State) : (s.fresh).locks = s.locks := rfl
@[simp] theorem fresh_engines (s : State) : (s.fresh).engines = s.engines := rfl
@[simp] theorem fresh_nextEngine (s : State) : (s.fresh).nextEngine = s.nextEngine := rfl
@[simp] theorem fresh_stragglers (s : State) : (s.fresh).stragglers = s.stragglers := rfl
@[simp] theorem fresh_loopBufs (s : State) : (s.fresh).loopBufs = s.loopBufs := rfl
@[simp] theorem fresh_served (s : State) : (s.fresh).served = s.served := rfl
@[simp] theorem fresh_mem (s : State) : (s.fresh).mem = s.mem := rfl
@[simp] theorem fresh_hostMem (s : State) : (s.fresh).hostMem = s.hostMem := rfl
@[simp] theorem fresh_remoteMem (s : State) : (s.fresh).remoteMem = s.remoteMem := rfl
@[simp] theorem fresh_tags (s : State) : (s.fresh).tags = s.tags := rfl
@[simp] theorem fresh_marks (s : State) : (s.fresh).marks = s.marks := rfl
@[simp] theorem fresh_tlb (s : State) : (s.fresh).tlb = s.tlb := rfl
@[simp] theorem fresh_l1 (s : State) : (s.fresh).l1 = s.l1 := rfl
@[simp] theorem fresh_wcb (s : State) : (s.fresh).wcb = s.wcb := rfl
@[simp] theorem fresh_cluster (s : State) : (s.fresh).cluster = s.cluster := rfl
@[simp] theorem fresh_tracker (s : State) : (s.fresh).tracker = s.tracker := rfl
@[simp] theorem fresh_vest (s : State) : (s.fresh).vest = s.vest := rfl
@[simp] theorem fresh_nextVest (s : State) : (s.fresh).nextVest = s.nextVest := rfl
@[simp] theorem fresh_rings (s : State) : (s.fresh).rings = s.rings := rfl
@[simp] theorem fresh_reports (s : State) : (s.fresh).reports = s.reports := rfl
@[simp] theorem fresh_msix (s : State) : (s.fresh).msix = s.msix := rfl
@[simp] theorem fresh_tensors (s : State) : (s.fresh).tensors = s.tensors := rfl
@[simp] theorem fresh_descriptors (s : State) : (s.fresh).descriptors = s.descriptors := rfl
@[simp] theorem fresh_seq (s : State) : (s.fresh).seq = s.seq := rfl
@[simp] theorem fresh_agenda (s : State) : (s.fresh).agenda = s.agenda := rfl
@[simp] theorem fresh_cur (s : State) : (s.fresh).cur = s.cur := rfl
@[simp] theorem tick_start (s : State) (n : Nat) : (s.tick n).start = s.start := rfl
@[simp] theorem tick_failCount (s : State) (n : Nat) : (s.tick n).failCount = s.failCount := rfl
@[simp] theorem tick_startStep (s : State) (n : Nat) : (s.tick n).startStep = s.startStep := rfl
@[simp] theorem tick_starts (s : State) (n : Nat) : (s.tick n).starts = s.starts := rfl
@[simp] theorem tick_paramSet (s : State) (n : Nat) : (s.tick n).paramSet = s.paramSet := rfl
@[simp] theorem tick_paramOk (s : State) (n : Nat) : (s.tick n).paramOk = s.paramOk := rfl
@[simp] theorem tick_fieldsUp (s : State) (n : Nat) : (s.tick n).fieldsUp = s.fieldsUp := rfl
@[simp] theorem tick_railAt (s : State) (n : Nat) : (s.tick n).railAt = s.railAt := rfl
@[simp] theorem tick_image (s : State) (n : Nat) : (s.tick n).image = s.image := rfl
@[simp] theorem tick_captures (s : State) (n : Nat) : (s.tick n).captures = s.captures := rfl
@[simp] theorem tick_missed (s : State) (n : Nat) : (s.tick n).missed = s.missed := rfl
@[simp] theorem tick_log (s : State) (n : Nat) : (s.tick n).log = s.log := rfl
@[simp] theorem tick_logFlushed (s : State) (n : Nat) : (s.tick n).logFlushed =
    if s.flushedAt + flushPeriod ≤ (s.tick n).ptpns then s.log else s.logFlushed := rfl
@[simp] theorem tick_flushedAt (s : State) (n : Nat) : (s.tick n).flushedAt =
    if s.flushedAt + flushPeriod ≤ (s.tick n).ptpns then (s.tick n).ptpns else s.flushedAt := rfl
@[simp] theorem tick_portSampled (s : State) (n : Nat) : (s.tick n).portSampled = s.portSampled := rfl
@[simp] theorem tick_mgmtReply (s : State) (n : Nat) : (s.tick n).mgmtReply = s.mgmtReply := rfl
@[simp] theorem tick_keyNumber (s : State) (n : Nat) : (s.tick n).keyNumber = s.keyNumber := rfl
@[simp] theorem tick_parts (s : State) (n : Nat) : (s.tick n).parts = s.parts := rfl
@[simp] theorem tick_partBytes (s : State) (n : Nat) : (s.tick n).partBytes = s.partBytes := rfl
@[simp] theorem tick_stagedParts (s : State) (n : Nat) : (s.tick n).stagedParts = s.stagedParts := rfl
@[simp] theorem tick_slots (s : State) (n : Nat) : (s.tick n).slots = s.slots := rfl
@[simp] theorem tick_stagedSlots (s : State) (n : Nat) : (s.tick n).stagedSlots = s.stagedSlots := rfl
@[simp] theorem tick_ptres (s : State) (n : Nat) : (s.tick n).ptres = s.ptres := rfl
@[simp] theorem tick_vfres (s : State) (n : Nat) : (s.tick n).vfres = s.vfres := rfl
@[simp] theorem tick_pitches (s : State) (n : Nat) : (s.tick n).pitches = s.pitches := rfl
@[simp] theorem tick_ports (s : State) (n : Nat) : (s.tick n).ports = s.ports := rfl
@[simp] theorem tick_links (s : State) (n : Nat) : (s.tick n).links = s.links := rfl
@[simp] theorem tick_frames (s : State) (n : Nat) : (s.tick n).frames = s.frames := rfl
@[simp] theorem tick_frameSeq (s : State) (n : Nat) : (s.tick n).frameSeq = s.frameSeq := rfl
@[simp] theorem tick_sent (s : State) (n : Nat) : (s.tick n).sent = s.sent := rfl
@[simp] theorem tick_unacked (s : State) (n : Nat) : (s.tick n).unacked = s.unacked := rfl
@[simp] theorem tick_acks (s : State) (n : Nat) : (s.tick n).acks = s.acks := rfl
@[simp] theorem tick_broken (s : State) (n : Nat) : (s.tick n).broken = s.broken := rfl
@[simp] theorem tick_buffered (s : State) (n : Nat) : (s.tick n).buffered = s.buffered := rfl
@[simp] theorem tick_sendReports (s : State) (n : Nat) : (s.tick n).sendReports = s.sendReports := rfl
@[simp] theorem tick_replies (s : State) (n : Nat) : (s.tick n).replies = s.replies := rfl
@[simp] theorem tick_chipid (s : State) (n : Nat) : (s.tick n).chipid = s.chipid := rfl
@[simp] theorem tick_mesh (s : State) (n : Nat) : (s.tick n).mesh = s.mesh := rfl
@[simp] theorem tick_contexts (s : State) (n : Nat) : (s.tick n).contexts = s.contexts := rfl
@[simp] theorem tick_queues (s : State) (n : Nat) : (s.tick n).queues = s.queues := rfl
@[simp] theorem tick_kernels (s : State) (n : Nat) : (s.tick n).kernels = s.kernels := rfl
@[simp] theorem tick_graphs (s : State) (n : Nat) : (s.tick n).graphs = s.graphs := rfl
@[simp] theorem tick_blocks (s : State) (n : Nat) : (s.tick n).blocks = s.blocks := rfl
@[simp] theorem tick_groups (s : State) (n : Nat) : (s.tick n).groups = s.groups := rfl
@[simp] theorem tick_phases (s : State) (n : Nat) : (s.tick n).phases = s.phases := rfl
@[simp] theorem tick_phaseReports (s : State) (n : Nat) : (s.tick n).phaseReports = s.phaseReports := rfl
@[simp] theorem tick_nextOrder (s : State) (n : Nat) : (s.tick n).nextOrder = s.nextOrder := rfl
@[simp] theorem tick_governed (s : State) (n : Nat) : (s.tick n).governed = s.governed := rfl
@[simp] theorem tick_tiles (s : State) (n : Nat) : (s.tick n).tiles = s.tiles := rfl
@[simp] theorem tick_gens (s : State) (n : Nat) : (s.tick n).gens = s.gens := rfl
@[simp] theorem tick_locks (s : State) (n : Nat) : (s.tick n).locks = s.locks := rfl
@[simp] theorem tick_engines (s : State) (n : Nat) : (s.tick n).engines = s.engines := rfl
@[simp] theorem tick_nextEngine (s : State) (n : Nat) : (s.tick n).nextEngine = s.nextEngine := rfl
@[simp] theorem tick_stragglers (s : State) (n : Nat) : (s.tick n).stragglers = s.stragglers := rfl
@[simp] theorem tick_loopBufs (s : State) (n : Nat) : (s.tick n).loopBufs = s.loopBufs := rfl
@[simp] theorem tick_served (s : State) (n : Nat) : (s.tick n).served = s.served := rfl
@[simp] theorem tick_mem (s : State) (n : Nat) : (s.tick n).mem = s.mem := rfl
@[simp] theorem tick_hostMem (s : State) (n : Nat) : (s.tick n).hostMem = s.hostMem := rfl
@[simp] theorem tick_remoteMem (s : State) (n : Nat) : (s.tick n).remoteMem = s.remoteMem := rfl
@[simp] theorem tick_tags (s : State) (n : Nat) : (s.tick n).tags = s.tags := rfl
@[simp] theorem tick_marks (s : State) (n : Nat) : (s.tick n).marks = s.marks := rfl
@[simp] theorem tick_tlb (s : State) (n : Nat) : (s.tick n).tlb = s.tlb := rfl
@[simp] theorem tick_l1 (s : State) (n : Nat) : (s.tick n).l1 = s.l1 := rfl
@[simp] theorem tick_wcb (s : State) (n : Nat) : (s.tick n).wcb = s.wcb := rfl
@[simp] theorem tick_cluster (s : State) (n : Nat) : (s.tick n).cluster = s.cluster := rfl
@[simp] theorem tick_tracker (s : State) (n : Nat) : (s.tick n).tracker = s.tracker := rfl
@[simp] theorem tick_vest (s : State) (n : Nat) : (s.tick n).vest = s.vest := rfl
@[simp] theorem tick_nextVest (s : State) (n : Nat) : (s.tick n).nextVest = s.nextVest := rfl
@[simp] theorem tick_rings (s : State) (n : Nat) : (s.tick n).rings = s.rings := rfl
@[simp] theorem tick_reports (s : State) (n : Nat) : (s.tick n).reports = s.reports := rfl
@[simp] theorem tick_msix (s : State) (n : Nat) : (s.tick n).msix = s.msix := rfl
@[simp] theorem tick_tensors (s : State) (n : Nat) : (s.tick n).tensors = s.tensors := rfl
@[simp] theorem tick_descriptors (s : State) (n : Nat) : (s.tick n).descriptors = s.descriptors := rfl
@[simp] theorem tick_seq (s : State) (n : Nat) : (s.tick n).seq = s.seq := rfl
@[simp] theorem tick_agenda (s : State) (n : Nat) : (s.tick n).agenda = s.agenda := rfl
@[simp] theorem tick_cur (s : State) (n : Nat) : (s.tick n).cur = s.cur := rfl
@[simp] theorem tick_freeCtr (s : State) (n : Nat) : (s.tick n).freeCtr = s.freeCtr := rfl
@[simp] theorem count_start (s : State) (w : LogName) (u b n : Nat) : (s.count w u b n).start = s.start := rfl
@[simp] theorem count_failCount (s : State) (w : LogName) (u b n : Nat) : (s.count w u b n).failCount = s.failCount := rfl
@[simp] theorem count_startStep (s : State) (w : LogName) (u b n : Nat) : (s.count w u b n).startStep = s.startStep := rfl
@[simp] theorem count_starts (s : State) (w : LogName) (u b n : Nat) : (s.count w u b n).starts = s.starts := rfl
@[simp] theorem count_paramSet (s : State) (w : LogName) (u b n : Nat) : (s.count w u b n).paramSet = s.paramSet := rfl
@[simp] theorem count_paramOk (s : State) (w : LogName) (u b n : Nat) : (s.count w u b n).paramOk = s.paramOk := rfl
@[simp] theorem count_fieldsUp (s : State) (w : LogName) (u b n : Nat) : (s.count w u b n).fieldsUp = s.fieldsUp := rfl
@[simp] theorem count_railAt (s : State) (w : LogName) (u b n : Nat) : (s.count w u b n).railAt = s.railAt := rfl
@[simp] theorem count_image (s : State) (w : LogName) (u b n : Nat) : (s.count w u b n).image = s.image := rfl
@[simp] theorem count_fields (s : State) (w : LogName) (u b n : Nat) : (s.count w u b n).fields = s.fields := rfl
@[simp] theorem count_ptpns (s : State) (w : LogName) (u b n : Nat) : (s.count w u b n).ptpns = s.ptpns := rfl
@[simp] theorem count_ptpSub (s : State) (w : LogName) (u b n : Nat) : (s.count w u b n).ptpSub = s.ptpSub := rfl
@[simp] theorem count_captures (s : State) (w : LogName) (u b n : Nat) : (s.count w u b n).captures = s.captures := rfl
@[simp] theorem count_missed (s : State) (w : LogName) (u b n : Nat) : (s.count w u b n).missed = s.missed := rfl
@[simp] theorem count_logFlushed (s : State) (w : LogName) (u b n : Nat) : (s.count w u b n).logFlushed = s.logFlushed := rfl
@[simp] theorem count_flushedAt (s : State) (w : LogName) (u b n : Nat) : (s.count w u b n).flushedAt = s.flushedAt := rfl
@[simp] theorem count_portSampled (s : State) (w : LogName) (u b n : Nat) : (s.count w u b n).portSampled = s.portSampled := rfl
@[simp] theorem count_mgmtReply (s : State) (w : LogName) (u b n : Nat) : (s.count w u b n).mgmtReply = s.mgmtReply := rfl
@[simp] theorem count_keyNumber (s : State) (w : LogName) (u b n : Nat) : (s.count w u b n).keyNumber = s.keyNumber := rfl
@[simp] theorem count_parts (s : State) (w : LogName) (u b n : Nat) : (s.count w u b n).parts = s.parts := rfl
@[simp] theorem count_partBytes (s : State) (w : LogName) (u b n : Nat) : (s.count w u b n).partBytes = s.partBytes := rfl
@[simp] theorem count_stagedParts (s : State) (w : LogName) (u b n : Nat) : (s.count w u b n).stagedParts = s.stagedParts := rfl
@[simp] theorem count_slots (s : State) (w : LogName) (u b n : Nat) : (s.count w u b n).slots = s.slots := rfl
@[simp] theorem count_stagedSlots (s : State) (w : LogName) (u b n : Nat) : (s.count w u b n).stagedSlots = s.stagedSlots := rfl
@[simp] theorem count_ptres (s : State) (w : LogName) (u b n : Nat) : (s.count w u b n).ptres = s.ptres := rfl
@[simp] theorem count_vfres (s : State) (w : LogName) (u b n : Nat) : (s.count w u b n).vfres = s.vfres := rfl
@[simp] theorem count_pitches (s : State) (w : LogName) (u b n : Nat) : (s.count w u b n).pitches = s.pitches := rfl
@[simp] theorem count_ports (s : State) (w : LogName) (u b n : Nat) : (s.count w u b n).ports = s.ports := rfl
@[simp] theorem count_links (s : State) (w : LogName) (u b n : Nat) : (s.count w u b n).links = s.links := rfl
@[simp] theorem count_frames (s : State) (w : LogName) (u b n : Nat) : (s.count w u b n).frames = s.frames := rfl
@[simp] theorem count_frameSeq (s : State) (w : LogName) (u b n : Nat) : (s.count w u b n).frameSeq = s.frameSeq := rfl
@[simp] theorem count_sent (s : State) (w : LogName) (u b n : Nat) : (s.count w u b n).sent = s.sent := rfl
@[simp] theorem count_unacked (s : State) (w : LogName) (u b n : Nat) : (s.count w u b n).unacked = s.unacked := rfl
@[simp] theorem count_acks (s : State) (w : LogName) (u b n : Nat) : (s.count w u b n).acks = s.acks := rfl
@[simp] theorem count_broken (s : State) (w : LogName) (u b n : Nat) : (s.count w u b n).broken = s.broken := rfl
@[simp] theorem count_buffered (s : State) (w : LogName) (u b n : Nat) : (s.count w u b n).buffered = s.buffered := rfl
@[simp] theorem count_sendReports (s : State) (w : LogName) (u b n : Nat) : (s.count w u b n).sendReports = s.sendReports := rfl
@[simp] theorem count_replies (s : State) (w : LogName) (u b n : Nat) : (s.count w u b n).replies = s.replies := rfl
@[simp] theorem count_chipid (s : State) (w : LogName) (u b n : Nat) : (s.count w u b n).chipid = s.chipid := rfl
@[simp] theorem count_mesh (s : State) (w : LogName) (u b n : Nat) : (s.count w u b n).mesh = s.mesh := rfl
@[simp] theorem count_contexts (s : State) (w : LogName) (u b n : Nat) : (s.count w u b n).contexts = s.contexts := rfl
@[simp] theorem count_queues (s : State) (w : LogName) (u b n : Nat) : (s.count w u b n).queues = s.queues := rfl
@[simp] theorem count_kernels (s : State) (w : LogName) (u b n : Nat) : (s.count w u b n).kernels = s.kernels := rfl
@[simp] theorem count_graphs (s : State) (w : LogName) (u b n : Nat) : (s.count w u b n).graphs = s.graphs := rfl
@[simp] theorem count_blocks (s : State) (w : LogName) (u b n : Nat) : (s.count w u b n).blocks = s.blocks := rfl
@[simp] theorem count_groups (s : State) (w : LogName) (u b n : Nat) : (s.count w u b n).groups = s.groups := rfl
@[simp] theorem count_phases (s : State) (w : LogName) (u b n : Nat) : (s.count w u b n).phases = s.phases := rfl
@[simp] theorem count_phaseReports (s : State) (w : LogName) (u b n : Nat) : (s.count w u b n).phaseReports = s.phaseReports := rfl
@[simp] theorem count_nextOrder (s : State) (w : LogName) (u b n : Nat) : (s.count w u b n).nextOrder = s.nextOrder := rfl
@[simp] theorem count_governed (s : State) (w : LogName) (u b n : Nat) : (s.count w u b n).governed = s.governed := rfl
@[simp] theorem count_tiles (s : State) (w : LogName) (u b n : Nat) : (s.count w u b n).tiles = s.tiles := rfl
@[simp] theorem count_gens (s : State) (w : LogName) (u b n : Nat) : (s.count w u b n).gens = s.gens := rfl
@[simp] theorem count_locks (s : State) (w : LogName) (u b n : Nat) : (s.count w u b n).locks = s.locks := rfl
@[simp] theorem count_engines (s : State) (w : LogName) (u b n : Nat) : (s.count w u b n).engines = s.engines := rfl
@[simp] theorem count_nextEngine (s : State) (w : LogName) (u b n : Nat) : (s.count w u b n).nextEngine = s.nextEngine := rfl
@[simp] theorem count_stragglers (s : State) (w : LogName) (u b n : Nat) : (s.count w u b n).stragglers = s.stragglers := rfl
@[simp] theorem count_loopBufs (s : State) (w : LogName) (u b n : Nat) : (s.count w u b n).loopBufs = s.loopBufs := rfl
@[simp] theorem count_served (s : State) (w : LogName) (u b n : Nat) : (s.count w u b n).served = s.served := rfl
@[simp] theorem count_mem (s : State) (w : LogName) (u b n : Nat) : (s.count w u b n).mem = s.mem := rfl
@[simp] theorem count_hostMem (s : State) (w : LogName) (u b n : Nat) : (s.count w u b n).hostMem = s.hostMem := rfl
@[simp] theorem count_remoteMem (s : State) (w : LogName) (u b n : Nat) : (s.count w u b n).remoteMem = s.remoteMem := rfl
@[simp] theorem count_tags (s : State) (w : LogName) (u b n : Nat) : (s.count w u b n).tags = s.tags := rfl
@[simp] theorem count_marks (s : State) (w : LogName) (u b n : Nat) : (s.count w u b n).marks = s.marks := rfl
@[simp] theorem count_tlb (s : State) (w : LogName) (u b n : Nat) : (s.count w u b n).tlb = s.tlb := rfl
@[simp] theorem count_l1 (s : State) (w : LogName) (u b n : Nat) : (s.count w u b n).l1 = s.l1 := rfl
@[simp] theorem count_wcb (s : State) (w : LogName) (u b n : Nat) : (s.count w u b n).wcb = s.wcb := rfl
@[simp] theorem count_cluster (s : State) (w : LogName) (u b n : Nat) : (s.count w u b n).cluster = s.cluster := rfl
@[simp] theorem count_tracker (s : State) (w : LogName) (u b n : Nat) : (s.count w u b n).tracker = s.tracker := rfl
@[simp] theorem count_vest (s : State) (w : LogName) (u b n : Nat) : (s.count w u b n).vest = s.vest := rfl
@[simp] theorem count_nextVest (s : State) (w : LogName) (u b n : Nat) : (s.count w u b n).nextVest = s.nextVest := rfl
@[simp] theorem count_rings (s : State) (w : LogName) (u b n : Nat) : (s.count w u b n).rings = s.rings := rfl
@[simp] theorem count_reports (s : State) (w : LogName) (u b n : Nat) : (s.count w u b n).reports = s.reports := rfl
@[simp] theorem count_msix (s : State) (w : LogName) (u b n : Nat) : (s.count w u b n).msix = s.msix := rfl
@[simp] theorem count_tensors (s : State) (w : LogName) (u b n : Nat) : (s.count w u b n).tensors = s.tensors := rfl
@[simp] theorem count_descriptors (s : State) (w : LogName) (u b n : Nat) : (s.count w u b n).descriptors = s.descriptors := rfl
@[simp] theorem count_seq (s : State) (w : LogName) (u b n : Nat) : (s.count w u b n).seq = s.seq := rfl
@[simp] theorem count_agenda (s : State) (w : LogName) (u b n : Nat) : (s.count w u b n).agenda = s.agenda := rfl
@[simp] theorem count_cur (s : State) (w : LogName) (u b n : Nat) : (s.count w u b n).cur = s.cur := rfl
@[simp] theorem count_freeCtr (s : State) (w : LogName) (u b n : Nat) : (s.count w u b n).freeCtr = s.freeCtr := rfl

end State

@[simp] theorem Group.updFrag_at_ (g : Group) (i : Nat) (h : Fragment → Fragment) : (g.updFrag i h).at_ = g.at_ := rfl
@[simp] theorem Group.updFrag_ctx (g : Group) (i : Nat) (h : Fragment → Fragment) : (g.updFrag i h).ctx = g.ctx := rfl
@[simp] theorem Group.updFrag_kid (g : Group) (i : Nat) (h : Fragment → Fragment) : (g.updFrag i h).kid = g.kid := rfl
@[simp] theorem Group.updFrag_block (g : Group) (i : Nat) (h : Fragment → Fragment) : (g.updFrag i h).block = g.block := rfl
@[simp] theorem Group.updFrag_gid (g : Group) (i : Nat) (h : Fragment → Fragment) : (g.updFrag i h).gid = g.gid := rfl
@[simp] theorem Group.updFrag_role (g : Group) (i : Nat) (h : Fragment → Fragment) : (g.updFrag i h).role = g.role := rfl
@[simp] theorem Group.updFrag_regs (g : Group) (i : Nat) (h : Fragment → Fragment) : (g.updFrag i h).regs = g.regs := rfl
@[simp] theorem Group.updFrag_prio (g : Group) (i : Nat) (h : Fragment → Fragment) : (g.updFrag i h).prio = g.prio := rfl
@[simp] theorem Group.updFrag_state (g : Group) (i : Nat) (h : Fragment → Fragment) : (g.updFrag i h).state = g.state := rfl
@[simp] theorem Group.updFrag_vregs (g : Group) (i : Nat) (h : Fragment → Fragment) : (g.updFrag i h).vregs = g.vregs := rfl
@[simp] theorem Group.updFrag_sregs (g : Group) (i : Nat) (h : Fragment → Fragment) : (g.updFrag i h).sregs = g.sregs := rfl
@[simp] theorem Group.updFrag_mregs (g : Group) (i : Nat) (h : Fragment → Fragment) : (g.updFrag i h).mregs = g.mregs := rfl
@[simp] theorem Group.updFrag_t0 (g : Group) (i : Nat) (h : Fragment → Fragment) : (g.updFrag i h).t0 = g.t0 := rfl
@[simp] theorem Group.updFrag_t1 (g : Group) (i : Nat) (h : Fragment → Fragment) : (g.updFrag i h).t1 = g.t1 := rfl
@[simp] theorem Group.updFrag_floor (g : Group) (i : Nat) (h : Fragment → Fragment) : (g.updFrag i h).floor = g.floor := rfl
@[simp] theorem Group.updFrag_outgrade (g : Group) (i : Nat) (h : Fragment → Fragment) : (g.updFrag i h).outgrade = g.outgrade := rfl
@[simp] theorem Group.updFrag_chk (g : Group) (i : Nat) (h : Fragment → Fragment) : (g.updFrag i h).chk = g.chk := rfl
@[simp] theorem Group.updFrag_fnthr (g : Group) (i : Nat) (h : Fragment → Fragment) : (g.updFrag i h).fnthr = g.fnthr := rfl
@[simp] theorem Group.updFrag_mskip (g : Group) (i : Nat) (h : Fragment → Fragment) : (g.updFrag i h).mskip = g.mskip := rfl
@[simp] theorem Group.updFrag_mstat (g : Group) (i : Nat) (h : Fragment → Fragment) : (g.updFrag i h).mstat = g.mstat := rfl
@[simp] theorem Group.updFrag_fcause (g : Group) (i : Nat) (h : Fragment → Fragment) : (g.updFrag i h).fcause = g.fcause := rfl
@[simp] theorem Group.updFrag_faddr (g : Group) (i : Nat) (h : Fragment → Fragment) : (g.updFrag i h).faddr = g.faddr := rfl
@[simp] theorem Group.updFrag_fpc (g : Group) (i : Nat) (h : Fragment → Fragment) : (g.updFrag i h).fpc = g.fpc := rfl
@[simp] theorem Group.updFrag_finfo (g : Group) (i : Nat) (h : Fragment → Fragment) : (g.updFrag i h).finfo = g.finfo := rfl
@[simp] theorem Group.updFrag_stakepc (g : Group) (i : Nat) (h : Fragment → Fragment) : (g.updFrag i h).stakepc = g.stakepc := rfl
@[simp] theorem Group.updFrag_h (g : Group) (i : Nat) (h : Fragment → Fragment) : (g.updFrag i h).h = g.h := rfl
@[simp] theorem Group.updFrag_frame (g : Group) (i : Nat) (h : Fragment → Fragment) : (g.updFrag i h).frame = g.frame := rfl
@[simp] theorem Group.updFrag_stake (g : Group) (i : Nat) (h : Fragment → Fragment) : (g.updFrag i h).stake = g.stake := rfl
@[simp] theorem Group.updFrag_ops (g : Group) (i : Nat) (h : Fragment → Fragment) : (g.updFrag i h).ops = g.ops := rfl
@[simp] theorem Group.updFrag_issued (g : Group) (i : Nat) (h : Fragment → Fragment) : (g.updFrag i h).issued = g.issued := rfl
@[simp] theorem Group.updFrag_uncovered (g : Group) (i : Nat) (h : Fragment → Fragment) : (g.updFrag i h).uncovered = g.uncovered := rfl
@[simp] theorem Group.updFrag_pend (g : Group) (i : Nat) (h : Fragment → Fragment) : (g.updFrag i h).pend = g.pend := rfl
@[simp] theorem Group.updFrag_board (g : Group) (i : Nat) (h : Fragment → Fragment) : (g.updFrag i h).board = g.board := rfl
@[simp] theorem Group.updFrag_deferred (g : Group) (i : Nat) (h : Fragment → Fragment) : (g.updFrag i h).deferred = g.deferred := rfl
@[simp] theorem Group.updFrag_syncl (g : Group) (i : Nat) (h : Fragment → Fragment) : (g.updFrag i h).syncl = g.syncl := rfl
@[simp] theorem Group.updFrag_preemptAt (g : Group) (i : Nat) (h : Fragment → Fragment) : (g.updFrag i h).preemptAt = g.preemptAt := rfl
@[simp] theorem Group.updFrag_stopped (g : Group) (i : Nat) (h : Fragment → Fragment) : (g.updFrag i h).stopped = g.stopped := rfl
@[simp] theorem Group.updFrag_turnover (g : Group) (i : Nat) (h : Fragment → Fragment) : (g.updFrag i h).turnover = g.turnover := rfl
@[simp] theorem Group.updFrag_endPc (g : Group) (i : Nat) (h : Fragment → Fragment) : (g.updFrag i h).endPc = g.endPc := rfl
@[simp] theorem Group.updFrag_loose (g : Group) (i : Nat) (h : Fragment → Fragment) : (g.updFrag i h).loose = g.loose := rfl

/-- Finding by key after a change of the elements of one key that keeps the key. -/
theorem find?_map_key {α κ : Type} [DecidableEq κ] (l : List α) (key : α → κ) (k x : κ) (h : α → α) (hk : ∀ a, key a = k → key (h a) = k) :
    (l.map fun a => if key a = k then h a else a).find? (fun a => decide (key a = x))
      = if x = k then (l.find? fun a => decide (key a = k)).map h else l.find? fun a => decide (key a = x) := by
  induction l with
  | nil => split <;> rfl
  | cons a l ih =>
    rw [List.map_cons, List.find?_cons, List.find?_cons, List.find?_cons, ih]
    by_cases ha : key a = k
    · by_cases hx : x = k
      · simp [ha, hx, hk a ha]
      · simp [ha, hx, hk a ha, Ne.symm hx]
    · by_cases hx : x = k
      · simp [ha, hx]
      · simp [ha, hx]

namespace State

/-- What `group?` finds after `updGroup` with a change that keeps the key. -/
theorem group?_updGroup (s : State) (k x : GroupId) (h : Group → Group) (hk : ∀ a, a.at_ = k → (h a).at_ = k) :
    (s.updGroup k h).group? x = if x = k then (s.group? k).map h else s.group? x := find?_map_key s.groups (·.at_) k x h hk

/-- What `kernel?` finds after `updKernel` with a change that keeps the key. -/
theorem kernel?_updKernel (s : State) (k x : Nat) (h : Kernel → Kernel) (hk : ∀ a, a.kid = k → (h a).kid = k) :
    (s.updKernel k h).kernel? x = if x = k then (s.kernel? k).map h else s.kernel? x := find?_map_key s.kernels (·.kid) k x h hk

/-- What `ctx?` finds after `updCtx` with a change that keeps the key. -/
theorem ctx?_updCtx (s : State) (k x : Nat) (h : Context → Context) (hk : ∀ a, a.id = k → (h a).id = k) :
    (s.updCtx k h).ctx? x = if x = k then (s.ctx? k).map h else s.ctx? x := find?_map_key s.contexts (·.id) k x h hk

/-- What `queue?` finds after `updQueue` with a change that keeps the key. -/
theorem queue?_updQueue (s : State) (k x : Nat) (h : Queue → Queue) (hk : ∀ a, a.num = k → (h a).num = k) :
    (s.updQueue k h).queue? x = if x = k then (s.queue? k).map h else s.queue? x := find?_map_key s.queues (·.num) k x h hk

/-- What `engine?` finds after `updEngine` with a change that keeps the key. -/
theorem engine?_updEngine (s : State) (k x : Nat) (h : Engine → Engine) (hk : ∀ a, a.id = k → (h a).id = k) :
    (s.updEngine k h).engine? x = if x = k then (s.engine? k).map h else s.engine? x := find?_map_key s.engines (·.id) k x h hk

end State

/-- What `frag?` finds after `updFrag` with a change that keeps the index. -/
theorem Group.frag?_updFrag (g : Group) (k x : Nat) (h : Fragment → Fragment) (hk : ∀ a, a.index = k → (h a).index = k) :
    (g.updFrag k h).frag? x = if x = k then (g.frag? k).map h else g.frag? x := find?_map_key g.frags (·.index) k x h hk

end Sys2Proof.Machine
end

