-- ==== Sys2Proof/Tests/Slice0.lean ====
section
/-! SUPPORT. Tests: each check of well-formedness refuses an ill-formed term, one word of the encoding tables decodes to each
encoded constructor, a few single steps, and for every statement with premises a state and operands that meet them. Every
expected result is from the spec's tables and rules. -/

namespace Sys2Proof.Tests

set_option Elab.async false

open Sys2Proof Sys2Proof.Machine

/-! ## Well-formed instructions -/

/-- Each check of `Instr.wellFormed` refuses a term that breaks it: the operation field f (R85). -/
theorem test_wf_refuses_operation_field :
    ([.iadd 3 0 0 0, .isub 3 0 0 0, .imul 3 0 0 0, .imad 2 0 0 0, .imin 2 0 0 0, .imax 2 0 0 0, .iabs 2 0 0, .ineg 2 0 0,
      .shr 2 0 0 0, .rot 2 0 0 0, .bfx 2 0 0 0, .imulw 2 0 0 0, .idot4 3 0 0 0, .lidx 3 0, .permb 2 0 0 0, .balign 4 0 0 0,
      .icmp 6 0 0 0, .icmpu 6 0 0 0, .fadd 4 0 0 0, .fsub 4 0 0 0, .fmul 4 0 0 0, .ffma 4 0 0 0, .fsgn 3 0 0 0, .fcmp 7 0 0 0,
      .fsqrt 4 0 0, .fdiv 4 0 0 0, .frnd 4 0 0, .fscl 4 0 0 0, .cvtfi 4 0 0 2, .cvtif 4 0 0 0,
      .ld 6 0 0 0 0, .st 1 0 0 0 0, .ldl 6 0 0 0 0, .stl 3 0 0 0 0, .atomC 7 0 0 0 0, .atomD 7 0 0 0 0, .atomS 7 0 0 0 0,
      .xchg 0 0 0 0 0, .cas 4 0 0 0 0, .red 7 0 0 0 0, .ldf 4 0 0 0 0, .pref 2 0 0,
      .sadd 3 0 0 0, .ssub 3 0 0 0, .smulh 2 0 0 0, .sshr 2 0 0 0, .smin 2 0 0 0, .smax 2 0 0 0, .scmp 6 0 0 0, .slui 5 0 0,
      .sbfx 2 0 0 0, .sld 7 0 0 0 0, .sst 1 0 0 0 0, .mmov 3 0 0, .emrd 2 0, .emwr 4 0, .mpopc 2 0 0, .mfirst 2 0 0, .redux 9 0 0,
      .vbcst 2 0 0, .srd 2 0 2, .wait 5 0, .tmark 2 0, .phase 3 0 0, .trd 8 0 0, .twr 3 0 0, .mmag 1 0 0 0,
      .qenq 4 0 0 0 0, .qdeq 4 0 0 0 0, .qsteal 4 0 0 0, .qcap 8 0 0, .gwait 0 0 0, .amend 4 0 0, .gstat 2 0, .pstat 2 0 0,
      .coll 2 0 0] : List Instr).all (fun i => !i.wellFormed) = true := by decide

/-- Register files, pairs and quadruples, masks beyond m15, conditions, and the fields g, ord, i and b of an entry (R81, R85). -/
theorem test_wf_refuses_other_fields :
    ([.permb 0 0 63 0, .permb 0 0 64 0, .icmp 0 16 0 0, .icmpu 0 16 0 0, .fcmp 0 16 0 0, .fclass 16 0 0, .cvtf 0 0 0 64, .cvtf 0 0 0 40,
      .cvtf 0 0 0 5, .cvtfi 0 0 0 64, .cvtfi 0 0 0 40, .cvtfi 0 0 0 6, .cvtfi 0 0 0 1, .cvtif 0 0 0 64, .cvtif 0 0 0 48, .cvtif 0 0 0 5,
      .packn 0 0 0 64, .unpkn 0 0 0 64, .red 0 0 0 0 1, .ldf 1 0 0 0 2, .mand 16 0 0, .mand 0 16 0, .mand 0 0 16, .mor 16 0 0,
      .mxor 0 16 0, .mnot 0 16, .mmov 0 16 0, .mmov 1 16 0, .mmov 2 0 16, .emrd 1 16, .emwr 1 16, .ballot 16 0, .mpopc 0 0 16,
      .mfirst 0 0 16, .rdlane 0 1 0 2, .rdlane 0 0 0 3, .wrlane 1 0 0 1, .wrlane 0 0 0 2, .vbcst 1 1 0, .srd 0 0 0x23, .srd 0 0 1,
      .swr 0x23 0, .bra 8 0 0, .bra 0 1 0, .split 0 0 0, .split 3 0 0, .meld 16 1, .meld 0 0, .meld 0 33, .wait 0 256, .icinv 0 0 3,
      .loopb 8 0 0xFFFF, .loopb 0 1 0xFFFF, .loopb 1 0 4, .bara 0 0 2, .bart 0 0 0 2, .bart 1 0 0 0, .phase 4 0 1, .talloc 0 0 1 0,
      .talloc 0 0 0 3, .trd 3 0 0, .trd 0 1 0, .twr 0 0 1, .mma 0 2 0, .mma 0 0 1, .mmag 0 0 2 0, .mmag 0 0 0 1, .qenq 1 1 0 0 0,
      .qenq 0 0 0 1 0, .qenq 0 0 0 0 2, .qdeq 2 2 0 0 0, .qsteal 3 4 0 0, .signal 1 0 0 0, .signal 0 0 0 2, .gfloor 0, .gfloor 4, .gcap 0,
      .gcap 4, .gwait 4 0 0, .pconv 1 0 0 0, .pld 0 1 0 1, .pld 0 0 0 2, .coll 0 0 2] : List Instr).all
      (fun i => !i.wellFormed) = true := by decide

/-- The number of the unit that an event names lies in the chip (R10). -/
theorem test_wf_refuses_units :
    ([.create 0, .create 17, .enqCommit 1 0 32 0, .pitchWrite 256 [], .capbaseWrite 4 0, .capctlWrite 4 0, .fieldUp 6, .fieldLoss 6,
      .portTrained 16, .circuitUp 16, .portDrained 16, .portFault 16, .portRetrained 16, .pageWalkDone 96 0 0 0,
      .scratchpadEccError 96 0 0 0, .wcLineDrain 96 0, .powerSample 6 0 0, .captureDone 4, .powerLimitThrottle 6, .throttleClockStep 6,
      .thermalThrottle 6, .thermalTrip 6, .leanReplay 6, .leanWindowEnd 6, .headroomRemeasure 6 0, .hbmRetrain 12,
      .portErrorSample 16 0] : List Instr).all (fun i => !i.wellFormed) = true := by decide

/-! ## Decoding: one word for every encoded constructor, from the rows of the encoding tables (R75 to R83) -/

theorem test_decode_lane_integer :
    decodeTableWord 32 0x00220606 = some (.iadd 1 8 12 6)
    ∧ decodeTableWord 32 0x01220606 = some (.isub 1 8 12 6)
    ∧ decodeTableWord 32 0x02220606 = some (.imul 1 8 12 6)
    ∧ decodeTableWord 32 0x03220606 = some (.imad 1 8 12 6)
    ∧ decodeTableWord 32 0x04220606 = some (.imin 1 8 12 6)
    ∧ decodeTableWord 32 0x05220606 = some (.imax 1 8 12 6)
    ∧ decodeTableWord 32 0x06220600 = some (.iabs 1 8 12)
    ∧ decodeTableWord 32 0x07220600 = some (.ineg 1 8 12)
    ∧ decodeTableWord 32 0x08020606 = some (.and 8 12 6)
    ∧ decodeTableWord 32 0x09020606 = some (.or 8 12 6)
    ∧ decodeTableWord 32 0x0A020606 = some (.xor 8 12 6)
    ∧ decodeTableWord 32 0x0B020606 = some (.andn 8 12 6)
    ∧ decodeTableWord 32 0x0C020600 = some (.not 8 12)
    ∧ decodeTableWord 32 0x0D020606 = some (.shl 8 12 6)
    ∧ decodeTableWord 32 0x0E220606 = some (.shr 1 8 12 6)
    ∧ decodeTableWord 32 0x0F220606 = some (.rot 1 8 12 6)
    ∧ decodeTableWord 32 0x10020600 = some (.popc 8 12)
    ∧ decodeTableWord 32 0x11020600 = some (.clz 8 12)
    ∧ decodeTableWord 32 0x12020600 = some (.brev 8 12)
    ∧ decodeTableWord 32 0x13220606 = some (.bfx 1 8 12 6)
    ∧ decodeTableWord 32 0x14020606 = some (.bfi 8 12 6)
    ∧ decodeTableWord 32 0x15220606 = some (.icmp 1 8 12 6)
    ∧ decodeTableWord 32 0x16220606 = some (.icmpu 1 8 12 6)
    ∧ decodeTableWord 32 0x17220606 = some (.sel 1 8 12 6)
    ∧ decodeTableWord 32 0x18020600 = some (.mov 8 12)
    ∧ decodeTableWord 32 0x19020000 = some (.movl 8)
    ∧ decodeTableWord 32 0x1A020606 = some (.iadd64 8 12 6)
    ∧ decodeTableWord 32 0x1B220606 = some (.imulw 1 8 12 6)
    ∧ decodeTableWord 32 0x1C220600 = some (.cvti 1 8 12)
    ∧ decodeTableWord 32 0x1D220606 = some (.idot4 1 8 12 6)
    ∧ decodeTableWord 32 0x1E220000 = some (.lidx 1 8)
    ∧ decodeTableWord 32 0x20220606 = some (.permb 1 8 12 6)
    ∧ decodeTableWord 32 0x21220606 = some (.balign 1 8 12 6)
    ∧ decodeTableWord 32 0x22020606 = some (.shfl 8 12 6)
    ∧ decodeTableWord 32 0x23220606 = some (.shup 1 8 12 6)
    ∧ decodeTableWord 32 0x24220606 = some (.shdn 1 8 12 6)
    ∧ decodeTableWord 32 0x25020606 = some (.shflx 8 12 6)
    ∧ decodeTableWord 32 0x26020606 = some (.bcst 8 12 6)
    ∧ decodeTableWord 32 0x27020606 = some (.bsel 8 12 6) := by
  refine ⟨?_, ?_, ?_, ?_, ?_, ?_, ?_, ?_, ?_, ?_, ?_, ?_, ?_, ?_, ?_, ?_, ?_, ?_, ?_, ?_, ?_, ?_, ?_, ?_, ?_, ?_, ?_, ?_, ?_, ?_, ?_, ?_, ?_, ?_, ?_, ?_, ?_, ?_, ?_⟩ <;> rfl

theorem test_decode_lane_float :
    decodeTableWord 32 0x30220606 = some (.fadd 1 8 12 6)
    ∧ decodeTableWord 32 0x31220606 = some (.fsub 1 8 12 6)
    ∧ decodeTableWord 32 0x32220606 = some (.fmul 1 8 12 6)
    ∧ decodeTableWord 32 0x33220606 = some (.ffma 1 8 12 6)
    ∧ decodeTableWord 32 0x34020606 = some (.fmin 8 12 6)
    ∧ decodeTableWord 32 0x35020606 = some (.fmax 8 12 6)
    ∧ decodeTableWord 32 0x36220606 = some (.fsgn 1 8 12 6)
    ∧ decodeTableWord 32 0x37220606 = some (.fcmp 1 8 12 6)
    ∧ decodeTableWord 32 0x38020606 = some (.fclass 8 12 6)
    ∧ decodeTableWord 32 0x39220600 = some (.frcp 1 8 12)
    ∧ decodeTableWord 32 0x3A220600 = some (.frsq 1 8 12)
    ∧ decodeTableWord 32 0x3B220600 = some (.fsqrt 1 8 12)
    ∧ decodeTableWord 32 0x3C220600 = some (.fexp2 1 8 12)
    ∧ decodeTableWord 32 0x3D220600 = some (.flog2 1 8 12)
    ∧ decodeTableWord 32 0x3E220600 = some (.ftanh 1 8 12)
    ∧ decodeTableWord 32 0x3F220606 = some (.fdiv 1 8 12 6)
    ∧ decodeTableWord 32 0x40220606 = some (.hadd2 1 8 12 6)
    ∧ decodeTableWord 32 0x41220606 = some (.hmul2 1 8 12 6)
    ∧ decodeTableWord 32 0x42220606 = some (.hfma2 1 8 12 6)
    ∧ decodeTableWord 32 0x4322060A = some (.cvtf 1 8 12 10)
    ∧ decodeTableWord 32 0x44220600 = some (.frnd 1 8 12)
    ∧ decodeTableWord 32 0x45220606 = some (.fscl 1 8 12 6)
    ∧ decodeTableWord 32 0x4622060B = some (.cvtfi 1 8 12 11)
    ∧ decodeTableWord 32 0x47220619 = some (.cvtif 1 8 12 25)
    ∧ decodeTableWord 32 0x48220621 = some (.packn 1 8 12 33)
    ∧ decodeTableWord 32 0x49220621 = some (.unpkn 1 8 12 33) := by
  refine ⟨?_, ?_, ?_, ?_, ?_, ?_, ?_, ?_, ?_, ?_, ?_, ?_, ?_, ?_, ?_, ?_, ?_, ?_, ?_, ?_, ?_, ?_, ?_, ?_, ?_, ?_⟩ <;> rfl

theorem test_decode_memory :
    decodeTableWord 32 0x50620531 = some (.ld 3 8 5 12 1)
    ∧ decodeTableWord 32 0x51420531 = some (.st 2 8 5 12 1)
    ∧ decodeTableWord 32 0x52220531 = some (.ldl 1 8 5 12 1)
    ∧ decodeTableWord 32 0x53820531 = some (.stl 4 8 5 12 1)
    ∧ decodeTableWord 32 0x54220531 = some (.atomC 1 8 5 12 1)
    ∧ decodeTableWord 32 0x55220531 = some (.atomD 1 8 5 12 1)
    ∧ decodeTableWord 32 0x56220531 = some (.atomS 1 8 5 12 1)
    ∧ decodeTableWord 32 0x57220531 = some (.atoml 1 8 5 12 1)
    ∧ decodeTableWord 32 0x58220531 = some (.xchg 1 8 5 12 1)
    ∧ decodeTableWord 32 0x59220531 = some (.cas 1 8 5 12 1)
    ∧ decodeTableWord 32 0x5A220532 = some (.red 1 8 5 12 2)
    ∧ decodeTableWord 32 0x5B220531 = some (.ldf 1 8 5 12 1)
    ∧ decodeTableWord 32 0x5D200530 = some (.pref 1 5 12) := by
  refine ⟨?_, ?_, ?_, ?_, ?_, ?_, ?_, ?_, ?_, ?_, ?_, ?_, ?_⟩ <;> rfl

theorem test_decode_scalar :
    decodeTableWord 32 0x80120C18 = some (.sadd 1 8 12 6)
    ∧ decodeTableWord 32 0x81120C18 = some (.ssub 1 8 12 6)
    ∧ decodeTableWord 32 0x82020C18 = some (.smul 8 12 6)
    ∧ decodeTableWord 32 0x83120C18 = some (.smulh 1 8 12 6)
    ∧ decodeTableWord 32 0x84020C18 = some (.sand 8 12 6)
    ∧ decodeTableWord 32 0x85020C18 = some (.sor 8 12 6)
    ∧ decodeTableWord 32 0x86020C18 = some (.sxor 8 12 6)
    ∧ decodeTableWord 32 0x87020C18 = some (.sshl 8 12 6)
    ∧ decodeTableWord 32 0x88120C18 = some (.sshr 1 8 12 6)
    ∧ decodeTableWord 32 0x89120C18 = some (.smin 1 8 12 6)
    ∧ decodeTableWord 32 0x8A120C18 = some (.smax 1 8 12 6)
    ∧ decodeTableWord 32 0x8B120C18 = some (.scmp 1 8 12 6)
    ∧ decodeTableWord 32 0x8C020C18 = some (.ssel 8 12 6)
    ∧ decodeTableWord 32 0x8D020C00 = some (.smov 8 12)
    ∧ decodeTableWord 32 0x8E020005 = some (.smovi 8 5)
    ∧ decodeTableWord 32 0x8F120005 = some (.slui 1 8 5)
    ∧ decodeTableWord 32 0x90020000 = some (.smovl 8)
    ∧ decodeTableWord 32 0x91020C00 = some (.spopc 8 12)
    ∧ decodeTableWord 32 0x92020C00 = some (.sclz 8 12)
    ∧ decodeTableWord 32 0x93120C18 = some (.sbfx 1 8 12 6)
    ∧ decodeTableWord 32 0x94120C19 = some (.sld 1 8 12 6 1)
    ∧ decodeTableWord 32 0x95220C19 = some (.sst 2 8 12 6 1)
    ∧ decodeTableWord 32 0x96020005 = some (.saddi 8 5) := by
  refine ⟨?_, ?_, ?_, ?_, ?_, ?_, ?_, ?_, ?_, ?_, ?_, ?_, ?_, ?_, ?_, ?_, ?_, ?_, ?_, ?_, ?_, ?_, ?_⟩ <;> rfl

theorem test_decode_masks_and_lanes :
    decodeTableWord 32 0x98020C18 = some (.mand 8 12 6)
    ∧ decodeTableWord 32 0x99020C18 = some (.mor 8 12 6)
    ∧ decodeTableWord 32 0x9A020C18 = some (.mxor 8 12 6)
    ∧ decodeTableWord 32 0x9B020C00 = some (.mnot 8 12)
    ∧ decodeTableWord 32 0x9C120C00 = some (.mmov 1 8 12)
    ∧ decodeTableWord 32 0x9D120000 = some (.emrd 1 8)
    ∧ decodeTableWord 32 0x9E100C00 = some (.emwr 1 12)
    ∧ decodeTableWord 32 0x9F020C00 = some (.ballot 8 12)
    ∧ decodeTableWord 32 0xA0120C00 = some (.mpopc 1 8 12)
    ∧ decodeTableWord 32 0xA1120C00 = some (.mfirst 1 8 12)
    ∧ decodeTableWord 32 0xA2020C19 = some (.rdlane 8 12 6 1)
    ∧ decodeTableWord 32 0xA3020C19 = some (.wrlane 8 12 6 1)
    ∧ decodeTableWord 32 0xA4120C00 = some (.redux 1 8 12)
    ∧ decodeTableWord 32 0xA5120C00 = some (.vbcst 1 8 12)
    ∧ decodeTableWord 32 0xA6020C00 = some (.srd 0 8 12)
    ∧ decodeTableWord 32 0xA7054C00 = some (.swr 21 12) := by
  refine ⟨?_, ?_, ?_, ?_, ?_, ?_, ?_, ?_, ?_, ?_, ?_, ?_, ?_, ?_, ?_, ?_⟩ <;> rfl

theorem test_decode_control :
    decodeTableWord 32 0xA823FFF0 = some (.bra 2 3 65520)
    ∧ decodeTableWord 32 0xA9000C00 = some (.jmpi 12)
    ∧ decodeTableWord 32 0xAA00FFF0 = some (.call 65520)
    ∧ decodeTableWord 32 0xAB000C00 = some (.calli 12)
    ∧ decodeTableWord 32 0xAC000000 = some (.ret)
    ∧ decodeTableWord 32 0xAD23FFF0 = some (.split 2 3 65520)
    ∧ decodeTableWord 32 0xAE000000 = some (.regang)
    ∧ decodeTableWord 32 0xAF020020 = some (.meld 8 32)
    ∧ decodeTableWord 32 0xB0020C01 = some (.mtab 8 12 1)
    ∧ decodeTableWord 32 0xB0000002 = some (.mtabClr)
    ∧ decodeTableWord 32 0xB1000005 = some (.stake 5)
    ∧ decodeTableWord 32 0xB2000000 = some (.tail)
    ∧ decodeTableWord 32 0xB3000000 = some (.exit)
    ∧ decodeTableWord 32 0xB400FFF0 = some (.yield 65520)
    ∧ decodeTableWord 32 0xB54000FF = some (.wait 4 255)
    ∧ decodeTableWord 32 0xB6000C00 = some (.syncl 12)
    ∧ decodeTableWord 32 0xB7000005 = some (.trap 5)
    ∧ decodeTableWord 32 0xB8000000 = some (.tret)
    ∧ decodeTableWord 32 0xB9000005 = some (.brk 5)
    ∧ decodeTableWord 32 0xBA000C19 = some (.icinv 12 6 1)
    ∧ decodeTableWord 32 0xBB000000 = some (.ifence)
    ∧ decodeTableWord 32 0xBC000001 = some (.fence 1)
    ∧ decodeTableWord 32 0xBD000000 = some (.nop)
    ∧ decodeTableWord 32 0xBE23FFF0 = some (.loopb 2 3 65520)
    ∧ decodeTableWord 32 0xBF100005 = some (.tmark 1 5) := by
  refine ⟨?_, ?_, ?_, ?_, ?_, ?_, ?_, ?_, ?_, ?_, ?_, ?_, ?_, ?_, ?_, ?_, ?_, ?_, ?_, ?_, ?_, ?_, ?_, ?_, ?_⟩ <;> rfl

theorem test_decode_barriers :
    decodeTableWord 32 0xC0000C18 = some (.bari 12 6)
    ∧ decodeTableWord 32 0xC0000C01 = some (.bariBytes 12)
    ∧ decodeTableWord 32 0xC1020C01 = some (.bara 8 12 1)
    ∧ decodeTableWord 32 0xC2000C18 = some (.barw 12 6)
    ∧ decodeTableWord 32 0xC3020C19 = some (.bart 8 12 6 1)
    ∧ decodeTableWord 32 0xC4000C00 = some (.barx 12)
    ∧ decodeTableWord 32 0xC5000000 = some (.barb)
    ∧ decodeTableWord 32 0xC6720C00 = some (.phase 7 8 12) := by
  refine ⟨?_, ?_, ?_, ?_, ?_, ?_, ?_, ?_⟩ <;> rfl

theorem test_decode_tiles :
    decodeTableWord 32 0xC8020C19 = some (.talloc 8 12 6 1)
    ∧ decodeTableWord 32 0xC9000C00 = some (.tfree 12)
    ∧ decodeTableWord 32 0xCA020C00 = some (.tinfo 8 12)
    ∧ decodeTableWord 32 0xCA120000 = some (.tinfoFree 8)
    ∧ decodeTableWord 32 0xCB000C00 = some (.tzero 12)
    ∧ decodeTableWord 32 0xCC520C00 = some (.trd 5 8 12)
    ∧ decodeTableWord 32 0xCC320C00 = some (.trdSt 8 12)
    ∧ decodeTableWord 32 0xCD100C18 = some (.twr 1 12 6)
    ∧ decodeTableWord 32 0xCE100C18 = some (.mma 1 12 6)
    ∧ decodeTableWord 32 0xCF420C18 = some (.mmag 4 8 12 6)
    ∧ decodeTableWord 32 0xD0000C18 = some (.cpyk 12 6) := by
  refine ⟨?_, ?_, ?_, ?_, ?_, ?_, ?_, ?_, ?_, ?_, ?_⟩ <;> rfl

theorem test_decode_queues_and_launch :
    decodeTableWord 32 0xD8120C19 = some (.qenq 1 8 12 6 1)
    ∧ decodeTableWord 32 0xD9120C19 = some (.qdeq 1 8 12 6 1)
    ∧ decodeTableWord 32 0xDA120C18 = some (.qsteal 1 8 12 6)
    ∧ decodeTableWord 32 0xDB020C00 = some (.qinfo 8 12)
    ∧ decodeTableWord 32 0xDC120C00 = some (.qcap 1 8 12)
    ∧ decodeTableWord 32 0xDD020C18 = some (.launch 8 12 6)
    ∧ decodeTableWord 32 0xDE020C18 = some (.renew 8 12 6)
    ∧ decodeTableWord 32 0xDF020C19 = some (.signal 8 12 6 1) := by
  refine ⟨?_, ?_, ?_, ?_, ?_, ?_, ?_, ?_⟩ <;> rfl

theorem test_decode_grades :
    decodeTableWord 32 0xE0000002 = some (.gfloor 2)
    ∧ decodeTableWord 32 0xE1000003 = some (.gcap 3)
    ∧ decodeTableWord 32 0xE2020C00 = some (.gread 8 12)
    ∧ decodeTableWord 32 0xE3200C18 = some (.gwait 2 12 6)
    ∧ decodeTableWord 32 0xE4300C18 = some (.amend 3 12 6)
    ∧ decodeTableWord 32 0xE5120000 = some (.gstat 1 8) := by
  refine ⟨?_, ?_, ?_, ?_, ?_, ?_⟩ <;> rfl

theorem test_decode_tensors :
    decodeTableWord 32 0xE8020C00 = some (.pdecl 8 12)
    ∧ decodeTableWord 32 0xE9020C19 = some (.pconv 8 12 6 1)
    ∧ decodeTableWord 32 0xEA020C19 = some (.pld 8 12 6 1)
    ∧ decodeTableWord 32 0xEB120C00 = some (.pstat 1 8 12)
    ∧ decodeTableWord 32 0xEC000C00 = some (.pfree 12) := by
  refine ⟨?_, ?_, ?_, ?_, ?_⟩ <;> rfl

theorem test_decode_links :
    decodeTableWord 32 0xF0020C18 = some (.xsend 8 12 6)
    ∧ decodeTableWord 32 0xF0020C01 = some (.xsendLand 8 12)
    ∧ decodeTableWord 32 0xF1020C18 = some (.reconf 8 12 6)
    ∧ decodeTableWord 32 0xF2020C18 = some (.slots 8 12 6)
    ∧ decodeTableWord 32 0xF3120C00 = some (.coll 1 8 12) := by
  refine ⟨?_, ?_, ?_, ?_, ?_⟩ <;> rfl

/-- Reserved opcodes, nonzero fields that an entry leaves unused, undefined values of a field and too few bytes give no
instruction (R81, R84, R85). -/
theorem test_decode_refuses :
    [0x1F000000, 0x28000000, 0x4A000000, 0x5C000000, 0x5E000000, 0x7F000000, 0x97000000, 0xC7000000, 0xD7000000, 0xFF000000, 0x06010001,
      0xB3000001, 0x9B000004, 0xA8010000, 0xDD000001, 0x00610204, 0x8E100000].all
      (fun w => (decodeTableWord 32 w).isNone) = true := by decide

theorem test_decode_needs_four_bytes : decodeBytes [0, 0, 0xB3] = .error .tooShort := rfl

theorem test_decode_is_little_endian : decodeBytes [0x02, 0x40, 0x00, 0xAF, 7] = .ok (.meld 1 2, [7]) := rfl

/-! ## States of the tests -/

/-- One running group in the slot at 0x10004 under the identity mapping, its lane registers v0 to v15 and scalars given. -/
def base : State :=
  let s := placeWord State.reset 0
  { s with
    cur := some ⟨⟨0, 0, 0, 0⟩, none, 0, false, false, false, 0⟩, agenda := [],
    groups := s.groups.map fun g => { g with
      vregs := ((List.range 16).map fun n => (n, Lanes.of fun i => BitVec.ofNat 32 (n + 4 * i))) ++ g.vregs,
      frags := g.frags.map fun f => { f with pc := 0x10004 } } }

def upd (s : State) (f : Group → Group) : State := { s with groups := s.groups.map f }
def updF (s : State) (f : Fragment → Fragment) : State := upd s fun g => { g with frags := g.frags.map f }
def sc (s : State) (l : List (Nat × Nat)) : State :=
  l.foldl (fun a p => upd a fun g => { g with sregs := g.sregs.setIfInBounds p.1 (BitVec.ofNat 64 p.2) }) s
def mk (s : State) (n x : Nat) : State := upd s fun g => { g with mregs := g.mregs.setIfInBounds n (BitVec.ofNat 32 x) }
def emOf (s : State) (m : Word) : State := updF s fun f => { f with em := m }
def park (s : State) (k : ParkKind) : State := updF s fun f => { f with park := some k }
def inHandler (s : State) : State := upd s fun g => { g with h := true, fpc := 0x10008, frame := some ⟨g.frags, 0⟩ }
def updC (s : State) (f : Context → Context) : State := { s with contexts := s.contexts.map f }
def updB (s : State) (f : Block → Block) : State := { s with blocks := s.blocks.map f }
def updK (s : State) (f : Kernel → Kernel) : State := { s with kernels := s.kernels.map f }
def later (s : State) (n : Nat) : State := { s with fields := s.fields.map fun f => { f with cycle := n } }
/-- Slices 0 to 3 stay with fragment 0, slices 4 to 7 are fragment 1. -/
def split2 (s : State) (h : Fragment → Fragment := id) : State := upd s fun g => match g.frags with
  | [f] => { g with frags := [{ f with slices := 0x0F, em := 0xFFFF }, h { f with index := 1, slices := 0xF0, em := 0xFFFF0000 }] }
  | _ => g
/-- A second group of the block. -/
def twoGroups (s : State) : State := { s with groups := s.groups ++ s.groups.map fun g => { g with at_ := ⟨0, 1, 3⟩, gid := 1 } }
/-- A translation of a gigabyte with dirty set: an entry of the TLB. -/
def leaf (i mt loc : Nat) (graded : Bool) : TlbEntry :=
  { unit := 0, ctx := 0, vbase := i * 0x40000000, size := 0x40000000, node := 0, loc := loc, mt := mt, frame := i * 0x40000000,
    graded := graded, dirty := true, x := true, w := true, r := true, pteAt := 0x9000 + 8 * i }
/-- Type V at 1 GiB, graded at 2 GiB, host at 3 GiB. -/
def leaves (s : State) : State := { s with tlb := s.tlb ++ [leaf 1 2 0 false, leaf 2 0 0 true, leaf 3 0 2 false] }
/-- Lane k of v9 and of v4 holds `step · k`, and s4 the base. -/
def lanesAt (s : State) (b step : Nat) : State :=
  sc (upd s fun g => { g with vregs := g.vregs.map fun p =>
    if p.1 = 4 ∨ p.1 = 9 then (p.1, Lanes.of fun i => BitVec.ofNat 32 (step * i)) else p }) [(4, b), (7, 0)]
def put (s : State) (lo : Nat) (l : List (Nat × Nat × Nat)) : State :=
  l.foldl (fun a p => { a with mem := writeBytes a.mem (lo + p.1) (leBytes p.2.2 p.2.1) }) s
def tileAt (id num : Nat) (level : TileLevel) (rows rb : Nat) : Tile :=
  { id := id, ctx := 0, dom := 0, kid := 0, num := num, gen := 0, level := level, core := 0, holder := 0, peer := 0, shape := 0,
    rows := rows, rb := rb, base := id, phase := 0, bytes := [], tstat := 5, state := .live }
def tiles (s : State) : State :=
  { s with tiles := [tileAt 11 1 .s 8 64, tileAt 12 2 .a 32 256, tileAt 13 4 .s 8 64], nextEngine := 20 }
def refTo (h off : Nat) : Nat := h + off * 65536
def engineOf (id : Nat) (k : EngineKind) : Engine :=
  { id := id, core := 0, ctx := 0, part := 1, kid := 0, dom := 0, group := some ⟨0, 0, 0⟩, kind := k, hulls := [], admitted := true,
    suspended := false, items := [], node := none }
def after (o : Host.Outcome State Fault Refusal) : State := match o with
  | .next t => t
  | _ => base
def isNext (o : Host.Outcome State Fault Refusal) : Bool := match o with
  | .next _ => true
  | _ => false

/-- The premises of a statement about an issued slot, as a test that runs. -/
def meets (s : State) (i : Instr) (uni : Bool) (u : Iss → Uses) (more : Iss → Bool := fun _ => true) : Bool :=
  match s.issuer? with
  | none => false
  | some c => i.wellFormed && literalOk i c.lit.isSome && (!uni || c.f.meldLeft == 0) && ((u c).vr ++ (u c).vw).all c.legalOp
      && (!c.g.chk || (!c.hazard (u c) && (c.unallocated? (u c)).isNone)) && more c

/-- A state that meets the test meets the premises. -/
theorem premises_of_meets (s : State) (i : Instr) (uni : Bool) (u : Iss → Uses) (more : Iss → Bool) (h : meets s i uni u more = true) :
    ∃ c, s.issuer? = some c ∧ c.Passes i uni (u c) ∧ more c = true := by
  unfold meets at h
  split at h
  · cases h
  · rename_i c hc
    simp only [Bool.and_eq_true, Bool.or_eq_true, Bool.not_eq_true', List.all_eq_true, beq_iff_eq, Option.isNone_iff_eq_none] at h
    obtain ⟨⟨⟨⟨⟨h1, h2⟩, h3⟩, h4⟩, h5⟩, h6⟩ := h
    refine ⟨c, hc, ⟨h1, h2, fun hu => ?_, h4, fun hk => ?_⟩, h6⟩
    · rcases h3 with h3 | h3
      · rw [hu] at h3; cases h3
      · exact h3
    · rcases h5 with h5 | h5
      · rw [hk] at h5; cases h5
      · exact h5

def goodTarget (s : State) (t : DWord) : Bool := match checkTarget s 0 0 t with
  | .ok _ => true
  | _ => false
def badTarget (s : State) (t : DWord) : Bool := match checkTarget s 0 0 t with
  | .bad => true
  | _ => false
def none_ (_ : Iss) : Uses := uniUses [] []
def reads (l : List Nat) (w : List Nat := []) (_ : Iss) : Uses := uniUses (l.map RName.s) (w.map RName.s)

/-! ## One step -/

theorem test_step_runs_smovi :
    (after (step (State.reset.withFetchWord 32 0x8E015FFF))).groups.map (·.sNew 5) = [0x1FFF] := by decide +kernel

theorem test_iadd_adds_in_lanes_of_em :
    (after (exec (.iadd 0 3 1 2) (emOf base 0x2))).groups.map (fun g => ((g.vNew 3).get 1, (g.vNew 3).get 2)) = [(11, 11)] := by decide +kernel

theorem test_saturating_sum : addMode 1 (0x7FFFFFFF : Word) 1 = 0x7FFFFFFF ∧ subMode 2 (1 : Word) 2 = 0 := by decide +kernel

theorem test_shift_by_the_width : (after (exec (.sshl 6 5 4) (sc base [(5, 1), (4, 64)]))).groups.map (·.sNew 6) = [0] := by decide +kernel

theorem test_mask_write_in_lanes_of_the_fragment :
    (after (exec (.mnot 2 1) (split2 base))).groups.map (·.mNew 2) = [0x0000FFFF] := by decide +kernel

theorem test_call_pushes_the_next_slot :
    (after (exec (.call 2) base)).groups.map (fun g => g.frags.map fun f => (f.pc, f.rstack)) = [[(0x1000C, [0x10008])]] := by decide +kernel

theorem test_return_at_depth_zero_traps :
    (after (exec .ret base)).groups.map (fun g => (g.h, g.fcause.toNat)) = [(true, 2)] := by decide +kernel

theorem test_trap_saves_the_next_slot :
    (after (exec (.trap 77) base)).groups.map (fun g => (g.fcause.toNat, g.finfo.toNat, g.fpc.toNat)) = [(0x15, 77, 0x10008)] := by decide +kernel

theorem test_floor_and_cap :
    (after (exec (.gfloor 2) base)).groups.map (·.floor) = [2] ∧ (after (exec (.gcap 1) base)).groups.map (·.outgrade) = [1] := by decide +kernel

theorem test_exit_of_the_last_fragment : (after (exec .exit base)).groups.map (·.state) = [.tail] := by decide +kernel

/-! ## Witnesses: states and operands that meet the premises of the statements -/

theorem witness_DecodeOfEncode : (Instr.iadd 2 127 64 1).wellFormed = true ∧ encode (.iadd 2 127 64 1) = some 0x005FE001 := by decide +kernel

theorem witness_EncodeOfDecode : decodeWord 0xAF004002 = .ok (.meld 1 2) := rfl

/-- The first slot after reset with a word placed. -/
theorem witness_StepRunsDecoded :
    (let s := State.reset.withFetchWord 32 0x8E015FFF
    match s.agenda with
    | .issue w :: rest =>
      (match s.group? w.group with
      | some g => (match g.frag? w.index with
        | some f =>
          let s0 := ({ s with agenda := rest } : State).tick (cyclesTo s w.core f.readyAt)
          groupLive s g && f.park.isNone && decide (f.readyAt ≤ s0.cycleOf w.core) && (match supply s0 w g.ctx f with
            | .got b _ => !bundleFaulty b && slotOk b f.pc.toNat && !(bundleKind b = 1 && isTransfer (bundleWord b (f.pc.toNat / 4 % 4)))
                && decide (bundleWord b (f.pc.toNat / 4 % 4) = 0x8E015FFF)
            | _ => false)
        | none => false)
      | none => false)
    | _ => false) = true := by decide +kernel

theorem witness_StepKeepsMemories :
    (State.reset.withFetchWord 32 0x8E015FFF).memOk = true ∧ isNext (step (State.reset.withFetchWord 32 0x8E015FFF)) = true := by decide +kernel

theorem witness_LaneArithmetic :
    meets base (.iadd 2 3 1 2) false (usesAB 1 2 3) = true ∧ meets base (.isub 1 3 1 2) false (usesAB 1 2 3) = true
    ∧ meets base (.imul 0 3 1 2) false (usesAB 1 2 3) = true ∧ meets base (.imad 1 3 1 2) false (usesABD 1 2 3) = true
    ∧ meets base (.imin 1 3 1 2) false (usesAB 1 2 3) = true ∧ meets base (.imax 0 3 1 2) false (usesAB 1 2 3) = true
    ∧ meets base (.iabs 1 3 1) false (usesA 1 3) = true ∧ meets base (.ineg 0 3 1) false (usesA 1 3) = true := by decide +kernel

theorem witness_LaneLogicAndShifts :
    meets base (.and 3 1 2) false (usesAB 1 2 3) = true ∧ meets base (.not 3 1) false (usesA 1 3) = true
    ∧ meets base (.shr 1 3 1 2) false (usesAB 1 2 3) = true ∧ meets base (.bfi 3 1 2) false (usesABD 1 2 3) = true := by decide +kernel

theorem witness_LaneMovesAndPermutes :
    meets base (.sel 5 3 1 2) false (fun c => c.laneUses (.a 1 :: c.bOp (.b 2)) [.d 3] [.m 5]) = true
    ∧ meets base (.lidx 2 3) false (fun c => c.laneUses [] [.d 3]) = true
    ∧ meets base (.iadd64 4 2 6) false (fun c => c.laneUses (⟨2, 2, 0⟩ :: c.bOp ⟨6, 2, 1⟩) [⟨4, 2, 2⟩]) = true
    ∧ meets base (.permb 1 3 62 2) false (fun c => c.laneUses (c.bOp (.b 2)) [.d 3] [.s 62, .s 63]) = true
    ∧ meets base (.shup 7 3 1 2) false (fun c => c.crossUses (.a 1 :: c.bOp (.b 2)) [.d 3]) = true
    ∧ meets { base with cur := base.cur.map fun i => { i with lit := some 9 } } (.movl 3) false (fun c => c.laneUses [] [.d 3]) = true := by decide +kernel

theorem witness_LaneFloat :
    meets base (.fadd 3 3 1 2) false (usesAB 1 2 3) = true ∧ meets base (.ffma 2 3 1 2) false (usesABD 1 2 3) = true
    ∧ meets base (.ftanh 7 3 1) false (usesA 1 3) = true ∧ meets base (.hfma2 4 3 1 2) false (usesABD 1 2 3) = true
    ∧ meets base (.cvtf 0 3 1 0x12) false (fun c => c.laneUses [.a 1, .d 3] [.d 3]) = true
    ∧ meets base (.cvtfi 3 3 1 0x0B) false (usesA 1 3) = true ∧ meets base (.cvtif 3 3 1 0) false (usesA 1 3) = true := by decide +kernel

theorem witness_ComparisonsWriteMasks :
    meets base (.icmp 5 15 1 2) false (fun c => c.laneUses (.a 1 :: c.bOp (.b 2)) [] [] [.m 15]) = true
    ∧ meets base (.fclass 0 1 2) false (fun c => c.laneUses (.a 1 :: c.bOp (.b 2)) [] [] [.m 0]) = true
    ∧ meets base (.ballot 2 7) true
      (fun c => { vr := [⟨7, 1, 0⟩], vw := [], nr := [c.emName], nw := [.m 2], rl := c.em, wl := 0 }) = true := by decide +kernel

theorem witness_DivisionIsCounted :
    meets base (.fdiv 0 3 1 2) false (usesAB 1 2 3) (fun c => decide (c.g.level 0 < 255) && c.em != 0 && !c.melded) = true
    ∧ meets base (.fsqrt 3 3 1) false (usesA 1 3) (fun c => decide (c.g.level 0 < 255)) = true := by decide +kernel

/-- A block-scaled format for the three forms. -/
theorem witness_NarrowPacking :
    (match formatWord 0x5100 with
    | some fw => packable fw.ef && decide (fw.sk ≠ .none) && (unpackWidth fw.ef).isSome
        && meets (sc base [(2, 0x5100)]) (.packn 1 3 8 2) false (fun c => c.laneUses [⟨8, 4, 0⟩, .d 3] [.d 3] [.s 2])
        && meets (sc base [(2, 0x5100)]) (.packn 5 3 8 2) false (fun c => { c.laneUses [⟨8, 4, 0⟩] [.d 3] [.s 2] with rl := c.em ||| (blockLanes c fw &&& ~~~c.lanes) }) (fun c => !c.melded)
        && meets (sc base [(2, 0x5100)]) (.unpkn 1 12 8 2) false
            (fun c => c.laneUses [⟨8, 2, 0⟩] [⟨12, (unpackWidth fw.ef).getD 0, 2⟩] [.s 2])
    | none => false) = true := by decide +kernel

/-- An undefined field, an undersized stall and an unallocated register. -/
theorem witness_IssueChecksInOrder :
    (Instr.iadd 3 3 1 2).wellFormed = false
    ∧ (let s := upd base fun g => { g with chk := true, board := [⟨.v 1, 0, 0xF, 3⟩] }
       match s.issuer? with
       | some c => (Instr.iadd 0 3 1 2).wellFormed && c.g.chk && c.hazard (usesAB 1 2 3 c)
       | none => false) = true
    ∧ (let s := upd base fun g => { g with chk := true }
       match s.issuer? with
       | some c => (Instr.iadd 0 3 20 2).wellFormed && c.g.chk && !c.hazard (usesAB 20 2 3 c) && (c.unallocated? (usesAB 20 2 3 c)).isSome
       | none => false) = true := by decide +kernel

theorem witness_LatencyShowsOldValue : (base.groups.all fun g => g.pend.all (fun p => p.name != .v 3)) = true ∧ 5 < 32 := by decide +kernel

theorem witness_ScalarArithmetic :
    meets base (.sadd 2 3 1 2) true (fun c => uniUses (.s 1 :: c.bName 2) [.s 3]) = true
    ∧ meets base (.saddi 3 0x3FFF) true (fun _ => uniUses [.s 3] [.s 3]) = true
    ∧ meets base (.slui 4 3 9) true (fun _ => uniUses [.s 3] [.s 3]) = true
    ∧ meets base (.rdlane 3 2 5 2) true
      (fun c => { vr := [⟨2, 2, 0⟩], vw := [], nr := [.s 5], nw := [.s 3], rl := oneLane (laneIndex (c.sv 5)), wl := 0 }) = true
    ∧ meets base (.redux 8 3 2) true (fun c => { vr := [⟨2, 1, 0⟩], vw := [], nr := [c.emName], nw := [.s 3], rl := c.em, wl := 0 }) = true
    ∧ meets base (.wrlane 4 3 5 1) true
      (fun c => { vr := [], vw := [⟨4, 2, 3⟩], nr := [c.emName, .s 3, .s 5], nw := [], rl := 0, wl := c.em &&& oneLane (laneIndex (c.sv 5)) }) = true
    ∧ meets base (.vbcst 1 4 3) true
      (fun c => { vr := [], vw := [⟨4, 2, 3⟩], nr := [c.emName, .s 3], nw := [], rl := 0, wl := c.em }) = true := by decide +kernel

theorem witness_MaskInstructions :
    meets base (.mand 15 0 1) true (fun _ => uniUses [.m 0, .m 1] [.m 15]) = true
    ∧ meets base (.mmov 1 15 63) true (fun _ => uniUses [.s 63] [.m 15]) = true ∧ meets base (.mmov 2 63 15) true (fun _ => uniUses [.m 15] [.s 63]) = true
    ∧ meets base (.emrd 1 2) true (fun c => uniUses [c.emName] [.m 2]) = true
    ∧ meets base (.mpopc 0 3 2) true (fun c => uniUses [c.emName, .m 2] [.s 3]) = true
    ∧ meets base (.emwr 2 1) true (fun c => uniUses [c.emName, .m 1] [c.emName]) = true := by decide +kernel

/-- A read of each kind; a write of FLOOR to 0, of a read-only register, of one that software writes, and of FPC in the handler. -/
theorem witness_SpecialRegisters :
    meets base (.srd 0 3 2) true (reads [] [3]) = true
    ∧ meets base (.srd 1 3 0x22) true (fun c => { vr := [], vw := [⟨3, 1, 3⟩], nr := [c.emName], nw := [], rl := 0, wl := c.em }) = true
    ∧ meets (sc base [(3, 4)]) (.swr 0x11 3) true (reads [3]) (fun c => c.sv 3 == 4) = true
    ∧ meets base (.swr 2 3) true (reads [3]) (fun c => !c.g.h) = true ∧ meets base (.swr 0x20 3) true (reads [3]) = true
    ∧ meets (inHandler base) (.swr 0x19 3) true (reads [3]) (fun c => c.g.h) = true := by decide +kernel

theorem witness_ConditionalTransfers :
    (let u := fun c : Iss => uniUses (condNames c 0 0) []
    meets base (.bra 0 0 2) true u (fun c => condTaken 0 (c.mv 0) (c.sv 0) c.em && goodTarget base 0x1000C) = true
    ∧ meets base (.bra 0 0 0xFFFF) true u (fun c => condTaken 0 (c.mv 0) (c.sv 0) c.em && badTarget base 0x10000) = true
    ∧ meets base (.loopb 0 0 0xFFFE) true u (fun c => condTaken 0 (c.mv 0) (c.sv 0) c.em && goodTarget base 0xFFFC) = true
    ∧ meets base (.loopb 0 0 0x8000) true u (fun c => !decide ((c.pc.toNat : Int) / 16 - (c.pc.toNat + 4 * (-32768)) / 16 ≤ 31)) = true
    ∧ meets base (.bra 1 0 2) true (fun c => uniUses (condNames c 1 0) []) (fun c => !condTaken 1 (c.mv 0) (c.sv 0) c.em) = true) := by decide +kernel

/-- Depths 0, 15 and 16 of the return stack. -/
theorem witness_CallsAndReturns :
    meets (sc base [(3, 0x10008)]) (.jmpi 3) true (reads [3]) (fun c => goodTarget base (c.sv 3)) = true
    ∧ meets (sc base [(3, 6)]) (.jmpi 3) true (reads [3]) (fun c => badTarget base (c.sv 3)) = true
    ∧ meets (updF base fun f => { f with rstack := List.replicate 15 0x10008 }) (.call 1) true none_ (fun c => decide (c.f.rstack.length < 16) && goodTarget base 0x10008) = true
    ∧ meets (updF base fun f => { f with rstack := List.replicate 16 0x10008 }) (.call 1) true none_ (fun c => decide (16 ≤ c.f.rstack.length)) = true
    ∧ meets (updF (sc base [(3, 0x10008)]) fun f => { f with rstack := List.replicate 16 0x10008 }) (.calli 3) true (reads [3]) (fun c => decide (16 ≤ c.f.rstack.length)) = true
    ∧ meets (updF base fun f => { f with rstack := [0x10008] }) .ret true none_ (fun c => c.f.rstack == [0x10008] && goodTarget base 0x10008) = true
    ∧ meets base .ret true none_ (fun c => c.f.rstack == []) = true := by decide +kernel

/-- SPLIT with no slice, every slice and some slices going; REGANG alone, first and last; SYNCL that waits, completes and traps. -/
theorem witness_FragmentsSplitAndJoin :
    (let u := fun c : Iss => uniUses [c.emName, .m 2] [.m 2]
    let go := fun c : Iss => splitTaken c true (c.mv 2)
    let w (m : Word) (s : State) := upd s fun g => { g with vregs := g.vregs.map fun p => if p.1 = 5 then (5, Lanes.of fun _ => m) else p }
    let us := fun c : Iss => { vr := [⟨5, 1, 0⟩], vw := [], nr := [c.emName], nw := [], rl := c.em, wl := 0 : Uses }
    let fault := fun c : Iss => synclFault c 5 none 0 c.g.liveLanes
    let other := split2 base (fun f => { f with park := some .regang })
    meets (mk base 2 0) (.split 2 2 2) true u (fun c => go c == 0) = true
    ∧ meets (mk base 2 0xFFFFFFFF) (.split 2 2 2) true u (fun c => go c == c.f.slices && goodTarget base 0x1000C) = true
    ∧ meets (mk base 2 0xFF) (.split 2 2 2) true u (fun c => go c != 0 && go c != c.f.slices && decide (c.g.freeIndex < 8) && goodTarget base 0x1000C) = true
    ∧ meets base .regang true none_ (fun c => decide (c.g.frags.length = 1)) = true
    ∧ meets (split2 base) .regang true none_ (fun c => c.g.frags.any fun f => f.index != c.who.index && f.park != some .regang) = true
    ∧ meets other .regang true none_ (fun c => c.g.frags.all fun f => f.index == c.who.index || (f.park == some .regang && f.pc == c.pc && f.rstack == c.f.rstack)) = true
    ∧ meets (w 0xFFFFFFFF base) (.syncl 5) true us (fun c => fault c == none && (c.em &&& 0xFFFFFFFF) == 0xFFFFFFFF) = true
    ∧ meets (w 0xFFFFFFFF (split2 base)) (.syncl 5) true us (fun c => fault c == none && (c.em &&& 0xFFFFFFFF) != 0xFFFFFFFF) = true
    ∧ meets (w 0xF base) (.syncl 5) true us (fun c => (fault c).isSome) = true) := by decide +kernel

/-- STAKE reads its record, 32 bytes, from the page of the code: with the must-be-zero word clear, and not. -/
theorem witness_RenamingRegionsAndStakes :
    (let record (s : State) : Option (BitVec 128 × BitVec 128) :=
      match fetchBundle s 0 0 (stakeRecord 0x10004 8) with
      | .got p t => (match fetchBundle t 0 0 (stakeRecord 0x10004 8 + 16) with
        | .got q _ => some (p, q)
        | _ => none)
      | _ => none
    let good := { base with mem := writeNat base.mem (stakeRecord 0x10004 8 + 16) 8 8 }
    let bad := { base with mem := writeNat base.mem (stakeRecord 0x10004 8 + 16) 8 (2 ^ 40) }
    meets base (.mtab 63 5 1) true none_ = true ∧ meets base .mtabClr true none_ = true
    ∧ meets base (.meld 15 32) true (fun _ => uniUses [.m 15] []) = true ∧ meets base .nop false none_ = true ∧ meets base .ifence true none_ = true
    ∧ meets good (.stake 8) true (fun c => uniUses [c.emName] []) (fun _ => (record good).elim false fun p => decide (p.2.toNat / 2 ^ 32 = 0)
        && goodTarget good (((base.kernel? 0).elim 0 (·.launch.code)) + (p.2.setWidth 32 : Word).setWidth 64)) = true
    ∧ meets bad (.stake 8) true (fun c => uniUses [c.emName] []) (fun _ => (record bad).elim false fun p => decide (p.2.toNat / 2 ^ 32 ≠ 0)) = true) := by decide +kernel

theorem witness_EndOfAGroupAndTurnover :
    (let t := updB base fun b => { b with turnover := some (0, 1) }
    meets base .exit true none_ (fun c => !c.g.h && c.g.frags.all fun f => f.index == c.who.index) = true
    ∧ meets (inHandler base) .exit true none_ (fun c => c.g.h) = true
    ∧ meets (split2 base) .exit true none_ (fun c => !c.g.h && c.g.syncl == [] && c.g.frags.any fun f => f.index != c.who.index) = true
    ∧ meets (split2 base) .tail true none_ (fun c => decide (c.g.frags.length ≠ 1)) = true
    ∧ meets base .tail true none_ (fun c => decide (c.g.frags.length = 1) && !c.g.h) = true
    ∧ meets base (.yield 2) true none_ (fun c => (base.groupBlock? c.g).elim false fun b => b.turnover.isNone) = true
    ∧ meets t (.yield 2) true none_ (fun c => (t.groupBlock? c.g).elim false fun b => b.turnover == some (c.g.role, 1)
        && c.g.turnover.isNone && goodTarget t 0x1000C) = true) := by decide +kernel

/-- A counter at its limit and one above it; a group with a store outstanding and one without. -/
theorem witness_WaitsForOutstandingWork :
    (let op := upd base fun g => { g with ops := [{ OutOp.mk' 2 0 with index := 1, stores := [.bytes (.device 0x20000) [1]] }], issued := [0, 0, 1, 0, 0] }
    meets op (.wait 2 1) true none_ (fun c => decide (c.g.level 2 ≤ 1)) = true ∧ meets op (.wait 2 0) true none_ (fun c => decide (0 < c.g.level 2)) = true
    ∧ meets base (.icinv 0 5 2) true (reads [0, 5]) (fun c => !c.g.storesLeft) = true
    ∧ meets op (.icinv 0 5 0) true (reads [0, 5]) (fun c => c.g.storesLeft) = true
    ∧ meets base (.fence 3) true none_ (fun c => ((releaseCore base 0 3).group? c.who.group).elim false fun x => !x.storesLeft) = true
    ∧ meets op (.fence 0) true none_ (fun c => ((releaseCore op 0 0).group? c.who.group).isSome) = true) := by decide +kernel

theorem witness_SoftwareTraps :
    (let stop := updC base fun c => { c with brkstop := true }
    meets base (.trap 5) true none_ = true ∧ meets base (.tmark 1 5) true none_ = true
    ∧ meets base (.brk 5) true none_ (fun c => !((base.ctx? c.g.ctx).elim false (·.brkstop))) = true
    ∧ meets stop (.brk 5) true none_ (fun c => ((stop.ctx? c.g.ctx).elim false (·.brkstop)) && !c.g.h && (stop.block? c.g.kid c.g.block).isSome) = true
    ∧ base.issuer?.isSome = true) := by decide +kernel

/-- A trap that enters the handler, and one in the handler with room in the fault queue. -/
theorem witness_TrapsEnterOrStop :
    (let pre (s : State) (p : Group → Context → CtxRec → Bool) : Bool := match s.group? ⟨0, 0, 0⟩ with
      | some g => (s.ctx? g.ctx).elim false fun c => c.record.elim false fun r => p g c r
      | none => false
    pre base (fun g c r => !g.h && r.tvec != 0 && !c.trapstop && goodTarget base r.tvec) = true
    ∧ pre (inHandler base) (fun g c r => g.h && decide (c.state = 2) && c.fqwait == [] && decide ((c.fqtail - c.fqhead).toNat < r.fqsize)) = true) := by decide +kernel

theorem witness_ReturnFromHandler :
    meets base .tret true none_ (fun c => !c.g.h) = true
    ∧ meets (inHandler base) .tret true none_ (fun c => c.g.h && c.g.frame.isSome && goodTarget base c.g.fpc) = true
    ∧ meets (upd (inHandler base) fun g => { g with fpc := 6 }) .tret true none_ (fun c => c.g.h && c.g.frame.isSome && badTarget base c.g.fpc) = true := by decide +kernel

/-- Accesses whose checks pass: `size` bytes for each lane of em at `lanesAt`, and their translations. -/
def checked (s : State) (size : Nat) (w : Bool) (p : Iss → List TAcc → State → Bool) : Iss → Bool := fun c =>
  match accessChecks s c (c.laneAccs 4 4) size w with
  | .ok (ts, s1) => p c ts s1
  | _ => false

/-- Plain, type V and graded pages; a misaligned access; em = 0. -/
theorem witness_LoadsReadAndLand :
    (let s := lanesAt (leaves base) 0x30000 8
    let v := lanesAt (leaves base) 0x40030000 8
    let u := fun c : Iss => c.memUses 4 4 12 0 1
    let ok (s : State) := meets s (.ld 4 12 4 4 0) false u (fun c => c.em != 0 && decide (c.g.level 1 < 255)
        && checked s 4 false (fun c ts s1 => ts.all notCarveOut && ts.all fun t => !t.ent.graded || decide (c.loadFloor c.g.floor ≤ (tagAt s1 t.pa).grade)) c)
    ok s = true ∧ ok v = true
    ∧ meets (lanesAt base 0x30001 8) (.ld 4 12 4 4 0) false u (fun c => (c.laneAccs 4 4).any fun x => decide (x.ea.toNat % 4 ≠ 0)) = true
    ∧ meets (emOf s 0) (.ld 4 12 4 4 3) false u (fun c => c.em == 0 && c.f.meldLeft == 0) = true
    ∧ meets (sc s [(3, 0x30000), (5, 8)]) (.sld 6 8 3 5 0) true (reads [3, 5] [8]) (fun c => decide (c.g.level 3 < 255)
        && match accessChecks s c [⟨none, 0x30008⟩] 8 false with | .ok (ts, _) => ts.all notCarveOut | _ => false) = true
    ∧ meets v (.ld 4 12 4 4 0) false u (checked v 4 false fun c ts _ => waitingStores v c.who.core == [] && ts.all fun t => decide (2 ≤ t.ent.mt) && t.loc == .device t.pa) = true) := by decide +kernel

theorem witness_StoresWaitToBePerformed :
    (let s := lanesAt (leaves base) 0x30000 8
    let d := lanesAt { base with tlb := [leaf 0 0 0 false] } 0x30000 8
    let plain (t : TAcc) : Bool := !t.ent.graded && t.ent.mt == 0 && t.ent.loc == 0 && t.ent.dirty
    let all (s : State) := checked s 4 true fun c ts s1 => decide (c.em ≠ 0) && decide (c.g.level 2 < 255) && ts.all notCarveOut
      && (match checkGrades s1 c ts with | .ok () => true | _ => false) && (match checkVest s1 c ts 4 with | .ok () => true | _ => false)
    meets s (.st 4 12 4 4 0) false (fun c => c.memUses 4 4 12 1 0) (all s) = true
    ∧ meets (lanesAt (leaves base) 0x40030000 8) (.st 4 12 4 4 2) false (fun c => c.memUses 4 4 12 1 0) (all (lanesAt (leaves base) 0x40030000 8)) = true
    ∧ meets d (.red 0 12 4 4 0) false (fun c => c.memUses 4 4 12 1 0) (checked d 4 true fun _ ts _ => ts.all notCarveOut && ts.all plain) = true
    ∧ meets (emOf s 0) (.red 0 12 4 4 2) false (fun c => c.memUses 4 4 12 1 0) (fun c => c.em == 0) = true) := by decide +kernel

theorem witness_StorePerformedWritesItsBytes :
    (let s := upd base fun g => { g with ops := [{ OutOp.mk' 2 0 with index := 4, stores := [.bytes (.device 0x30010) [1, 2]] }], issued := [0, 0, 4, 0, 0] }
    s.mem.wf && match s.groups with
    | [g] => (match g.ops with
      | [op] => decide (op.counter = 2) && op.stores == [.bytes (.device 0x30010) [1, 2]] && op.combining == [] && !op.done && !op.external && op.lands == []
      | _ => false)
    | _ => false) = true := by decide +kernel

theorem witness_AtomicsReadModifyWrite :
    (let s := lanesAt { leaves base with tlb := [leaf 0 0 0 false, leaf 1 2 0 false] } 0x30000 8
    let ok (scope : Nat) := checked s 4 true fun c ts _ => decide (c.em ≠ 0) && decide (c.g.level 1 < 255)
      && ts.all fun t => notCarveOut t && atomicAllowed scope t && t.ent.loc == 0 && decide (t.ent.mt ≤ 2) && t.ent.dirty
    meets s (.atomC 3 12 4 4 0) false (fun c => c.memUses 4 4 12 1 1) (ok 1) = true ∧ meets s (.atomD 3 12 4 4 3) false (fun c => c.memUses 4 4 12 1 1) (ok 2) = true
    ∧ meets s (.xchg 1 12 4 4 0) false (fun c => c.memUses 4 4 12 1 1) (ok 1) = true ∧ meets s (.cas 2 12 4 4 0) false (fun c => c.memUses 4 4 12 2 1) (ok 2) = true
    ∧ meets s (.pref 1 4 4) false (fun c => c.memUses 4 4 0 0 0) (fun c => (c.laneAccs 4 4).all fun x => decide (x.ea.toNat < 2 ^ 57)) = true
    ∧ meets (emOf s 0) (.atomS 3 12 4 4 1) false (fun c => c.memUses 4 4 12 1 1) (fun c => c.em == 0 && c.f.meldLeft == 0) = true) := by decide +kernel

/-- A lane and a scalar left to land, on each counter. -/
theorem witness_LandingWritesItsLanes :
    (let s (k : Nat) (l : List Landing) := upd base fun g => { g with ops := [{ OutOp.mk' k 0 with index := 4, lands := l }] }
    let ok (s : State) (k : Nat) (l : List Landing) : Bool := match s.groups with
      | [g] => (match g.ops with
        | [op] => op.counter == k && op.lands == l && g.pend == [] && !op.done && !op.external && op.stores == [] && op.combining == [] && op.read.isNone && g.allocated 5
        | _ => false)
      | _ => false
    ok (s 1 [.lane 5 31 77]) 1 [.lane 5 31 77] = true ∧ ok (s 3 [.scalar 63 77]) 3 [.scalar 63 77] = true ∧ ok (s 0 [.lane 5 0 77]) 0 [.lane 5 0 77] = true) := by decide +kernel

/-- Offsets within a tile of level S, one beyond its end, and no tile. -/
theorem witness_TileAccesses :
    (let s := lanesAt (emOf (tiles base) 0xFF) (refTo 1 0) 8
    let beyond := lanesAt (emOf (tiles base) 0xFF) (refTo 1 500) 8
    let absent := lanesAt (emOf (tiles base) 0xFF) 77 8
    let ok (s : State) (w : Nat) := fun c : Iss => c.em != 0 && s.locks == [] && waitingStores s 0 == [] && refClean (c.sv 4)
      && ((usableTile s 0 (s.domOf c.g) (refHandle (c.sv 4)) levelSC).elim false fun t => (c.laneOffs 4 4).all fun p => decide (p.2 + w ≤ t.size ∧ p.2 % w = 0))
    meets s (.ldl 4 12 4 4 0) false (fun c => c.memUses 4 4 12 0 1) (ok s 4) = true ∧ meets s (.stl 4 12 4 4 2) false (fun c => c.memUses 4 4 12 1 0) (ok s 4) = true
    ∧ meets s (.atoml 7 12 4 4 0) false (fun c => c.memUses 4 4 12 2 1) (ok s 4) = true
    ∧ meets beyond (.stl 4 12 4 4 0) false (fun c => c.memUses 4 4 12 1 0) (fun c => (usableTile s 0 (s.domOf c.g) (refHandle (c.sv 4)) levelSC).elim false fun t =>
        ((c.laneOffs 4 4).find? fun q => decide (q.2 + 4 > t.size)).isSome) = true
    ∧ meets absent (.ldl 4 12 4 4 0) false (fun c => c.memUses 4 4 12 0 1) (fun c => refClean (c.sv 4) && (usableTile s 0 (s.domOf c.g) (refHandle (c.sv 4)) levelSC).isNone) = true
    ∧ meets (emOf s 0) (.ldl 4 12 4 4 3) false (fun c => c.memUses 4 4 12 0 1) (fun c => c.em == 0) = true) := by decide +kernel

theorem witness_TileManagement :
    (let shape := 8 * 16 + 31 * 1024 + 31 * 2 ^ 20
    let a := tiles (sc base [(4, shape), (5, 2)])
    let r := tiles (sc base [(4, refTo 1 0)])
    let n := tiles (sc base [(4, 99)])
    let use (s : State) (c : Iss) := refClean (c.sv 4) && (usableTile s 0 (s.domOf c.g) (refHandle (c.sv 4)) levelAny).isSome && s.locks == [] && waitingStores s 0 == []
    meets a (.talloc 8 4 0 2) true (reads [4] [8]) (fun c => decide (c.g.level 3 < 255) && (shapeOf (c.sv 4)).elim false fun p => shapeAllowed .a (c.sv 4) p.1 p.2
      && match placeTile a 0 (a.domOf c.g) .a 0 p.1 p.2 with | .ok _ => true | _ => false) = true
    ∧ meets r (.tfree 4) true (reads [4]) (use r) = true ∧ meets r (.tinfo 8 4) true (reads [4] [8]) (use r) = true ∧ meets r (.tzero 4) true (reads [4]) (use r) = true
    ∧ meets n (.tinfo 8 4) true (reads [4] [8]) (fun c => (n.tileOf (n.domOf c.g) (refHandle (c.sv 4))).isNone) = true
    ∧ meets r (.tinfoFree 8) true (reads [] [8]) (fun c => decide (c.g.level 3 < 255)) = true) := by decide +kernel

theorem witness_AccumulatorAccess :
    (let s := tiles (sc base [(4, refTo 2 31)])
    let z := tiles (sc base [(4, refTo 2 0)])
    let ok (s : State) (c : Iss) := s.locks == [] && (s.tiles.all fun y => Memory.wf y.bytes) && refClean (c.sv 4) && decide (refOff (c.sv 4) ≤ 31)
      && (usableTile s 0 (s.domOf c.g) (refHandle (c.sv 4)) levelA).isSome && decide (c.g.level 3 < 255)
    meets s (.trd 0 8 4) true (fun c => { vr := [], vw := [⟨8, 2, 3⟩], nr := [c.emName, .s 4], nw := [], rl := 0, wl := c.em }) (ok s) = true
    ∧ meets z (.trdSt 8 4) true (reads [4] [8]) (ok z) = true
    ∧ meets s (.twr 5 4 8) true (fun c => { vr := [⟨8, 1, 1⟩], vw := [], nr := [c.emName, .s 4], nw := [], rl := c.em, wl := 0 }) (ok s) = true) := by decide +kernel

/-- Arrival barriers and byte barriers: the last arrival and an earlier one, a phase that is over and one that is not. -/
theorem witness_BarrierWords :
    (let s (w : BarWord) (x : Nat) := writeLoc (tiles (sc base [(4, refTo 1 32), (5, x)])) (.tile 11 32) w.bytes
    let ok (s : State) (p : BarWord → Nat → Bool) := fun c : Iss => s.locks == [] && waitingStores s 0 == [] && s.wcb == [] && s.cluster == []
      && (s.tiles.all fun y => Memory.wf y.bytes) && refClean (c.sv 4) && (usableTile s 0 (s.domOf c.g) (refHandle (c.sv 4)) levelSC).elim false fun t =>
        decide (refOff (c.sv 4) % 16 = 0) && decide (refOff (c.sv 4) + 16 ≤ t.size) && p (wordAt s t (refOff (c.sv 4))) (c.sv 5).toNat
    let off := tiles (sc base [(4, refTo 1 33)])
    meets (s ⟨0, 0, 0, 0, 0⟩ 3) (.bari 4 5) true (reads [4, 5]) (ok (s ⟨0, 0, 0, 0, 0⟩ 3) fun _ x => decide (1 ≤ x ∧ x < 2 ^ 32)) = true
    ∧ meets (s ⟨2, 3, 5, 1, 0⟩ 0) (.bara 8 4 1) true (reads [4] [8]) (ok (s ⟨2, 3, 5, 1, 0⟩ 0) fun w _ => w.mbz == 0 && w.kind == 1 && w.target != 0 && w.count + 1 == w.target) = true
    ∧ meets (s ⟨1, 3, 5, 1, 0⟩ 0) (.bara 8 4 1) true (reads [4] [8]) (ok (s ⟨1, 3, 5, 1, 0⟩ 0) fun w _ => w.mbz == 0 && w.kind == 1 && w.target != 0 && w.count + 1 != w.target) = true
    ∧ meets (s ⟨0, 3, 5, 1, 0⟩ 4) (.barw 4 5) true (reads [4, 5]) (ok (s ⟨0, 3, 5, 1, 0⟩ 4) fun w x => w.kind == 1 && w.gen == 5 && x == 4) = true
    ∧ meets (s ⟨0, 3, 5, 1, 0⟩ 5) (.barw 4 5) true (reads [4, 5]) (ok (s ⟨0, 3, 5, 1, 0⟩ 5) fun w x => w.kind == 1 && w.gen == 5 && x == 5) = true
    ∧ meets (s ⟨9, 0, 5, 2, 0⟩ 9) (.bart 8 4 5 1) true (reads [4, 5] [8]) (ok (s ⟨9, 0, 5, 2, 0⟩ 9) fun w x => w.kind == 2 && decide (1 ≤ x ∧ w.target + x < 2 ^ 32)) = true
    ∧ meets (s ⟨0, 3, 5, 2, 0⟩ 0) (.barx 4) true (reads [4]) (ok (s ⟨0, 3, 5, 2, 0⟩ 0) fun w _ => w.mbz == 0 && w.kind != 1) = true
    ∧ meets off (.barx 4) true (reads [4]) (fun c => refClean (c.sv 4) && decide (refOff (c.sv 4) % 16 ≠ 0)) = true) := by decide +kernel

/-- A kernel that declares every level but 5, in a partition that owns a port. -/
def levelled (s : State) : State :=
  updK { s with parts := s.parts.map fun p => { p with ports := 1 } } fun k => { k with launch := { k.launch with levels := [0x0F, 0x1F, 0x2F, 0x3F, 0x4F, 0xFF, 0x6F, 0x7F] } }

theorem witness_BlockBarriersAndPhases :
    (let s := levelled (sc base [(4, 0x10005)])
    let quiet (s : State) (c : Iss) := (s.groupBlock? c.g).elim false fun b => b.barb.isEmpty && b.phase.isEmpty && b.coll.isEmpty
    meets base .barb true none_ (fun c => decide (c.g.frags.length = 1) && quiet base c) = true
    ∧ meets (split2 base) .barb true none_ (fun c => decide (c.g.frags.length ≠ 1)) = true
    ∧ meets s (.phase 4 8 0) true (reads [] [8]) (fun c => quiet s c && decide (levelByte s c.g.kid 4 ≠ 0xFF)) = true
    ∧ meets s (.phase 5 8 0) true (reads [] [8]) (fun c => decide (levelByte s c.g.kid 5 = 0xFF)) = true
    ∧ meets s (.phase 7 8 4) true (reads [4] [8]) (fun c => quiet s c && decide (levelByte s c.g.kid 7 ≠ 0xFF) && ownsPort s (c.part s)
        && decide ((c.sv 4).toNat < 2 ^ 32 ∧ (c.sv 4).toNat / 2 ^ 16 = 1)) = true) := by decide +kernel

theorem witness_BarrierEvents :
    (let s := after (exec .barb base)
    let p := after (exec (.phase 4 8 0) (levelled base))
    let one (s : State) (q : Block → Bool) : Bool := s.wcb == [] && s.cluster == [] && match s.blocks with
      | [b] => s.block? b.kid b.linear == some b && q b
      | _ => false
    one s (fun b => allArrived s b b.barb && decide (b.barb.map (·.who.group)).Nodup && b.barb.all fun x => waitingStores s x.who.core == []) = true
    ∧ one p (fun b => match p.phases with
        | [n] => n.kid == b.kid && phaseReady p n && levelArrived p n.kid n.level n.inst n.part == [b] && n.members.contains b.linear
        | _ => false) = true
    ∧ (base.part? 1).isSome = true ∧ 5 ≠ base.chipid) := by decide +kernel

/-- A queue of context 0 with four slots of eight bytes. -/
def queueOfFour (head tail : Nat) (st : QState) : Queue :=
  { num := 3, epoch := 5, state := st, ctx := 0, base := 0x50000, log2cap := 2, size := 0, sfloor := 1, head := head, tail := tail,
    enqWait := [], deqWait := [] }
/-- s4 holds the capability of the queue, with the given rights. -/
def withQueue (q : Queue) (rights : Nat) : State :=
  let s := upd (sc base [(8, 77)]) fun g => { g with sregs := g.sregs.setIfInBounds 4 (newCap base 3 5 0 rights) }
  { s with queues := [q] }

/-- The CHECK field has 16 bits. -/
theorem capCheck_lt (n low : Nat) : capCheck n low < 65536 := by
  unfold capCheck shake256Low fieldAt
  match h : ((shake256 _).drop 0).take 2 with
  | [] => simp [leNat]
  | [a] => simp only [leNat]; have := a.isLt; omega
  | [a, b] => simp only [leNat]; have := a.isLt; have := b.isLt; omega
  | a :: b :: c :: l => exact absurd (congrArg List.length h) (by simp only [List.length_take, List.length_cons]; omega)

/-- A minted capability has the low bits it was minted from, and stays as it is when it is minted again. -/
theorem mintCap_again (s : State) (low : Nat) (h : low < 281474976710656) :
    mintCap s (mintCap s low).toNat = mintCap s low ∧ ∃ k, (mintCap s low).toNat = low + k * 281474976710656 := by
  have n : (mintCap s low).toNat = low + capCheck s.keyNumber low * 281474976710656 := by
    have hk := capCheck_lt s.keyNumber low
    unfold mintCap
    rw [show (2 : Nat) ^ 48 = 281474976710656 by norm_num, Nat.mod_eq_of_lt h, BitVec.toNat_ofNat]
    generalize capCheck s.keyNumber low = k at hk ⊢
    rw [show (2 : Nat) ^ 64 = 18446744073709551616 by norm_num]
    omega
  refine ⟨?_, _, n⟩
  have e : (mintCap s low).toNat % 281474976710656 = low := by
    rw [n]
    generalize capCheck s.keyNumber low = k
    omega
  have f : low % 281474976710656 = low := Nat.mod_eq_of_lt h
  have g : mintCap s (mintCap s low).toNat = mintCap s ((mintCap s low).toNat % 281474976710656) := by
    generalize (mintCap s low).toNat = x
    unfold mintCap
    rw [show (2 : Nat) ^ 48 = 281474976710656 by norm_num, Nat.mod_mod]
  rw [g, e]

theorem capReason_none (s : State) (c : DWord) (q : Queue) (right : Nat) (enq : Bool) (hm : mintCap s c.toNat = c) (hb : bitsAt c.toNat 35 5 = 0)
    (hc : capCtx c = 0) (hq : s.queue? (capQnum c) = some q) (he : q.epoch.toNat = capEpoch c) (hz : q.size = 0) (hf : q.state = .opened)
    (hr : capRight c right = true) : capReason s 0 c (some right) (some 0) enq = none := by
  unfold capReason
  rw [if_neg (fun h => h.elim (fun h => h hm) (fun h => h hb)), if_neg (fun h => h hc), hq]
  simp [hf, he, hr, hz]

/-- A new capability of queue 3 names it and passes its checks, whatever the CHECK field. -/
theorem new_capability_passes (s : State) (q : Queue) (right : Nat) (enq : Bool) (hq : s.queue? 3 = some q) (he : q.epoch = 5) (hz : q.size = 0)
    (hf : q.state = .opened) (hr : right ≤ 2) : capReason s 0 (newCap s 3 5 0 7) (some right) (some 0) enq = none := by
  obtain ⟨mint, k, n⟩ := mintCap_again s (3 + 5 * 2 ^ 16 + 7 * 2 ^ 32 + 0 * 2 ^ 40) (by norm_num)
  unfold newCap
  generalize mintCap s (3 + 5 * 2 ^ 16 + 7 * 2 ^ 32 + 0 * 2 ^ 40) = c at n mint
  have qn : capQnum c = 3 := by unfold capQnum; rw [n]; omega
  have b35 : bitsAt c.toNat 35 5 = 0 := by unfold bitsAt; rw [n]; omega
  have ctx : capCtx c = 0 := by unfold capCtx bitsAt; rw [n]; omega
  have ep : capEpoch c = 5 := by unfold capEpoch bitsAt; rw [n]; omega
  have rt : capRight c right = true := by
    unfold capRight BitVec.getLsbD
    rw [n, Nat.testBit_eq_decide_div_mod_eq, decide_eq_true_eq]
    interval_cases right <;> omega
  exact capReason_none s c q right enq mint b35 ctx (by rw [qn]; exact hq) (by rw [he, ep]; rfl) hz hf rt

/-- A queue with room, full, empty, and below its floor for thieves, with its capability in s4. -/
theorem witness_HardwareQueues :
    (let ok (s : State) (p : Queue → Bool) := fun c : Iss => decide (c.g.level 4 < 255) && waitingStores s 0 == [] && s.wcb == []
      && s.cluster == [] && (s.queue? 3).elim false fun q => p q && q.enqWait == [] && q.deqWait == []
    let q (head tail : Nat) := withQueue (queueOfFour head tail .opened) 7
    meets (q 0 2) (.qenq 0 8 4 9 1) true (reads [4, 8] [9]) (ok (q 0 2) fun q => decide (q.occ < q.capacity)) = true
    ∧ meets (q 3 7) (.qenq 0 8 4 0 0) true (reads [4, 8]) (ok (q 3 7) fun q => decide (q.capacity ≤ q.occ)) = true
    ∧ meets (q 3 7) (.qdeq 0 8 4 0 0) true (reads [4] [8]) (ok (q 3 7) fun q => decide (0 < q.occ)) = true
    ∧ meets (q 3 3) (.qdeq 0 8 4 9 1) true (reads [4] [8, 9]) (ok (q 3 3) fun q => q.occ == 0) = true
    ∧ meets (q 3 4) (.qsteal 0 8 4 9) true (reads [4] [8, 9]) (ok (q 3 4) fun q => decide (q.occ ≤ q.sfloor)) = true
    ∧ meets (q 0 2) (.qcap 3 8 4) true (reads [4] [8]) (ok (q 0 2) fun _ => true) = true) := by decide +kernel

theorem witness_HardwareQueues_capability :
    capReason (withQueue (queueOfFour 3 7 .opened) 7) 0 (newCap (withQueue (queueOfFour 3 7 .opened) 7) 3 5 0 7) (some 1) (some 0) false = none :=
  new_capability_passes _ (queueOfFour 3 7 .opened) 1 false rfl rfl rfl rfl (by decide)

/-- A graded page at grade 0 and with a closed granule; a page that is not graded. -/
theorem witness_GradeInstructions :
    (let s (va n : Nat) (t : List (Nat × GTag)) := { sc (leaves base) [(4, va), (5, n)] with tags := t }
    let a := s 0x80030000 256 []
    let top := s 0x80030000 256 [(0x80030000 / 256, ⟨1, 2, 3⟩)]
    let range (s : State) (n : Nat) (w : Bool) (p : List Granule → State → Bool) := fun c : Iss => match rangeChecks s c (c.sv 4).toNat (c.sv 5).toNat n n w with
      | .ok (gs, s1) => p gs s1 && decide ((gs.map fun x => x.pa / 256).Nodup) && waitingStores s1 0 == [] && s1.wcb == [] && s1.cluster == []
      | _ => false
    meets base (.gfloor 3) true none_ = true ∧ meets base (.gcap 1) true none_ = true
    ∧ meets a (.gread 8 4) true (reads [4] [8]) (fun c => match accessChecks a c [⟨none, c.sv 4⟩] 1 false with | .ok ([t], _) => notCarveOut t && t.ent.graded | _ => false) = true
    ∧ meets top (.gwait 3 4 5) true (reads [4, 5]) (range top 1 false fun gs s1 => gs.all fun x => decide (3 ≤ (tagAt s1 x.pa).grade)) = true
    ∧ meets a (.gwait 1 4 5) true (reads [4, 5]) (range a 1 false fun gs s1 => gs.any fun x => decide ((tagAt s1 x.pa).grade < 1)) = true
    ∧ meets a (.amend 3 4 5) true (reads [4, 5]) (range a 256 true fun gs s1 => (amendFault s1 gs).isNone) = true
    ∧ meets top (.amend 2 4 5) true (reads [4, 5]) (range top 256 true fun gs s1 => (amendFault s1 gs).isSome) = true
    ∧ meets top (.amend 0 4 5) true (reads [4, 5]) (range top 256 true fun _ _ => true) = true
    ∧ meets base (.gstat 1 8) true (reads [] [8]) = true) := by decide +kernel

theorem witness_AmendmentsAndWaits :
    (let r : AmendReport := ⟨0, 0x3000, 0x300000, 1, []⟩
    let node : NodeInfo := { NodeInfo.start 0 (leBytes 1 1 ++ List.replicate 63 0) with st := 3, inputs := [(0x300000, 256)], seen := [(1, 0)] }
    let g := { base with graphs := [⟨0, 0x7000, 1, 1, .live, [node]⟩] }
    let v : VestEntry := ⟨0, 0, 1, 0, none, 0xC0030000, true, .bytes (.host 0x3000) [1, 2, 3]⟩
    let waits (s : State) (p : Group → ParkKind → Bool) : Bool := match parkedAt s ⟨0, 0, 0, 0⟩ with
      | some (g, k) => p g k && (g.frag? 0).isSome
      | none => false
    let record := updC base fun c => { c with fqwait := [⟨1, 2, 3, 1, 5, 6, 7, 8⟩], fqtail := 3, fqhead := 1 }
    hitNodes base r = [] ∧ (hitNodes g r).map (fun p => (p.1, p.2.st)) = [(0x7000, 3)]
    ∧ ({ base with vest := [v] }.vest.find? (·.released)) = some v ∧ base.vest.find? (·.released) = none
    ∧ waits (park base (.vestibule 64)) (fun g k => k == .vestibule 64 && (base.ctx? g.ctx).elim false fun c => decide (c.state = 2) && vestRoom base c.part 64) = true
    ∧ gradedOwner base 0x30000 = none
    ∧ waits (later (park base (.grade 0x30000 4 2 false true)) 9000) (fun g _ => (g.frag? 0).elim false fun f => decide (f.readyAt + 1024 ≤ 9000)) = true
    ∧ waits (park base (.counter 1 2 0)) (fun g k => awaited base ⟨0, 0, 0, 0⟩ g k) = true
    ∧ waits (park base .drain) (fun g k => awaited base ⟨0, 0, 0, 0⟩ g k) = true
    ∧ ((later base 9000).groups.all fun g => groupLive (later base 9000) g && g.frags.all fun f => fragLive f && decide (f.readySince + 4096 ≤ 9000)) = true
    ∧ (record.contexts.all fun c => (c.record.elim false fun q => decide ((c.fqtail - c.fqhead).toNat < q.fqsize)) && c.fqwait.length == 1) = true) := by decide +kernel

/-- A launch record of two blocks; a graph with done nodes; a ring with room and a full one. -/
def launchRecord (s : State) : State :=
  put s 0x20000 ([(0, 8, 0x10000), (8, 2, 2), (10, 2, 1), (12, 2, 1), (14, 1, 1), (15, 1, 1), (24, 1, 1), (26, 1, 1), (27, 1, 3)]
    ++ ((List.range 8).map fun n => (16 + n, 1, if n < 4 then n * 16 + [0, 1, 1, 2].getD n 0 else 255)) ++ [(32, 1, 32), (34, 1, 1), (36, 4, 4)])
def ringIn (s : State) (head tail tmax : Nat) : State := put s 0x40000 [(0, 8, 0x50000), (8, 1, 4), (12, 2, 1), (16, 4, tmax), (24, 4, head), (28, 4, tail)]
def nodeAt (n st kind : Nat) (succ : List Nat) : NodeInfo :=
  { NodeInfo.start n (leBytes kind 1 ++ leBytes 0 3 ++ leBytes succ.length 1 ++ leBytes 0 3 ++ leBytes 0x20000 8 ++ leBytes 0 32
      ++ (succ.flatMap fun x => leBytes x 2) ++ leBytes 0 (16 - 2 * succ.length)) with st := st }
def withGraph (s : State) (ns : List NodeInfo) : State := { s with graphs := [⟨0, 0x30000, ns.length, 7, .live, ns⟩] }

theorem witness_LaunchInstructions :
    (let l := launchRecord (sc base [(4, 0x20000), (5, 0)])
    let g := withGraph (sc base [(4, 0x30000), (5, 0x20000)]) [nodeAt 0 5 5 [1], nodeAt 1 5 5 []]
    let r (head tail : Nat) := ringIn (sc base [(4, 0x40000), (5, 9)]) head tail 0
    let launch (s : State) (p : Except Nat LaunchRec → Bool) := fun c : Iss => match translateAll s c 0 [⟨none, c.sv 4⟩] with
      | .ok ([t], s1) => (s1.ctx? c.g.ctx).elim false fun ctx => p (checkLaunch s1 0 ctx (c.sv 4) (readLoc s1 t.loc 128)) && decide (s.kernels.length < 1024)
      | _ => false
    let ring (s : State) (full : Bool) := fun c : Iss => match translateAll s c 0 [⟨none, c.sv 4⟩] with
      | .ok ([t], s1) => t.isLocal && notCarveOut t && (ringAt s1 t.pa).elim false fun d => ringFull s1 t.pa d == full
      | _ => false
    meets l (.launch 8 4 5) true (reads [4, 5] [8]) (launch l fun x => match x with | .ok _ => true | _ => false) = true
    ∧ meets (sc base [(4, 0x20000), (5, 0)]) (.launch 8 4 5) true (reads [4, 5] [8]) (launch (sc base [(4, 0x20000), (5, 0)]) fun x => match x with | .error _ => true | _ => false) = true
    ∧ meets g (.renew 8 4 5) true (reads [4, 5] [8]) (fun c => (g.graph? c.g.ctx (c.sv 4)).elim false fun x => x.state == .live && decide ((x.nodes.map (·.node)).Nodup)
        && decide ((c.sv 5).toNat / 65536 = x.nnodes)) = true
    ∧ meets (sc base [(4, 8), (5, 1)]) (.renew 8 4 5) true (reads [4, 5] [8]) (fun c => (base.graph? c.g.ctx (c.sv 4)).isNone) = true
    ∧ meets (r 0 15) (.signal 8 4 5 1) true (reads [4, 5] [8]) (ring (r 0 15) false) = true
    ∧ meets (r 0 16) (.signal 0 4 5 0) true (reads [4, 5]) (ring (r 0 16) true) = true) := by decide +kernel

/-- A copy record from tile 11 to tile 13 in tile 11, and the operands of a matrix instruction of 4 by 3 by 2. -/
def copySetup : State :=
  [(0, 1, 3), (2, 2, 2), (4, 4, 32), (8, 8, refTo 1 0), (16, 8, refTo 4 16)].foldl
    (fun a p => writeLoc a (.tile 11 p.1) (leBytes p.2.2 p.2.1)) (tiles (sc (emOf base 0xF) [(4, refTo 1 0), (8, 1)]))
def mmaSetupState : State :=
  tiles (sc (emOf base 0xFF) [(4, refTo 1 0), (5, refTo 4 0), (6, 3 + 2 * 256 + 65536 + 2 * 2 ^ 32), (7, 0), (8, 4096), (9, 4096)])

theorem witness_EngineInstructions :
    meets copySetup (.cpyk 4 8) true (reads [4, 8]) (fun c => (usableTile copySetup 0 (copySetup.domOf c.g) (refHandle (c.sv 4)) levelSC).elim false fun t =>
        let recs := readRecords copySetup (.tile t.id (refOff (c.sv 4))) 1
        (firstBad copySetup (copySetup.domOf c.g) 0 recs).isNone && hullsFit (copyHulls copySetup 0 c.g.ctx (copySetup.domOf c.g) recs)
          && canAdmit copySetup (copyHulls copySetup 0 c.g.ctx (copySetup.domOf c.g) recs)) = true
    ∧ meets mmaSetupState (.mma 0 4 8) true (fun c => {
          vr := [], vw := [], nr := c.emName :: [.s 4, .s 5, .s 6, .s 7, .s 8, .s 9], nw := [],
          rl := c.em &&& maskOf (fun i => decide (i < (c.sv 6).toNat % 32 + 1)), wl := 0 })
        (fun c => match mmaSetup mmaSetupState c 0 4 8 none with
          | .ok su => hullsFit su.sources && decide (hullNeed su.sources 0 + 1 ≤ 64) && decide (hullNeed su.sources 0 < tableFree mmaSetupState 0) && canAdmit mmaSetupState su.sources
          | _ => false) = true := by decide +kernel

theorem witness_EngineEvents :
    (let copied := after (exec (.cpyk 4 8) copySetup)
    let started := after (exec (.mma 0 4 8) mmaSetupState)
    let gathered := after (exec (.mmaGatherDone 20) started)
    let held : State := { copied with locks := [], engines := copied.engines.map (fun e => { e with admitted := false }) }
    (copied.engine? 20).elim false (fun e => engineLive copied e && match e.kind with
      | .copy [r] 0 0 _ _ [] => r.kind == 3 && r.op == 0 && r.legal && r.bar == 0
      | _ => false) = true
    ∧ (held.engine? 20).elim false (fun e => mayAdmit held e) = true
    ∧ (started.engine? 20).elim false (fun e => engineLive started e && match e.kind with | .mma _ _ _ _ [] [] false false => true | _ => false) = true
    ∧ (gathered.engine? 20).elim false (fun e => engineLive gathered e && match e.kind with
      | .mma acc _ _ 0 av bv true false => chainOf gathered acc == [e] && decide ((av.map (·.1)).Nodup) && decide ((bv.map (·.1)).Nodup)
          && (av.all fun a => decide (a.1 < 32)) && (bv.all fun b => decide (b.1 < 32)) && (firstMma gathered e.core).map (·.id) == some 20
          && (gathered.tiles.find? fun t => t.id = acc).isSome
      | _ => false) = true) := by decide +kernel

/-- The descriptor of a tensor of 8 by 8 elements in tiles of 4 by 4. -/
def descriptorAt (s : State) : State :=
  put s 0x30000 [(0, 2, 5), (3, 1, 1), (8, 4, 8), (12, 4, 8), (16, 2, 4), (18, 2, 4), (24, 8, 0x100000), (32, 8, 0x110000), (40, 8, 0x1000)]
def tensorOf (st : TensorState) (tail : Word) (pend : List Conversion) : Tensor :=
  { Tensor.declared 1 0 (readBytes (descriptorAt base).mem 0x30000 64) with state := st, committed := 0, tail := tail, buf := 0, pending := pend, nextSeq := 1 }
def conversionOf (axes : List Nat) (arrived : List Nat) (work : List Byte) : Conversion :=
  { sequence := 1, source := 0, target := 0x40, cap := none, kid := 0, dom := 0, engine := 9, axes := axes, work := work,
    place := if axes.isEmpty then 0x40 else 0, stepsDone := axes.isEmpty, arrived := arrived }

theorem witness_TensorInstructions :
    (let d := descriptorAt (tiles (sc base [(4, 0x30000)]))
    let s (x w : Nat) (t : Tensor) := { tiles (sc base [(4, x), (8, w), (12, refTo 1 0), (5, 0)]) with tensors := [t] }
    let ready := tensorOf .ready 0 []
    let legal (s : State) (bits : Nat) (p : Tensor → Bool) := fun c : Iss => (c.tensor s (c.sv 4)).elim false fun t => placeOk (c.sv 8).toNat t.desc.nax
      && decide ((c.sv 4).toNat < 2 ^ bits) && (t.state == .ready || t.state == .converting) && !illegalDemand t ((c.sv 8).setWidth 32) && p t
    meets d (.pdecl 8 4) true (reads [4] [8]) (fun c => match accessChecks d c [⟨none, c.sv 4⟩] 64 false with
      | .ok ([t], s1) => notCarveOut t && (declareReason s1 (c.part d) c.g.ctx (readLoc s1 t.loc 64)).isNone
      | _ => false) = true
    ∧ meets (s 5 0 ready) (.pstat 1 8 4) true (reads [4] [8]) (fun c => (c.tensor (s 5 0 ready) (c.sv 4)).isSome) = true
    ∧ meets (s 6 0 ready) (.pfree 4) true (reads [4]) (fun c => (c.tensor (s 6 0 ready) (c.sv 4)).isNone) = true
    ∧ meets (s 5 0 ready) (.pfree 4) true (reads [4]) (fun c => (c.tensor (s 5 0 ready) (c.sv 4)).elim false fun t => t.pending == [] && !copiesLeft (s 5 0 ready) t.part 5) = true
    ∧ meets (s 5 0 ready) (.pconv 0 4 8 0) true (reads [4, 8]) (legal (s 5 0 ready) 16 fun t => t.tail == 0) = true
    ∧ meets (s 5 0x40 ready) (.pconv 0 4 8 0) true (reads [4, 8]) (legal (s 5 0x40 ready) 16 fun t => t.tail != 0x40) = true
    ∧ meets (s (5 + 65536) 0 ready) (.pld 12 4 8 0) true (reads [4, 8, 12]) (legal (s (5 + 65536) 0 ready) 48 fun t => t.tail == 0
        && decide (1 < t.desc.tiles (t.spanOf (s (5 + 65536) 0 ready) 0))
        && (usableTile (s (5 + 65536) 0 ready) 0 0 1 levelSC).elim false fun y => decide (t.desc.tileBytes ≤ y.size)) = true) := by decide +kernel

/-- Pitch 3 pairs port 0 with chip 5. -/
def linked (s : State) (tgen : BitVec 16) (m : LinkMode) (cs : List Change) : State :=
  { s with
    links := [⟨1, tgen, 7, m, cs, []⟩], ports := (List.replicate 16 PortState.idle).set 0 .up,
    parts := s.parts.map fun p => { p with ports := 3 },
    pitches := [Pitch.read 3 (leBytes 1 2 ++ leBytes 3 2 ++ leBytes 0 12 ++ leBytes 5 2 ++ leBytes 6 2 ++ List.replicate 44 0)] }
def changeOf (k : ChangeKind) (phase tries : Nat) : Change := ⟨4, k, ⟨0, 0, 0⟩, 0, 5, phase, frameBytes 2 0 1 0 4 0 3 [], 0, tries⟩

theorem witness_LinkInstructions :
    (let x (b : Nat) (cs : List Change) : State := linked ([(0, 8, refTo 4 0), (8, 8, 0x50000), (16, 4, 64), (22, 1, 255)].foldl
      (fun a p => writeLoc a (.tile 11 p.1) (leBytes p.2.2 p.2.1)) (tiles (sc base [(4, 5), (8, b), (12, refTo 1 0)]))) 7 (.pitch 3) cs
    let send (s : State) (p : State → Iss → Bool) := fun c : Iss => match tileRef s c (c.sv 12) levelSC with
      | .ok (t, off) => let r := SendRec.read (readLoc s (.tile t.id off) 32)
        r.ok && (match sendSource s c r with
          | .ok (hs, _, s2) => p s2 c && (s2.link (c.part s)).changes == [] && pairsWith s2 (c.part s) 5 && canAdmit s2 hs
              && (match sendLocks s2 c r (c.sv 12) with | .ok () => true | _ => false)
          | _ => false)
      | _ => false
    let land := linked (writeLoc (tiles (sc base [(4, refTo 1 32), (12, 63)])) (.tile 11 32) (BarWord.bytes ⟨2, 64, 5, 1, 0⟩)) 0 .none []
    let rc (i : Nat) := linked (sc base [(4, i), (8, 7)]) 7 (.pitch 3) []
    let sl := put (rc 0x30000) 0x30000 [(0, 1, 2), (8, 4, 5000), (12, 4, 2000), (16, 8, 200000), (32, 1, 3), (33, 1, 3)]
    let reduced : State := { put (linked (tiles (sc base [(4, refTo 5 0), (5, 0x30000), (6, 0), (7, 7)])) 7 (.pitch 3) []) 0x30000 [(4, 1, 1), (8, 4, 4096)] with
      tiles := [tileAt 15 5 .s 128 128] }
    let quad (c : Iss) := [c.sv 4, c.sv 5, c.sv 6, c.sv 7]
    meets (x 7 []) (.xsend 12 4 8) true (reads [12, 4, 8]) (send (x 7 []) fun s2 c => (c.sv 8).setWidth 16 == (s2.link (c.part s2)).tgen) = true
    ∧ meets (x 6 []) (.xsend 12 4 8) true (reads [12, 4, 8]) (send (x 6 []) fun s2 c => (c.sv 8).setWidth 16 != (s2.link (c.part s2)).tgen) = true
    ∧ meets land (.xsendLand 12 4) true (reads [12, 4]) (fun c => decide ((c.sv 12).toNat < 64) && (match barRef land c (c.sv 4) with | .ok _ => true | _ => false)
        && (land.ctx? c.g.ctx).isSome) = true
    ∧ meets (rc 3) (.reconf 9 4 8) true (reads [4, 8] [9]) (fun c => ownPitch (rc 3) (c.part (rc 3)) 3 && (c.sv 8).toNat == ((rc 3).link (c.part (rc 3))).tail.toNat) = true
    ∧ meets (rc 4) (.reconf 9 4 8) true (reads [4, 8] [9]) (fun c => !ownPitch (rc 4) (c.part (rc 4)) 4) = true
    ∧ meets sl (.slots 9 4 8) true (reads [4, 8] [9]) (fun c => match readPlan sl c (c.sv 4) with | .ok _ => true | _ => false) = true
    ∧ meets reduced (.coll 0 9 4) true (reads [4, 5, 6, 7] [9]) (fun c => match collChecks reduced c (quad c) with
        | .ok (_, s1) => (s1.link (c.part reduced)).changes == [] && (s1.groupBlock? c.g).elim false fun b =>
            b.barb.isEmpty && b.phase.isEmpty && b.coll.isEmpty && (liveGids s1 b.kid b.linear).all fun m => m == c.g.gid
        | _ => false) = true) := by decide +kernel

/-- A context in a state with a result, with its record where BIND reads it. -/
def contextIn (st res : Nat) : State :=
  updC (put base 0x30000 [(0, 8, 0x1000), (8, 8, 0x10004), (16, 8, 0x40000), (24, 4, 16), (40, 8, 0x3000), (48, 8, 0x4000), (56, 2, 1)]) fun c =>
    { c with state := st, result := res, ctxrec := 0x30000 }

/-- Every state from which a command acts, one in which it is refused, and one while another command acts. -/
theorem witness_ContextCommands :
    (let ok (s : State) (p : Context → Bool) : Bool := (s.ctx? 0).elim false fun c => windowOf s 1 0 == some c && Memory.wf s.hostMem && decide ((s.groups.map (·.at_)).Nodup) && p c
    let asked := { after (exec (.preempt 1 0 0) (contextIn 2 0)) with agenda := [.requests] }
    let pre := after (step asked)
    let staked := upd pre fun g => { g with stake := { g.stake with valid := true, start := false, record := 0x10000 } }
    ok (contextIn 0 0) (fun c => c.state == 0 && (readCtxRec (contextIn 0 0) c).isSome) = true ∧ ok (contextIn 1 0) (fun c => c.state == 1) = true
    ∧ ok (contextIn 2 0) (fun c => c.state == 2) = true ∧ ok (contextIn 3 0) (fun c => c.state == 3) = true ∧ ok (contextIn 5 0) (fun c => c.state == 5) = true
    ∧ ok (contextIn 2 4) (fun c => c.result == 4) = true
    ∧ (asked.groups.all fun g => reachDue asked g && !g.allFusing) = true ∧ (asked.blocks.all fun b => b.debug == .run && !b.stopAsked) = true
    ∧ ok pre (fun c => c.state == 2 && c.result == 4 && preemptReady pre 0 && (pre.groups.filter (preemptable · 0)).length == 1) = true
    ∧ (staked.groups.all fun g => g.stake.valid && !g.h && !g.stake.start && stakeReadable staked g) = true
    ∧ ok (contextIn 4 0) (fun c => c.state == 4 && (contextIn 4 0).engines.isEmpty && (contextIn 4 0).wcb.isEmpty) = true
    ∧ (base.start == .ready && base.vfPart 1 != 0xFFFF && base.contexts.all fun x => x.id != 1) = true) := by decide +kernel

/-- A context whose command areas hold the given words. -/
def opsIn (mop dop : List Nat) (h : Context → Context := id) : State :=
  updC (tiles (leaves base)) fun c => h { c with mop := mop.map (BitVec.ofNat 64), dop := dop.map (BitVec.ofNat 64) }

theorem witness_HostCommands :
    (let ok (s : State) (p : Context → Bool) : Bool := (windowOf s 1 0).elim false p
    let trk : State := { park (opsIn [0x30000, 0x101, 0] []) (.fault 3 1 0x30008 4) with tracker := [⟨0, 3, 1, [.frag ⟨0, 0, 0, 0⟩]⟩] }
    let denied : State := updC trk fun c => { c with mop := c.mop.set 1 1 }
    let replays := after (exec (.resolve 1 0) trk)
    let scan : State := { opsIn [0x30000, 4, 0] [] with groups := [] }
    let am : State := { opsIn [0x80030000, 256, 2] [] with mem := writeNat base.mem 0x3010 8 0x800000DB }
    let cq := opsIn [] [] fun c => { c with qdesc := leBytes 0x50000 8 ++ leBytes 4 1 ++ leBytes 1 1 ++ leBytes 0 6 }
    ok (opsIn [] [] fun c => { c with mres := 1 }) (fun c => c.mres == 1) = true
    ∧ ok (opsIn [0x30000, 0x20000, 0] []) (fun c => c.mres != 1) = true ∧ ok (opsIn [0x30008, 0x20000, 0] []) (fun c => c.mres != 1) = true
    ∧ ok trk (fun c => c.mres != 1 && (trk.tracker.find? fun t => t.ctx = 0 && t.page = 3 && t.kind = 1).isSome && (trk.groups.all fun g => g.frags.all fun f => f.park == some (.fault 3 1 0x30008 4))) = true
    ∧ ok denied (fun c => (nth c.mop 1 0).toNat / 256 % 2 == 0 && (denied.tracker.find? fun t => t.ctx = 0 && t.page = 3 && t.kind = 1).isSome
        && denied.groups.all fun g => !blockHalted denied g) = true
    ∧ ok replays (fun c => c.replay.elim false fun r => match r.left with
        | [.frag w] => stillWaits replays r (.frag w) && (faultOf replays w).isSome && replays.groups.all fun g => !blockHalted replays g
        | _ => false) = true
    ∧ ok (updC replays fun c => { c with replay := some ⟨3, 1, []⟩ }) (fun c => c.replay == some ⟨3, 1, []⟩) = true
    ∧ ok scan (fun c => c.mres != 1 && Memory.wf scan.mem && Memory.wf scan.hostMem && scan.groups.isEmpty && scan.wcb.isEmpty
        && ((leavesOf scan 0).filter (·.dirty)).all fun e => !lostRange scan e.pteAt 1) = true
    ∧ ok am (fun c => c.mres != 1 && match hostRange am 0 0x80030000 256 with
        | .ok (gs, s1) => decide ((gs.map fun x => x.pa / 256).Nodup) && (amendFault s1 gs).isNone
        | _ => false) = true
    ∧ ok (opsIn [0x30000, 512, 1] []) (fun _ => match hostRange (opsIn [0x30000, 512, 1] []) 0 0x30000 512 with | .error _ => true | _ => false) = true
    ∧ ok (opsIn [] [] fun c => { c with inval := some (0, 0x10000) }) (fun c => c.inval.isSome) = true
    ∧ ok cq (fun c => c.qres % 256 != 1 && (queueOf cq c).isSome) = true ∧ ok (opsIn [] []) (fun c => (queueOf (opsIn [] []) c).isNone) = true) := by decide +kernel

/-- A slot of the enqueue window with the capability of a queue that has room. -/
theorem witness_HostCommands_enqueue :
    let s : State := { opsIn [] [] (fun c => { c with enq := [(2, ⟨newCap base 3 5 0 7, 0, List.replicate 64 1⟩)] }) with queues := [queueOfFour 0 2 .opened] }
    ((windowOf s 1 0).map fun c => (c.state, (enqSlot c 2).status, (queueOfFour 0 2 .opened).occ)) = some (2, 0, 2)
    ∧ lostRange s 0x50010 8 = false
    ∧ capReason s 0 (newCap s 3 5 0 7) (some 0) (some 0) true = none :=
  ⟨by decide +kernel, by decide +kernel, new_capability_passes _ (queueOfFour 0 2 .opened) 0 true rfl rfl rfl rfl (by decide)⟩

theorem witness_DebugCommands :
    (let ok (s : State) (p : Context → Bool) : Bool := (windowOf s 1 0).elim false p
    let s (d : Nat) (db : DebugState) : State := updB (opsIn [] [0, 0, d, 0]) fun b => { b with debug := db, dumpAt := 0x40000 }
    let r := s 0x00400100 (.halted 0 5)
    let asked := { after (exec (.dbgstop 1 0) (s 0x40000 .run)) with agenda := [.requests] }
    ok (opsIn [] [] fun c => { c with dres := 1 }) (fun c => c.dres == 1) = true
    ∧ ok (s 0x40000 .run) (fun c => c.dres != 1 && (debugBlock (s 0x40000 .run) c).elim false fun b => b.debug == .run) = true
    ∧ asked.blocks.map (fun b => (b.debug, b.stopAsked)) = [(.run, true)] ∧ (asked.groups.all fun g => !reachDue asked g && !g.allFusing) = true
    ∧ ok (opsIn [] [3, 0, 0, 0]) (fun c => c.dres != 1) = true ∧ ok (opsIn [] [4, 0, 0, 0]) (fun c => c.dres != 1) = true
    ∧ ok r (fun c => (debugBlock r c).elim false fun b => b.debug == .halted 0 5 && ((dumpGroups r b).find? fun g => g.gid = 0).elim false fun g =>
        readClean 0x00400100 && (readRegister r g 1 64 0).isNone) = true
    ∧ ok (s 0 (.halted 0 5)) (fun c => (debugBlock (s 0 (.halted 0 5)) c).elim false fun b => ((dumpGroups (s 0 (.halted 0 5)) b).find? fun g => g.gid = 0).elim false fun g =>
        (readRegister (s 0 (.halted 0 5)) g 0 0 0).isSome) = true
    ∧ ((s 0 (.halting 1 5)).blocks.all fun b => ((s 0 (.halting 1 5)).groupsOf b.kid b.linear).all fun g => g.frags.all atBoundary) = true) := by decide +kernel

theorem witness_RegisterWrites :
    (let s := { base with contexts := [] }
    base.start = .ready ∧ (List.range 16).find? (entryFault State.reset) = none ∧ minimaExceed State.reset = false
    ∧ (∀ c ∈ s.contexts, c.state ≠ 2) ∧ pitchOk s (leBytes 1 2 ++ List.replicate 62 0) (Pitch.read 1 (leBytes 1 2 ++ List.replicate 62 0)) = true
    ∧ base.captures.length = 4 ∧ (nth base.captures 3 Capture.reset).busy = false ∧ (nth base.captures 3 Capture.reset).done = false ∧ ownerOf State.reset 0x7FE0000000 = none
    ∧ (windowOf base 1 0).isSome = true ∧ windowOf base 2 0 = none
    ∧ (base.contexts.all fun c => c.trace.queue.isEmpty) = true) := by decide +kernel

/-- A start at a step, with some fields up. -/
def startIn (st : StartState) (step fails : Nat) (up : List Nat) : State :=
  { State.reset with start := st, startStep := step, failCount := fails, fieldsUp := up, fields := State.reset.fields.mapIdx fun i f => { f with up := up.contains i } }

theorem witness_StartEvents :
    State.reset.start = .off ∧ (startIn .ready 0 0 [0, 1, 2, 3, 4, 5]).contexts = [] ∧ (startIn .latched 0 3 []).start = .latched
    ∧ starting (startIn .cold 2 0 []) = true ∧ (nextField (startIn .cold 2 0 [])).isSome = true
    ∧ (nextField (startIn .cold 2 0 (fieldOrder.take 5))).isSome = true ∧ (startIn .warm 2 0 (fieldOrder.take 5)).start = .warm
    ∧ starting (startIn .cold 5 0 fieldOrder) = true ∧ starting (startIn .cold 7 2 fieldOrder) = true ∧ starting (startIn .warm 2 0 []) = true
    ∧ (let w (ok : Bool) : State := { startIn .warm 2 0 (fieldOrder.take 5) with paramSet := 1, paramOk := ok }
      (nextField (w true)).isSome = true ∧ (nextField (w false)).isSome = true ∧ (w true).paramOk = true ∧ (w false).paramOk = false)
    ∧ State.reset.ptpns < State.reset.flushedAt + 60000000000
    ∧ ({ State.reset with ptpns := 60000000000 } : State).flushedAt + 60000000000 ≤ 60000000000
    ∧ (startIn .cold 2 0 []).ptpns ≤ (startIn .cold 2 0 []).railAt + 10000000
    ∧ (let late : State := { startIn .cold 2 0 [] with ptpns := 20000000 }
      late.railAt + 10000000 < late.ptpns ∧ starting late = true ∧ late.startStep = 2)
    ∧ starting (startIn .cold 1 0 []) = true ∧ ({ State.reset with agenda := [.paramsSpoilt] } : State).agenda = .paramsSpoilt :: []
    ∧ nth State.reset.portSampled 15 0 ≤ State.reset.ptpns / 3600000000000
    ∧ State.reset.ptpns / 3600000000000 < nth (State.reset.portSampled.set 15 1) 15 0
    ∧ ((startIn .ready 0 0 fieldOrder).field 5).up = true ∧ (startIn .cold 2 2 []).failCount = 2 := by decide +kernel

/-- Every field up, with the given quantities. -/
def powered (h : Field → Field) : State := { startIn .ready 0 0 fieldOrder with fields := State.reset.fields.map fun f => h { f with up := true } }

theorem witness_PowerEvents :
    (let ok (s : State) (p : Field → Bool) : Bool := s.fields.length == 6 && s.captures.length == 4 && (s.field 5).up && p (s.field 5)
    let cap : State := { powered id with captures := (powered id).captures.map fun c => { c with busy := true, taken := 256 } }
    let had := powered fun f => { f with samples := [⟨0, 0, 0, 0, 0⟩] }
    let trips (st : StartState) : State := { powered (fun f => { f with temp := 2000 }) with start := st }
    ok (powered id) (fun x => (runningCapture (powered id) 5).isNone && !sampled (powered id) 5 && !x.plim) = true
    ∧ ok had (fun _ => sampled had 5) = true
    ∧ (powered (fun f => { f with temp := 2000 })).contexts.isEmpty = true ∧ starting (powered fun f => { f with temp := 2000 }) = false
    ∧ ok (trips .warm) (fun x => decide ((powered id).image.ttrip ≤ x.temp % 65536)) = true ∧ (trips .cold).failCount = 0
    ∧ ok (powered fun f => { f with lean := true, cycle := 63999 }) (fun x => x.lean && decide (x.cycle < x.window + 64000)) = true
    ∧ ok (powered fun f => { f with lean := true, cycle := 64000 }) (fun x => x.lean && decide (x.window + 64000 ≤ x.cycle)) = true
    ∧ (let slow (mv floor lowerAt : Nat) : State := { powered (fun f => { f with lean := true, cycle := 64000, mv := mv, lowerAt := lowerAt }) with
        image := { Image.reset with floorMv := List.replicate 6 floor } }
      let room (s : State) (x : Field) := decide (nth s.image.floorMv 5 750 + 5 ≤ x.mv)
      ok (slow 745 700 0) (fun x => decide (x.mv < 750) && room (slow 745 700 0) x && decide (x.replays ≤ 8 ∧ x.lowerAt ≤ (slow 745 700 0).ptpns)) = true
      ∧ ok (slow 745 700 1000) (fun x => decide (x.replays ≤ 8 ∧ (slow 745 700 1000).ptpns < x.lowerAt)) = true
      ∧ ok (slow 703 700 0) (fun x => decide (x.replays ≤ 8) && !room (slow 703 700 0) x) = true)
    ∧ ok { powered id with ptpns := 2000000 } (fun x => decide (x.headAt < 2)) = true ∧ ok (powered id) (fun x => decide (0 ≤ x.headAt)) = true
    ∧ ok (powered fun f => { f with overUs := 10 }) (fun x => !x.plim && decide (10 ≤ x.overUs)) = true
    ∧ ok (powered fun f => { f with plim := true, overUs := 10 }) (fun x => x.plim && !x.therm && decide (900 ≤ x.plimMhz ∧ x.plimMhz ≤ 1800)) = true
    ∧ ok (powered fun f => { f with therm := true, temp := 300 }) (fun x => !x.plim && x.therm) = true
    ∧ ok (powered fun f => { f with temp := 420 }) (fun x => !x.therm && decide (x.temp % 65536 < 32768 ∧ (powered id).image.tthrot ≤ x.temp % 65536)) = true
    ∧ ok (powered fun f => { f with temp := 2000 }) (fun x => decide ((powered id).image.ttrip ≤ x.temp % 65536)) = true
    ∧ ok (powered fun f => { f with lean := true, replays := 33 }) (fun x => x.lean && decide (32 < x.replays)) = true
    ∧ ok cap (fun _ => (nth cap.captures 3 Capture.reset).busy && (nth cap.captures 3 Capture.reset).taken == 256) = true) := by decide +kernel

theorem witness_PortEvents :
    (let s (x : PortState) (m : LinkMode) : State := { linked base 7 m [] with ports := List.replicate 16 x }
    (s .training .none).ports.length = 16 ∧ nth (s .training .none).ports 15 .dark = .training ∧ nth (s .fault .none).ports 0 .dark = .fault
    ∧ (portOwner (s .idle (.pitch 3)) 0).elim false (fun p => (currentPitch (s .idle (.pitch 3)) p.partid).elim false fun x => x.ports.testBit 0) = true
    ∧ (portOwner (s .draining .none) 0).elim false (fun p => !portBusy (s .draining .none) p.partid 0) = true
    ∧ ((s .draining .none).link 1).changes.isEmpty = true
    ∧ (portOwner { s .draining (.pitch 3) with unacked := [⟨9, 1, 5, 0, 1⟩] } 0).elim false (fun p =>
        portBusy { s .draining (.pitch 3) with unacked := [⟨9, 1, 5, 0, 1⟩] } p.partid 0) = true
    ∧ (portOwner (s .up (.pitch 3)) 0).isSome = true) := by decide +kernel

/-- A change that drains, one that waits for the switch, one whose plan waits for its EPOCH, and the three parts of a slot. -/
theorem witness_TopologyEvents :
    (let y : Plan := ⟨2, 5000, 1000, 200000, [3, 3]⟩
    let s (m : LinkMode) (cs : List Change) (t : Nat) (x : PortState) : State := { linked base 3 m cs with ptpns := t, ports := List.replicate 16 x }
    let ok (s : State) (p : Link → Bool) : Bool := s.ports.length == 16 && (s.part? 1).isSome && p (s.link 1)
    let slot (r j st t : Nat) := s (.plan y r j st) [] t .idle
    let due := upd (s .none [changeOf (.reconf 3) 1 0] 5 .idle) fun g => { g with ops := [{ OutOp.mk' 3 0 with index := 0, lands := [.scalar 9 0] }] }
    ok (s (.pitch 3) [changeOf (.reconf 3) 0 0] 5 .idle) (fun l => l.changes.all fun c => c.phase == 0 && configurationOver (s (.pitch 3) l.changes 5 .idle) 1) = true
    ∧ ok (s (.pitch 3) [changeOf (.reconf 3) 0 0] 5 .up) (fun l => !configurationOver (s (.pitch 3) l.changes 5 .up) 1) = true
    ∧ ok (s .none [changeOf (.reconf 3) 1 0] 5 .idle) (fun l => l.changes.all fun c => c.phase == 1 && fieldAt c.frame 6 2 == 4) = true
    ∧ (due.groups.all fun g => g.pend.isEmpty && (due.link 1).changes.all fun c => c.group == g.at_
        && g.ops.any fun o => o.counter = 3 && o.index = c.opIndex && o.lands ≠ []) = true
    ∧ ok (s .none [changeOf .stopPlan 1 3] 10000 .idle) (fun l => l.changes.all fun c => decide (c.since + 10000 ≤ 10000) && c.tries == 3) = true
    ∧ ok (s .none [changeOf (.slots y) 2 0] 200000 .idle) (fun l => l.changes.all fun c => c.phase == 2 && decide (y.epoch ≤ 200000)) = true
    ∧ ok (slot 0 1 2 210000) (fun l => l.changes.isEmpty && l.mode == .plan y 0 1 2) = true
    ∧ ok (slot 0 1 0 206000) (fun l => l.mode == .plan y 0 1 0 && !anyPort (slot 0 1 0 206000) 1 .draining) = true
    ∧ ok (slot 0 1 1 210000) (fun l => l.mode == .plan y 0 1 1 && (slot 0 1 1 210000).engines.isEmpty) = true) := by decide +kernel

/-- A send whose bytes have left and one with bytes to go; a reduction of two ranks. -/
theorem witness_SendAndCollectiveEvents :
    (let send (left : Nat) : EngineKind := .send (BitVec.ofNat 64 (refTo 1 0)) 0x50000 false 64 left 5 0 false 3 0 0 255 0 false 0
    let r : CollRec := ⟨0, 0, 0, 0, 1, 4096, 5, 0, 0⟩
    let k (started : Nat) : CollOp := {
      rec_ := r, record := 0x777, src := BitVec.ofNat 64 (refTo 5 0), bar := 0, sequence := 1, rank := 0, n := 2, grade := 3,
      contribs := [⟨0, 0, 3, [0, 0, 128, 63]⟩], ring := false, slot := false, fixed := false, peers := [], started := started, outDone := [], flushed := false, results := [], fallback := false, asked := 0, late := [] }
    let s (x : EngineKind) : State := { linked (tiles base) 3 (.pitch 3) [] with engines := [engineOf 9 x] }
    let ok (s : State) (p : Engine → Bool) : Bool := (s.engine? 9).elim false fun e => e.items == [] && engineLive s e && p e
    let b : Beats := ⟨1, 4, 0, 2, 3, 0, 0, 0x50000, List.replicate 16 7, none, 0, 0, none, 0⟩
    ok (s (send 0)) (fun e => e.kind == send 0) = true
    ∧ ok (s (send 64)) (fun e => e.kind == send 64 && carries (s (send 64)) 1 5 && (sendQueue (s (send 64)) 1 5).head?.map (·.id) == some 9) = true
    ∧ ((s (send 0)).ctx? 0).elim false (fun c => c.part == 1 && c.state == 2 && !beatsBehind (s (send 0)) b && inWindow (s (send 0)) b.part b.window && (s (send 0)).buffered.isEmpty
        && (translate (s (send 0)) ctlCore 0 0x50000 1).elim false fun p => !p.1.graded && p.1.loc == 0) = true
    ∧ ok (s (.coll (k 0))) (fun _ => r.reduces && slotFree (s (.coll (k 0))) 1 && decide (0 < collChunks r 2)) = true
    ∧ ok { s (.coll (k 0)) with ptpns := 5000 } (fun _ => (List.range (collChunks r 2)).any (k 0).waits) = true) := by decide +kernel

theorem witness_TensorEvents :
    (let s (t : Tensor) (ks : List EngineKind) : State := { tiles base with tensors := [t], engines := ks.map (engineOf 9) }
    let work : List Byte := List.replicate 256 3
    let ok (s : State) (p : Tensor → Bool) : Bool := (s.tensor? 1 5).elim false p
    let arriving := s (tensorOf .converting 0x40 [conversionOf [] [1] work]) [.conv 5 1]
    let pld : EngineKind := .pld 5 0 0 (BitVec.ofNat 64 (refTo 1 0)) 0 false 0x10000 0
    let committing := s { tensorOf .ready 0x40 [] with commits := [(0, 0x40)] } [pld]
    let axis := s (tensorOf .converting 0x40 [conversionOf [0] [] []]) [.conv 5 1]
    ok (s (tensorOf .declaring 0 []) []) (fun t => t.state == .declaring && (descsOf (s t []) 1 5).all fun x => x.key == t.key) = true
    ∧ ok axis (fun t => match t.pending with | [c] => (axis.engine? c.engine).elim false fun e => engineLive axis e && c.axes == [0] | _ => false) = true
    ∧ ok arriving (fun t => match t.pending with
      | [c] => c.stepsDone && !c.arrived.contains 0 && decide (0 < t.desc.tiles (t.spanOf arriving c.target)) && (earlierCopies arriving t (t.buf + 1)).isEmpty
      | _ => false) = true
    ∧ ok (s (tensorOf .converting 0x40 [conversionOf [] [0, 1, 2, 3] work]) [.conv 5 1]) (fun t => t.pending.all fun c =>
        decide (t.desc.tiles (t.spanOf arriving c.target) ≤ c.arrived.length)) = true
    ∧ ok { committing with ptpns := 1000000 } (fun t => t.commits.length == 1 && t.commits.all fun p => decide (p.1 + 2 ≤ { committing with ptpns := 1000000 }.window 1)) = true
    ∧ ok committing (fun t => (committing.engine? 9).elim false fun e => e.part == 1 && e.kind == pld && pldReady t 0x10000 0 && (committing.tileOf 0 1).isSome) = true) := by decide +kernel

theorem witness_LauncherEvents :
    (let placing := updK base fun k => { k with state := .placing, placed := 0, launch := { k.launch with gridX := 1 } }
    let fat := updK placing fun k => { k with launch := { k.launch with bamps := 60000 } }
    let drained : State := { updK base (fun k => { k with state := .draining, node := none, completion := 0x40000 }) with
      groups := [], tlb := [{ leaf 0 0 0 false with unit := ctlCore }] }
    let g := launchRecord (withGraph base [nodeAt 0 2 1 [1], nodeAt 1 1 5 []])
    let f := withGraph base [{ nodeAt 0 3 5 [1] with finished := true, first := true }, nodeAt 1 1 5 []]
    let held := withGraph base [{ nodeAt 0 3 5 [1] with finished := true, first := true }, { nodeAt 1 3 4 [] with held := true }]
    let carved : State := { updC base (fun c => { c with graphItem := some (leBytes 0xBF800000 8 ++ leBytes 1 2 ++ leBytes 7 2 ++ leBytes 0 4) }) with
      tlb := [{ leaf 2 0 0 true with unit := ctlCore }] }
    let staged (s : State) : State := { updK s (fun k => { k with launch := { k.launch with
        roles := [⟨8, 1, 0, 1, 0⟩, ⟨8, 2, 1, 0, 0⟩], sqcap := [3, 4], glo := 0, ghi := 4 } }) with
      queues := [queueOfFour 0 0 .opened, { queueOfFour 0 4 .opened with num := 4 }] }
    let governed (s : State) (p : LaunchRec → Block → Bool) : Bool := s.kernels.all fun k => k.launch.ghi != 0 && k.state == .resident && s.blocks.all (p k.launch)
    let item := updC (put base 0x30000 [(0, 1, 5)]) fun c => { c with graphItem := some (leBytes 0x30000 8 ++ leBytes 1 2 ++ leBytes 7 2 ++ leBytes 0 4) }
    let rung : State := { ringIn base 0 4 100 with rings := [⟨0, 0x40000, 2, some 0⟩], ptpns := 100 }
    let polled := park (ringIn base 0 4 0) (.ring 0x40000)
    let node (s : State) (n : Nat) (p : Graph → NodeInfo → Bool) : Bool := (s.graph? 0 0x30000).elim false fun gr => (gr.node? n).elim false (p gr)
    (placing.kernels.all fun k => k.state == .placing && (nextSet placing k).isSome) = true
    ∧ (fat.kernels.all fun k => (nextSet fat k).isNone) = true
    ∧ (later placing 70000).kernels.all (fun k => k.waits (later placing 70000) && decide (k.waitedSince + 65536 ≤ ((later placing 70000).field 2).cycle)) = true
    ∧ (base.blocks.map (·.kid)) = base.kernels.map (·.kid)
    ∧ (drained.kernels.all fun k => k.state == .draining && drained.engines.isEmpty && drained.cluster.isEmpty
        && (translate drained ctlCore k.ctx k.completion.toNat 1).elim false fun p => p.1.loc == 0 && p.1.dirty
          && !lostRange drained (p.1.frame + (k.completion.toNat - p.1.vbase)) 8) = true
    ∧ governed (staged (twoGroups base)) (fun l b => b.turnover.isNone && rolePair (staged (twoGroups base)) l == some (0, 1)
        && decide (2 ≤ roleCount (staged (twoGroups base)) b 0)) = true
    ∧ governed (staged base) (fun l b => b.turnover.isNone && rolePair (staged base) l == some (0, 1) && decide (roleCount (staged base) b 0 < 2)) = true
    ∧ governed { staged base with queues := [] } (fun l _ => rolePair { staged base with queues := [] } l == none) = true
    ∧ governed (updB (staged base) fun b => { b with turnover := some (0, 1) }) (fun l b => b.turnover == some (0, 1) && starvedRole (staged base) l 0) = true
    ∧ node held 1 (fun _ y => y.st == 3 && y.kind == 4 && y.held) = true
    ∧ (carved.contexts.all fun c => c.graphItem.isSome && !ctlParked carved c.id .submit && (firstAbsent carved c.id 0xBF800000 64 0).isNone
        && (readVirtual carved ctlCore c.id 0xBF800000 64).isNone) = true
    ∧ node g 0 (fun gr x => gr.state == .live && x.kind == 1 && x.st == 2 && (readVirtual g ctlCore 0 x.addr.toNat 128).elim false fun bs =>
        g.contexts.all fun c => match checkLaunch g ctlCore c x.addr bs with | .ok _ => true | _ => false) = true
    ∧ node f 0 (fun gr x => gr.state == .live && x.kind == 5 && x.st == 3 && x.finished && x.first && x.succ == [1] && (gr.node? 1).isSome) = true
    ∧ (item.contexts.all fun c => c.graphItem.isSome && !ctlParked item c.id .submit && (firstAbsent item c.id 0x30000 64 0).isNone) = true
    ∧ ((ringState rung 0 0x40000).firstAt == some 0 && (ringAt rung 0x40000).elim false fun d => d.tmax != 0 && decide (d.tmax ≤ rung.ptpns)) = true
    ∧ ((ringWaiters polled 0 0x40000).length == 1 && (signalNodes polled 0).isEmpty && (parkedAt polled ⟨0, 0, 0, 0⟩).isSome) = true) := by decide +kernel

theorem witness_RetirementEvents :
    (let tail := upd base fun g => { g with state := .tail, frags := [] }
    let op : OutOp := { OutOp.mk' 2 0 with index := 1, stores := [.bytes (.device 0x40000) [1, 2]] }
    let left := upd tail fun g => { g with ops := [op], issued := [0, 0, 1, 0, 0] }
    let gone := upd tail fun g => { g with state := .tracked }
    let two := updF (split2 base) fun f => { f with park := some .regang }
    let pre := updC (upd base fun g => { g with preemptAt := some 0, stake := { g.stake with valid := false } }) fun c => { c with record := c.record.map fun r => { r with stakemax := 0 } }
    let line : WcLine := ⟨0, 0, .device 0x40000, 0, [(0, 7), (3, 9)], ⟨0, 0, 0⟩, none⟩
    let drains : State := { later base 64 with wcb := [line] }
    let ok (s : State) (p : Group → Bool) : Bool := (s.group? ⟨0, 0, 0⟩).elim false fun g => decide ((s.groups.map (·.at_)).Nodup) && p g
    ok tail (fun g => g.state == .tail && g.turnover.isNone && !outstanding tail g) = true
    ∧ ok left (fun g => outstanding left g && decide (trackerUse left 0 < 256) && trackerTurn left g
        && left.groups.all fun y => y.state != .tail || y.at_.quarter == g.at_.quarter) = true
    ∧ (let twoTails : State := { left with groups := left.groups ++ left.groups.map fun g => { g with at_ := ⟨0, 1, 3⟩, gid := 1 } }
      (twoTails.groups.filter fun g => g.state == .tail && g.turnover.isNone && outstanding twoTails g && !trackerTurn twoTails g).length = 1)
    ∧ waitingStores drains 0 = []
    ∧ ok gone (fun g => g.state == .tracked && !outstanding gone g) = true ∧ ok base (fun g => g.state != .tail) = true
    ∧ ok (updB two fun b => { b with debug := .halted 0 5 }) (fun g => blockHalted (updB two fun b => { b with debug := .halted 0 5 }) g) = true
    ∧ ok two (fun g => g.deferred.isEmpty && !blockHalted two g && (g.frags.map fun f => (f.index, f.park == some .regang)) == [(0, true), (1, true)]) = true
    ∧ ok pre (fun g => preemptable g 0 && !(g.stake.valid && !g.h) && !g.stopped && !blockHalted pre g && pre.contexts.all fun c => c.fqwait.isEmpty
        && c.record.elim false fun r => decide (r.stakemax ≤ pre.cycleOf 0) && !lostRange pre (r.fqbase + 32 * (c.fqtail.toNat % r.fqsize)) 32 && decide ((c.fqtail - c.fqhead).toNat < r.fqsize)) = true
    ∧ (drains.wcb.filter fun l => l.core = 0)[0]? = some line ∧ (line.bytes.map (·.1)).Nodup ∧ line.out = none
    ∧ (line.bytes.all fun x => !lostRange drains (0x40000 + x.1) 1) = true
    ∧ line.since + 64 ≤ (later base 64).cycleOf 0 ∧ ((tiles base).tileOf 0 1).isSome = true) := by decide +kernel

theorem witness_ObservationEvents :
    (let on := updC base fun c => { c with len := true, lbase := 0x40000, llog2n := 0 }
    let m : Measured := ⟨1, 2, 3, 4, 5, 6, 7, 8⟩
    let tag : Tag := { cycle := 7, forced := false, issued := true, pc := 0x10004, word := 5, em := 3, addr := 9, cause := 0, melded := false, ops := [], engines := [], lands := 0, reach := some Reach.nowhere }
    let tagged := updF on fun f => { f with tags := [tag] }
    let tail := upd on fun g => { g with state := .tail, frags := [] }
    let sampledOnce := after (exec (.lanternSample 0 0 0 0) on)
    let traced (d : Bool) := updC (later base 9) fun c => { c with trace := { c.trace with kid := 0, blk := 0, synci := 1, log2b := 12, en := true, base := 0x40000, head := 0, tail := 5, dropping := d, dropped := 4 } }
    (lanternSlots base 0 0 0).length = 1 ∧ (base.ctx? 0).elim false (fun c => !c.len) = true
    ∧ ((lanternSlots on 0 0 0).all fun g => (nextFragment g).isSome) = true ∧ ((lanternSlots tail 0 0 0).all fun g => g.state == .tail) = true
    ∧ (tagged.groups.all fun g => (takeTag g (tagged.cycleOf 0) 0 (latencyFull m) fun t => latencyFull m || t.over tagged g).elim false fun p => tagged.contexts.all fun c => decide ((c.ltail - c.lhead).toNat < 2 ^ (c.llog2n + 6))
        && (writeVirtual (tagged.setGroup p.2) 0 0 (c.lbase.toNat + 64 * (c.ltail.toNat % 64)) (lanternBytes tagged g (tagEntry p.1 m (latencyFull m)) m)).isSome) = true
    ∧ (sampledOnce.contexts.all fun c => c.len && c.lsampled.any fun y => y.1 = (0, 0) && y.2 = samplePeriod sampledOnce c 0) = true
    ∧ (on.contexts.all fun c => c.lsampled.isEmpty) = true ∧ lanternSlots on 0 1 0 = []
    ∧ ((traced true).contexts.all fun c => c.trace.en && c.trace.dropping && traceCore (traced true) c.trace == some 0 && decide (c.trace.lastCycle < (traced true).cycleOf 0)
        && (writeRing (traced true) 0 0 c.trace.base.toNat 4096 5 (leBytes 0x70 1 ++ leBytes 4 4)).isSome && c.trace.startListing { traced true with groups := [] } == [] && c.trace.startListing (traced true) != []) = true
    ∧ ((updC (traced true) fun c => { c with trace := { c.trace with base := 0x1000000000000 } }).contexts.all fun c =>
        (writeRing (traced true) 0 0 0x1000000000000 4096 5 (leBytes 0x70 1 ++ leBytes 4 4)).isNone && c.trace.dropping) = true
    ∧ ((traced false).contexts.all fun c => c.trace.en && !c.trace.dropping) = true
    ∧ (translate base 0 0 0x30000 0).isSome = true ∧ (translate base 0 0 0x1000000000000 0).isNone = true
    ∧ base.start = .ready ∧ (base.part? 1).isSome = true ∧ inPart base 1 0x30000 8 = true ∧ lostRange base 0x30000 8 = false) := by decide +kernel

/-! ## More witnesses: a state for each further clause -/

/-- The first bytes of SHAKE256 of the empty message are 46 B9 (FIPS 202). -/
theorem test_shake256_of_nothing : shake256Low [] = 0xB946 := by decide +kernel

theorem witness_ComparisonsWriteMasks_idle :
    meets (emOf base 0) (.icmp 5 15 1 2) false (fun c => c.laneUses (.a 1 :: c.bOp (.b 2)) [] [] [.m 15]) (fun c => c.em == 0) = true := by decide +kernel

theorem witness_NarrowPacking_idle :
    (let s := emOf (sc base [(2, 0x5100)]) 0
    let p := fun c : Iss => c.laneUses [⟨8, 4, 0⟩] [.d 3]
    meets s (.packn 1 3 8 2) false p (fun c => c.em == 0 && c.lit.isNone) = true ∧ meets s (.packn 5 3 8 2) false p (fun c => c.em == 0 && !c.melded) = true
    ∧ meets s (.unpkn 1 12 8 2) false (fun c => c.laneUses [⟨8, 1, 0⟩] [⟨12, 2, 2⟩]) (fun c => c.em == 0) = true) := by decide +kernel

/-- No lane in em; a lane named that is recorded absent; an instance that has failed. -/
theorem witness_FragmentsSplitAndJoin_instances :
    (let w (m : Word) (s : State) := upd s fun g => { g with vregs := g.vregs.map fun p => if p.1 = 5 then (5, Lanes.of fun _ => m) else p }
    let us := fun c : Iss => { vr := [⟨5, 1, 0⟩], vw := [], nr := [c.emName], nw := [], rl := c.em, wl := 0 : Uses }
    let at_ (s : State) (absent : Word) (lane : Option Nat) := upd s fun g => { g with syncl := [⟨0x10004, 0, 0, absent, lane⟩] }
    let left (c : Iss) := (c.g.syncl.map fun i => (i.pc == c.pc, i.absent, i.failed))
    meets (emOf base 0) (.syncl 5) true us (fun c => c.em == 0 && c.g.syncl.isEmpty && synclFault c 5 none c.lanes c.g.liveLanes == none) = true
    ∧ meets (at_ (w 0x1FFFF (split2 base)) 0x10000 none) (.syncl 5) true us (fun c => left c == [(true, 0x10000, none)]
        && synclFault c 5 none (0x10000 ||| (c.lanes &&& ~~~c.em)) c.g.liveLanes == some 16) = true
    ∧ meets (at_ base 0 (some 3)) (.syncl 5) true us (fun c => left c == [(true, 0, some 3)]) = true) := by decide +kernel

/-- With em = 0: no order bit, and an order bit with no store left, and with a store left. -/
theorem witness_TileAccesses_idle :
    (let s := emOf (tiles base) 0
    let op := upd s fun g => { g with ops := [{ OutOp.mk' 2 0 with index := 1, stores := [.bytes (.device 0x20000) [1]] }], issued := [0, 0, 1, 0, 0] }
    let left (s : State) (scope : Nat) (c : Iss) := ((releaseCore s c.who.core scope).group? c.who.group).elim false fun x => x.storesLeft
    let quiet (s : State) (scope : Nat) (c : Iss) := ((releaseCore s c.who.core scope).group? c.who.group).elim false fun x => !x.storesLeft
    meets s (.ldl 4 12 4 4 0) false (fun c => c.memUses 4 4 12 0 1) (fun c => c.em == 0 && decide (c.g.level 1 < 255)) = true
    ∧ meets s (.ldl 4 12 4 4 1) false (fun c => c.memUses 4 4 12 0 1) (fun c => c.em == 0 && c.f.meldLeft == 0 && quiet s 2 c) = true
    ∧ meets op (.atoml 7 12 4 4 1) false (fun c => c.memUses 4 4 12 2 1) (fun c => c.em == 0 && c.f.meldLeft == 0 && (left op 1 c || quiet op 1 c)) = true
    ∧ meets s (.stl 4 12 4 4 0) false (fun c => c.memUses 4 4 12 1 0) (fun c => c.em == 0 && decide (c.g.level 2 < 255)) = true) := by decide +kernel

/-- A misaligned store into a tile, and an atomic with a handle of no tile. -/
theorem witness_TileAccesses_traps :
    (let s := lanesAt (emOf (tiles base) 0xFF) (refTo 1 1) 8
    let absent := lanesAt (emOf (tiles base) 0xFF) 77 8
    meets s (.stl 4 12 4 4 0) false (fun c => c.memUses 4 4 12 1 0) (fun c => decide (c.g.level 2 < 255)
      && (usableTile s 0 (s.domOf c.g) (refHandle (c.sv 4)) levelSC).elim false fun t =>
        ((c.laneOffs 4 4).all fun q => decide (q.2 + 4 ≤ t.size)) && ((c.laneOffs 4 4).find? fun q => decide (q.2 % 4 ≠ 0)).isSome) = true
    ∧ meets absent (.atoml 4 12 4 4 0) false (fun c => c.memUses 4 4 12 1 1) (fun c => refClean (c.sv 4) && (c.laneOffs 4 4).head?.isSome
        && (usableTile absent 0 (absent.domOf c.g) (refHandle (c.sv 4)) levelSC).isNone) = true) := by decide +kernel

theorem witness_AmendmentsAndWaits_write : lostRange base 0x30000 16 = false ∧ 0x30000 + 16 ≤ hbmEnd
    ∧ ((List.range 16).all fun k => (gradedOwner base (0x30000 + k)).isNone) = true := by decide +kernel

/-- The start of a collective by a block of one group. -/
theorem witness_LinkInstructions_start :
    (let reduced : State := { put (linked (tiles (sc base [(4, refTo 5 0), (5, 0x30000), (6, 0), (7, 7)])) 7 (.pitch 3) []) 0x30000 [(4, 1, 1), (8, 4, 4096)] with
      tiles := [tileAt 15 5 .s 128 128] }
    let quad (c : Iss) := [c.sv 4, c.sv 5, c.sv 6, c.sv 7]
    meets reduced (.coll 0 9 4) true (reads [4, 5, 6, 7] [9]) (fun c => match collChecks reduced c (quad c) with
        | .ok (r, s1) => (s1.groupBlock? c.g).elim false (fun b => b.core == c.who.core && b.ctx == c.g.ctx
            && canAdmit s1 (collHulls s1 c.g.ctx b.dom (c.sv 4) r (collSize s1 (c.part reduced) r.axes)))
          && (readVirtual s1 c.who.core c.g.ctx 0x30000 64).elim false (fun bs => CollRec.read bs == r && r.okHere s1 c.g.ctx bs (collSize s1 (c.part reduced) r.axes))
          && (slotRival s1 (c.part reduced)).isNone && waitingStores s1 c.who.core == [] && s1.wcb == [] && s1.cluster == [] && s1.engines.isEmpty
        | _ => false) = true) := by decide +kernel

theorem witness_RegisterWrites_window :
    (windowOf base 1 0).elim false (fun c => decide (c.result ≠ 4)) = true ∧ windowOf base 2 0 = none
    ∧ (base.stagedParts.filter entryUsed).map PartEntry.read = [] := by decide +kernel

/-- A send of another chip that is whole, one that is broken, and one for a context of another partition; and a flit of a rank. -/
theorem witness_SendAndCollectiveEvents_arrivals :
    (let b : Beats := ⟨1, 4, 0, 2, 3, 0, 0, 0x50000, List.replicate 16 7, none, 0, 0, none, 0⟩
    let s : State := { linked (tiles base) 3 (.pitch 3) [] with tlb := [{ leaf 0 0 0 false with unit := ctlCore }] }
    (s.ctx? 0).elim false (fun c => c.part == b.part && c.state == 2) = true ∧ s.broken.contains (4, 2) = false ∧ beatsBehind s b = false
    ∧ (translate s ctlCore 0 0x50000 1).elim false (fun p => !p.1.graded && p.1.dirty && p.1.loc == 0 && !p.1.inCarveOut 0x50000
        && !lostRange p.2 (p.1.frame + (0x50000 - p.1.vbase)) 16) = true
    ∧ inWindow s b.part b.window = true ∧ inWindow { s with ptpns := 10000000 } b.part b.window = false
    ∧ s.buffered.any (sameQueue b) = false ∧ ({ s with buffered := [b] } : State).buffered.any (sameQueue b) = true ∧ openWindow s 1 = none
    ∧ ({ s with broken := [(4, 2)] } : State).broken.contains (b.srcChip, b.send) = true
    ∧ (updC s fun c => { c with part := 2 }).contexts.all (fun c => c.part != b.part) = true) := by decide +kernel

theorem witness_SendAndCollectiveEvents_flits :
    (let r : CollRec := ⟨0, 0, 0, 0, 1, 4096, 5, 0, 0⟩
    let k (flushed : Bool) : CollOp := {
      rec_ := r, record := 0x777, src := BitVec.ofNat 64 (refTo 5 0), bar := 0, sequence := 1, rank := 0, n := 2, grade := 3,
      contribs := [⟨0, 0, 3, List.replicate (r.elems * wireZ r.wire) 0⟩], ring := false, slot := false, fixed := false, peers := [(1, 5)], started := 0,
      outDone := [], flushed := flushed, results := [], fallback := false, asked := 0, late := [] }
    let s (x : CollOp) : State := { linked (tiles base) 3 (.pitch 3) [] with engines := [engineOf 9 (.coll x)] }
    (k false).missing 0 = [1] ∧ (k true).missing 0 = [1] ∧ ((k false).peers.any fun p => p.1 = 1) = true
    ∧ ((s (k false)).engine? 9).elim false (fun e => !e.suspended && ringServed (s (k false)) e && engineLive (s (k false)) e && openWindow (s (k false)) 1 == none) = true
    ∧ ((s (k false)).engine? 9).elim false (fun e => !(k false).flushed && !flushDue (s (k false)) e (k false)) = true
    ∧ (k false).exchanged [] = true ∧ ({ k false with peers := [] } : CollOp).exchanged [] = false
    ∧ (match chunkResult { k false with results := [⟨0, [], 3, [0, 0, 0, 0]⟩] } 0 with
        | .ok (some p) => p.missing.isEmpty && p.chunk == 0
        | _ => false) = true
    ∧ (match chunkResult (k false) 0 with | .ok none => true | _ => false) = true) := by decide +kernel

/-- A notice of a halt and one of another demand; a completion whose window has begun and one whose window has not. -/
theorem witness_TensorEvents_halts :
    (let t := { tensorOf .converting 0x40 [conversionOf [0] [] []] with commitAt := [] }
    let done := { tensorOf .ready 0x40 [] with commitAt := [(2, 0x40)] }
    let late := { tensorOf .ready 0x40 [] with commits := [(2, 0x40)] }
    let s (t : Tensor) : State := { tiles base with tensors := [t], engines := [engineOf 9 (.conv 5 1)] }
    let notice : Shard := ⟨[1, 0, 0], 1, 0x40, [], some 0x12⟩
    let other : Shard := ⟨[1, 0, 0], 1, 0x41, [], none⟩
    ((s t).tensor? 1 5).elim false (fun x => match x.pending with
      | [c] => notice.sequence == c.sequence && other.sequence == c.sequence && other.place != c.target && notice.halted.isSome
          && ((s t).engine? c.engine).elim false fun e => !e.suspended
      | _ => false) = true
    ∧ ({ s done with agenda := [.placementOver 1 5 3] } : State).agenda = .placementOver 1 5 3 :: []
    ∧ ((s done).tensor? 1 5).elim false (fun x => x.commitAt == [(2, 0x40)] && decide (2 ≤ 3)) = true
    ∧ ((s late).tensor? 1 5).elim false (fun x => x.commits == [(2, 0x40)] && decide ((s late).window 1 < 2 + 2)) = true
    ∧ ({ s late with ptpns := 1000000 } : State).window 1 ≥ 2 + 2) := by decide +kernel

/-- A step whose group is one chip, with the shard of the source in memory. -/
theorem witness_TensorEvents_step :
    (let t := tensorOf .converting 0 [{ conversionOf [0] [] [] with target := 0, place := 0 }]
    let s : State := { tiles base with tensors := [t], engines := [engineOf 9 (.conv 5 1)] }
    (match t.pending with
      | [c] => (match stepSource s t c with
        | .ok (own, s1) => let x := stepInput s1 t c 0 own []
            groupReady x [] && x.halt.isNone && x.bytes.isSome
        | _ => false)
      | _ => false) = true) := by decide +kernel

/-- An evaluation that is due; a draining kernel of a context that is not stopping; a context in which PREEMPT does not act. -/
theorem witness_LauncherEvents_due :
    ((later base 1024).field 2).cycle / 1024 ≠ (later base 1024).governed ∧ (base.field 2).cycle / 1024 = base.governed
    ∧ (base.contexts.all fun c => decide (c.state = 2) && decide (c.result ≠ 4) && decide (c.state ≠ 4)) = true := by decide +kernel

/-- A fragment that has its next bundle and one that has not. -/
theorem witness_ObservationEvents_bundles :
    (let has := updF base fun f => { f with fetched := [(0x10000, 0)] }
    (has.groups.all fun g => (nextFragment g).elim false fun f => hasBundle has (fragOf g f) g.ctx f) = true
    ∧ (base.groups.all fun g => (nextFragment g).elim false fun f => !hasBundle base (fragOf g f) g.ctx f) = true) := by decide +kernel

/-- Turns of a cycle's winners: one that runs, and one that traps while a fragment of a lower index is still to come. -/
theorem witness_StepRunsDecoded_turns :
    (let w : FragId := ⟨0, 0, 0, 0⟩
    let v : FragId := ⟨0, 0, 0, 1⟩
    let one : State := { State.reset.withFetchWord 32 0x8E015FFF with agenda := [.slot w] }
    let two : State := { split2 (State.reset.withFetchWord 32 ((encode (.trap 5)).getD 0).toNat) with agenda := [.slot v, .slot w] }
    let out := match nextIssue { two with agenda := [.slot w] } v with
      | .issue i t => afterIssue t i (exec i t)
      | .idle t => .next t
    stillReady one w = true ∧ lowerTurn one w [] = none ∧ stillReady two v = true ∧ lowerTurn two v [.slot w] = some w
    ∧ trapped v two out = true) := by decide +kernel

/-- With every field up no range has lost its home. -/
theorem lostRange_up (s : State) (h : s.fields.any (fun f => !f.up) = false) (pa n : Nat) : lostRange s pa n = false := by
  unfold lostRange
  rw [h, Bool.false_and]

theorem witness_memory_is_up : base.fields.any (fun f => !f.up) = false ∧ lostRange base 0x3000 32 = false
    ∧ (∀ k, lostRange (withQueue (queueOfFour 0 2 .opened) 7) (0x50000 + k % 4 * 8) 8 = false) :=
  ⟨by decide +kernel, lostRange_up _ (by decide +kernel) _ _, fun _ => lostRange_up _ (by decide +kernel) _ _⟩

theorem witness_StoresWaitToBePerformed_acquire :
    (let d := lanesAt { base with tlb := [leaf 0 0 0 false] } 0x30000 8
    meets d (.st 4 12 4 4 1) false (fun c => c.memUses 4 4 12 1 0) (checked d 4 true fun c ts s1 =>
      let r := storeAll (dirtyAll s1 ts) c (c.part d) (ts.map fun t => (t, List.replicate 4 7))
      ordAcq (typeOrd ts 1) && (ts.all fun t => notCarveOut t && !t.ent.graded && t.ent.mt == 0 && t.ent.loc == 0 && t.ent.dirty && !lostRange d t.pa 4)
        && decide ((d.groups.map (·.at_)).Nodup) && waitingStores r.1 0 == []) = true
    ∧ meets (lanesAt (emOf (tiles base) 0xFF) (refTo 1 0) 8) (.stl 4 12 4 4 1) false (fun c => c.memUses 4 4 12 1 0) = true
    ∧ ordAcq (1 : BitVec 2).toNat = true ∧ ((lanesAt (emOf (tiles base) 0xFF) (refTo 1 0) 8).groups.map (·.at_)).Nodup) := by decide +kernel

/-- Every member goes on at once. -/
theorem witness_BarrierEvents_members :
    (let s := after (exec .barb base)
    let p := after (exec (.phase 4 8 0) (levelled base))
    let going (s : State) (l : Block → List Arrival) : Bool := s.blocks.all fun b => !(l b).isEmpty && (l b).all fun x => b.members.contains x.gid
      && s.groups.all fun g => !blockHalted s g && !g.stopped && g.state != .saved
    going s (·.barb) = true ∧ going p (·.phase) = true) := by decide +kernel

theorem witness_AmendmentsAndWaits_go : (base.groups.all fun g => !blockHalted base g && !g.stopped) = true := by decide +kernel

theorem witness_LaunchInstructions_mapped :
    (let l := launchRecord (sc base [(4, 0x20000), (5, 0)])
    meets l (.launch 8 4 5) true (reads [4, 5] [8]) (fun c => match translateAll l c 0 [⟨none, c.sv 4⟩] with
      | .ok ([t], _) => notCarveOut t
      | _ => false) = true) := by decide +kernel

theorem witness_EngineInstructions_admitted :
    (let s := mmaSetupState
    let copied := after (exec (.cpyk 4 8) copySetup)
    let held : State := { copied with locks := [], engines := copied.engines.map (fun e => { e with admitted := false }) }
    match s.issuer? with
    | some c => (match mmaSetup s c 0 4 8 none with
      | .ok su => canAdmit s (su.sources ++ chainHull s 0 su.acc) && (match mmaIllegal c 4 8 with | .ok () => true | _ => false)
          && (held.engine? 20).elim false fun e => mayAdmit held e && !e.suspended
      | _ => false)
    | none => false) = true := by decide +kernel

theorem witness_LinkInstructions_running :
    (base.blocks.all fun b => b.debug == .run) = true ∧ (base.groups.all fun g => g.state != .tracked) = true
    ∧ refClean (BitVec.ofNat 64 (refTo 5 0)) = true := by decide +kernel

/-- An illegal word of an entry that states no FADDR, and one of an entry that states s[a]. -/
theorem witness_SoftwareTraps_illegal :
    (let w (x : Word) : Option Iss := ({ sc base [(1, 77)] with cur := base.cur.map fun i => { i with word := x } } : State).issuer?
    (w 0x1F000000).map illegalAddr = some none ∧ (w 0xE9000100).bind illegalAddr = some 77) := by decide +kernel

/-- An open turnover for a group that has one bound already. -/
theorem witness_EndOfAGroupAndTurnover_again :
    (let t := upd (updB base fun b => { b with turnover := some (0, 1) }) fun g => { g with turnover := some 1 }
    meets t (.yield 2) true none_ (fun c => decide (c.g.frags.length = 1) && !c.g.h && c.g.turnover == some 1
      && ((t.groupBlock? c.g).elim false fun b => b.turnover == some (c.g.role, 1)) && goodTarget t 0x1000C)) = true := by decide +kernel

/-- A STAKE word with f = 1: its record is there, and its page is not mapped. -/
theorem witness_SoftwareTraps_stake :
    (let word (s : State) : Option Iss := ({ s with cur := base.cur.map fun i => { i with word := 0xB1010008 } } : State).issuer?
    let far := updF base fun f => { f with pc := 0x3FFFFFF4 }
    (word base).elim false (fun c => illegalStake c == some 8 && match fetchBundle base 0 0 (stakeRecord c.pc 8) with
      | .got _ t => (match fetchBundle t 0 0 (stakeRecord c.pc 8 + 16) with | .got _ _ => true | _ => false)
      | _ => false) = true
    ∧ (word far).elim false (fun c => illegalStake c == some 8 && match fetchBundle far 0 0 (stakeRecord c.pc 8) with | .absent => true | _ => false) = true) := by
  decide +kernel

/-- Words of a store, a load and a call, and no word. -/
theorem witness_TrapsEnterOrStop_flags :
    (let at_ (i : Instr) : Bool := match ({ base with cur := base.cur.map fun x => { x with word := (encode i).getD 0 } } : State).cur with
      | some x => x.who == ⟨0, 0, 0, 0⟩ && decodeWord x.word == .ok i
      | none => false
    at_ (.st 4 12 4 4 0) && at_ (.ld 4 12 4 4 0) && at_ (.call 2) && State.reset.cur.isNone) = true := by decide +kernel

theorem witness_StoresWaitToBePerformed_reduction :
    (let d := lanesAt { base with tlb := [leaf 0 0 0 false] } 0x30000 8
    let plain (t : TAcc) : Bool := !t.ent.graded && t.ent.mt == 0 && t.ent.loc == 0 && t.ent.dirty
    meets d (.red 0 12 4 4 2) false (fun c => c.memUses 4 4 12 1 0)
      (checked d 4 true fun c ts _ => c.em != 0 && decide (c.g.level 2 < 255) && ts.all notCarveOut && ts.all plain) = true
    ∧ ordRel (0 : BitVec 2).toNat = false ∧ d.wcb = []
    ∧ meets (emOf d 0) (.red 0 12 4 4 2) false (fun c => c.memUses 4 4 12 1 0) (fun c => c.em == 0 && c.f.meldLeft == 0) = true) := by decide +kernel

/-- Stores to device memory, a tile, another chip and the host, beside another group and a store that comes before; a lane mask. -/
theorem witness_StorePerformedWritesItsBytes_places :
    (let op : OutOp := { OutOp.mk' 2 7 with index := 4, stores := [.bytes (.device 0x30010) [1, 2], .bytes (.tile 11 8) [3, 4], .bytes (.remote 5 0x70) [5],
      .reduce (.device 0x30020) 0 9, .bytes (.host 0x50) [6]] }
    let first : OutOp := { OutOp.mk' 2 3 with index := 3, stores := [.bytes (.device 0x30000) [8]] }
    let s (ops : List OutOp) := twoGroups (upd (tiles base) fun g => { g with ops := ops, issued := [0, 0, 4, 0, 0] })
    let one : State := { s [op] with groups := (upd (tiles base) fun g => { g with ops := [op] }).groups ++ (twoGroups base).groups.drop 1 }
    let w : Waiting := (⟨0, 0, 0⟩, op)
    one.memOk = true ∧ (one.groups.map (·.at_)).Nodup ∧ (waitingStores one 0) = [w] ∧ (waitingStores one 0).Nodup
    ∧ (waitingStores one 0).all (fun v => !mustPrecede one v w) = true
    ∧ op.stores.Pairwise (fun x y => x.loc.meets x.size y.loc y.size = false)
    ∧ op.stores.all (fun x => match x.loc with
      | .remote _ pa => decide (pa + x.size ≤ 2 ^ 48)
      | .device pa => !lostRange one pa x.size
      | .tile id _ => one.tiles.any fun t => t.id = id
      | _ => true) = true
    ∧ (one.group? w.1).elim false (fun g => g.ops == [op] && op.counter == 2 && op.lands == [] && op.combining == [] && !op.external) = true
    ∧ (let both := s [first, op]
      both.memOk = true ∧ (waitingStores both 0).any (fun v => mustPrecede both v w) = true
      ∧ (both.group? w.1).elim false (fun g => g.ops.contains op) = true)) := by decide +kernel

/-- A load of two lanes and a division with a part of its lanes named, a TRD's lanes and a scalar on UC, a graded load, and a lane on which a
fixed-latency write waits; other groups and operations beside. -/
theorem witness_LandingWritesItsLanes_masks :
    (let other : OutOp := { OutOp.mk' 1 0 with index := 2, lands := [.lane 6 1 5] }
    let s (op : OutOp) (pend : List Pend) := twoGroups (upd base fun g => { g with ops := [other, op], pend := pend })
    let op (k : Nat) (l : List Landing) : OutOp := { OutOp.mk' k 1 with index := 4, lands := l }
    let ok (x : OutOp) (pend : List Pend) (p : Group → Bool) : Bool := ((s x pend).group? ⟨0, 0, 0⟩).elim false fun g => g.ops.contains x
      && (g.ops.all fun y => y.counter != x.counter || y.index != x.index || y == x) && !x.done && !x.external && p g
    let lanes : List Landing := [.lane 5 0 7, .lane 5 31 8, .lane 6 31 9]
    let late : Pend := ⟨.v 5, 0x80000000, Lanes.of fun _ => 0, 0, 100, false⟩
    ok (op 1 lanes) [] (fun g => g.allocated 5 && g.allocated 6 && (lanes.filter fun l => !l.inLanes 0x80000000) != []) = true
    ∧ ok (op 0 lanes) [] (fun _ => (lanes.filter fun l => !l.inLanes 0xFFFFFFFF) == []) = true
    ∧ ok (op 3 lanes) [] (fun g => g.allocated 5) = true
    ∧ ok (op 3 [.scalar 9 7]) [⟨.s 9, 0, Lanes.of fun _ => 0, 3, 100, true⟩] (fun g => g.pend.all (·.yields)) = true
    ∧ ok { op 1 lanes with read := some ⟨2, []⟩ } [] (fun _ => true) = true
    ∧ ok (op 1 lanes) [late] (fun g => g.allocated 5 && g.pend.any (fun p => p.waits ((s (op 1 lanes) [late]).cycleOf 0) (.v 5) 31)
        && g.pend.all fun p => !p.waits ((s (op 1 lanes) [late]).cycleOf 0) (.v 5) 0) = true) := by decide +kernel

/-- A load and an atomic beyond the end of a tile and misaligned, and a store with a handle of no tile. -/
theorem witness_TileAccesses_forms :
    (let beyond := lanesAt (emOf (tiles base) 0xFF) (refTo 1 500) 8
    let odd := lanesAt (emOf (tiles base) 0xFF) (refTo 1 1) 8
    let absent := lanesAt (emOf (tiles base) 0xFF) 77 8
    let at_ (s : State) (p : Tile → Iss → Bool) (c : Iss) := refClean (c.sv 4) && decide (c.g.level 1 < 255 ∧ c.g.level 2 < 255) && c.em != 0
      && (usableTile s 0 (s.domOf c.g) (refHandle (c.sv 4)) levelSC).elim false (p · c)
    let out (t : Tile) (c : Iss) := ((c.laneOffs 4 4).find? fun q => decide (q.2 + 4 > t.size)).isSome
    let bad (t : Tile) (c : Iss) := ((c.laneOffs 4 4).all fun q => decide (q.2 + 4 ≤ t.size)) && ((c.laneOffs 4 4).find? fun q => decide (q.2 % 4 ≠ 0)).isSome
    let ld := fun c : Iss => c.memUses 4 4 12 0 1
    let at2 := fun c : Iss => c.memUses 4 4 12 2 1
    meets beyond (.ldl 4 12 4 4 0) false ld (at_ beyond out) = true ∧ meets odd (.ldl 4 12 4 4 0) false ld (at_ odd bad) = true
    ∧ meets beyond (.atoml 7 12 4 4 0) false at2 (at_ beyond out) = true ∧ meets odd (.atoml 7 12 4 4 0) false at2 (at_ odd bad) = true
    ∧ meets absent (.stl 4 12 4 4 0) false (fun c => c.memUses 4 4 12 1 0) (fun c => refClean (c.sv 4) && (c.laneOffs 4 4).head?.isSome
        && decide (c.g.level 2 < 255) && (usableTile absent 0 (absent.domOf c.g) (refHandle (c.sv 4)) levelSC).isNone) = true) := by decide +kernel

/-- Rows and columns with some lanes outside em. -/
theorem witness_AccumulatorAccess_frame :
    (let s := tiles (sc (emOf base 0xF) [(4, refTo 2 31)])
    meets s (.twr 1 4 8) true (fun c => { vr := [⟨8, 1, 1⟩], vw := [], nr := [c.emName, .s 4], nw := [], rl := c.em, wl := 0 }) (fun c => s.locks == []
      && (s.tiles.all fun y => Memory.wf y.bytes) && refClean (c.sv 4) && refOff (c.sv 4) == 31 && !c.emLanes.contains 4
      && (usableTile s 0 (s.domOf c.g) (refHandle (c.sv 4)) levelA).isSome)) = true := by decide +kernel

/-- A BARA.w whose arrival was counted, with its generation past and not past. -/
theorem witness_BarrierWords_arrived :
    (let word (gen : Nat) : BarWord := ⟨1, 3, gen, 1, 0⟩
    let s (gen : Nat) := writeLoc (tiles (sc (updF base fun f => { f with arrived := some (BitVec.ofNat 64 (refTo 1 32), 5) }) [(4, refTo 1 32)])) (.tile 11 32) (word gen).bytes
    let ok (gen : Nat) (passed : Bool) : Bool := (s gen).issuer?.elim false fun c => c.f.arrived == some (c.sv 4, 5) && (s gen).locks == [] && refClean (c.sv 4)
      && waitingStores (s gen) 0 == [] && (s gen).wcb == [] && (s gen).cluster == [] && ((s gen).tiles.all fun y => Memory.wf y.bytes)
      && (usableTile (s gen) 0 ((s gen).domOf c.g) (refHandle (c.sv 4)) levelSC).elim false fun t => wordAt (s gen) t 32 == word gen && genPassed gen 5 == passed
    ok 6 true = true ∧ ok 5 false = true) := by decide +kernel

theorem witness_GradeInstructions_up : lostRange base 0x80030000 1 = false := by decide +kernel

theorem witness_BarrierEvents_window : base.window 1 < 0 + 2 ∧ 0 + 2 ≤ ({ base with ptpns := 10000000 } : State).window 1 := by decide +kernel

/-- A wait whose generation has passed, and a fragment that waits for a slot with its bundle there. -/
theorem witness_AmendmentsAndWaits_passed :
    (let w : FragId := ⟨0, 0, 0, 0⟩
    let s := park base (.passed 5 1 false true)
    let r := later (updF base fun f => { f with fetched := [(0x10000, 0)] }) 9000
    (parkedAt s w).elim false (fun p => p.2 == .passed 5 1 false true && awaited s w p.1 p.2 && !p.1.stopped) = true
    ∧ (r.group? w.group).elim false (fun g => (g.frag? 0).elim false fun f => (unstalled r g).contains f && hasBundle r w g.ctx f
        && decide (f.readySince + 4096 ≤ r.cycleOf 0)) = true) := by decide +kernel

/-- The traps of a demand in their order, and a demand that PLD itself makes. -/
theorem witness_TensorInstructions_demands :
    (let s (x w ref : Nat) (t : Tensor) := { tiles (sc base [(4, x), (8, w), (12, ref), (5, 0)]) with tensors := [t] }
    let ready := tensorOf .ready 0 []
    let failed := tensorOf .failed 0 []
    let at_ (s : State) (p : Iss → Tensor → Bool) := fun c : Iss => decide (c.g.level 3 < 255) && (c.tensor s (c.sv 4)).elim false (p c)
    let words (c : Iss) (t : Tensor) := placeOk (c.sv 8).toNat t.desc.nax && decide ((c.sv 4).toNat < 2 ^ 48) && refClean (c.sv 12)
    let takes (c : Iss) (t : Tensor) := (t.state == .ready || t.state == .converting) && !illegalDemand t ((c.sv 8).setWidth 32)
    let tile (s : State) (c : Iss) := usableTile s 0 (s.domOf c.g) (refHandle (c.sv 12)) levelSC
    let u := reads [4, 8, 12]
    let pld (s : State) (p : Iss → Tensor → Bool) := meets s (.pld 12 4 8 0) true u (at_ s fun c t => words c t && takes c t && p c t)
    let spans (s : State) (t : Tensor) (w : Word) := t.desc.tiles (t.spanOf s w)
    meets (s 5 0xF0 0 ready) (.pconv 0 4 8 0) true (reads [4, 8]) (at_ (s 5 0xF0 0 ready) fun c t => !placeOk (c.sv 8).toNat t.desc.nax) = true
    ∧ meets (s 6 0 0 ready) (.pconv 0 4 8 0) true (reads [4, 8]) (fun c => placeOk (c.sv 8).toNat 3 && decide ((c.sv 4).toNat < 2 ^ 16) && (c.tensor (s 6 0 0 ready) (c.sv 4)).isNone) = true
    ∧ meets (s 5 0 0 failed) (.pconv 0 4 8 0) true (reads [4, 8]) (at_ (s 5 0 0 failed) fun c t => placeOk (c.sv 8).toNat t.desc.nax && !takes c t) = true
    ∧ meets (s (2 ^ 48 + 5) 0 (refTo 1 0) ready) (.pld 12 4 8 0) true u (fun c => decide (2 ^ 48 ≤ (c.sv 4).toNat)) = true
    ∧ meets (s 6 0 (refTo 1 0) ready) (.pld 12 4 8 0) true u (fun c => placeOk (c.sv 8).toNat 3 && refClean (c.sv 12) && (c.tensor (s 6 0 (refTo 1 0) ready) (c.sv 4)).isNone) = true
    ∧ meets (s 5 0 (refTo 1 0) failed) (.pld 12 4 8 0) true u (at_ (s 5 0 (refTo 1 0) failed) fun c t => words c t && !takes c t) = true
    ∧ pld (s 5 0 77 ready) (fun c _ => (tile (s 5 0 77 ready) c).isNone) = true
    ∧ pld (s 5 0 (refTo 1 8) ready) (fun c _ => (tile (s 5 0 (refTo 1 8) ready) c).isSome && refOff (c.sv 12) % 16 != 0) = true
    ∧ pld (s 5 0 (refTo 1 496) ready) (fun c t => (tile (s 5 0 (refTo 1 496) ready) c).elim false fun y => refOff (c.sv 12) % 16 == 0 && decide (y.size < refOff (c.sv 12) + t.desc.tileBytes)) = true
    ∧ pld (s (5 + 9 * 65536) 0 (refTo 1 0) ready) (fun c t => (tile (s (5 + 9 * 65536) 0 (refTo 1 0) ready) c).elim false fun y => decide (t.desc.tileBytes ≤ y.size)
        && decide (spans (s (5 + 9 * 65536) 0 (refTo 1 0) ready) t 0 ≤ (c.sv 4).toNat / 65536)) = true
    ∧ pld (s 5 0x40 (refTo 1 0) ready) (fun c t => (tile (s 5 0x40 (refTo 1 0) ready) c).elim false fun y => decide (t.desc.tileBytes ≤ y.size)
        && t.tail != (c.sv 8).setWidth 32 && decide ((c.sv 4).toNat / 65536 < spans (s 5 0x40 (refTo 1 0) ready) t 0x40)) = true) := by decide +kernel

/-- A demand with a queue capability of another queue number traps with 0x0E, whatever the CHECK field. -/
theorem witness_TensorInstructions_capability :
    ∃ k, capReason { tiles base with tensors := [tensorOf .ready 0 []] } 0 (2 ^ 35 : Nat) (some 0) (some 0) true = some k := by
  unfold capReason
  rw [if_pos (Or.inr (by decide))]
  exact ⟨_, rfl⟩

/-- What kernelComplete asks of a draining kernel's blocks, stores and cluster lines, and with a node. -/
theorem witness_LauncherEvents_complete :
    let drained : State := { updK base (fun k => { k with state := .draining, node := none, completion := 0x40000 }) with
      groups := [], tlb := [{ leaf 0 0 0 false with unit := ctlCore }] }
    ((drained.blocks.all fun b => b.debug == .run && !b.stopAsked) = true ∧ (drained.contexts.all fun c => c.state != 4) = true ∧ drained.tensors = []
    ∧ drained.vest = [] ∧ ∀ core, waitingStores drained core = []) := by
  refine ⟨by decide +kernel, by decide +kernel, by decide +kernel, by decide +kernel, fun core => rfl⟩

/-- A draining kernel that a graph's node has launched. -/
theorem witness_LauncherEvents_node :
    (let g := withGraph base [{ nodeAt 0 3 1 [] with kid := some 0 }]
    let s : State := { updK g (fun k => { k with state := .draining, node := some (0x30000, 0) }) with groups := [] }
    s.kernels.all fun k => k.kid == 0 && k.node == some (0x30000, 0) && (s.graph? k.ctx 0x30000).elim false fun gr =>
      (gr.node? 0).elim false fun x => x.kid == some 0) = true := by decide +kernel

/-- VBCST and SRD to a live name with no lane in em. -/
theorem witness_RenamingRegionsAndStakes_live :
    (let s := upd (emOf base 0) fun g => { g with stake := { g.stake with valid := true, livev := 0x10 } }
    meets s (.vbcst 0 4 3) true (fun c => { vr := [], vw := [⟨4, 1, 3⟩], nr := [c.emName, .s 3], nw := [], rl := 0, wl := c.em })
      (fun c => c.em == 0 && c.g.stake.valid && c.g.stake.livev.getLsbD 4) = true
    ∧ meets s (.srd 1 4 0x22) true (fun c => { vr := [], vw := [⟨4, 1, 3⟩], nr := [c.emName], nw := [], rl := 0, wl := c.em })
      (fun c => c.em == 0 && c.g.stake.livev.getLsbD 4) = true) := by decide +kernel

/-- The ring has room for LOSS and for the SYNC that follows it. -/
theorem witness_ObservationEvents_sync :
    (let s := updC (later base 9) fun c => { c with trace := { c.trace with
      kid := 0, blk := 0, synci := 1, log2b := 12, en := true, base := 0x40000, head := 0, tail := 5, dropping := true, dropped := 4 } }
    (s.ctx? 0).elim false (fun c => let r := c.trace; r.startListing s != [] && match writeRing s 0 0 r.base.toNat (2 ^ r.log2b) r.tail (leBytes 0x70 1 ++ leBytes 4 4) with
      | some s2 =>
        let s1 := (s2.updTrace 0 fun x => { x with
            tail := x.tail + 5, lastCycle := s.cycleOf 0, lastCore := 0, started := true, packets := x.packets + 1 }).updTrace 0 fun x =>
          { x with dropping := false, dropped := 0 }
        let sync := syncPacket s1 r.kid r.blk 0 (s.cycleOf 0) (r.startListing s)
        decide (r.tail + 5 - r.head + sync.length ≤ 2 ^ r.log2b) && (writeRing s1 0 0 r.base.toNat (2 ^ r.log2b) (r.tail + 5) sync).isSome
      | none => false) = true) := by decide +kernel

theorem witness_ObservationEvents_window : base.window 1 < 0 + 2 ∧ 3 + 2 ≤ ({ base with ptpns := 10000000 } : State).window 1
    ∧ inPart base 1 0x30000 4 = true ∧ lostRange base 0x30000 4 = false := by decide +kernel
end Sys2Proof.Tests
end

section
/-! SUPPORT. Writes of lane registers: what each leaves in every lane of every name, and the parts of the group it touches
(R68, R155, R188, R194). -/

namespace Sys2Proof.Machine

/-! ## Masks by their bits -/

/-- The bits that `maskOf` has set after its first `n` bits. -/
theorem getLsbD_foldl_maskOf (f : Nat → Bool) (n i : Nat) (hi : i < 32) :
    ((List.range n).foldl (fun acc k => if f k then acc ||| (1#32 <<< k) else acc) 0).getLsbD i = (decide (i < n) && f i) := by
  induction n with
  | zero => simp
  | succ n ih =>
    have hbit : (1#32 <<< n).getLsbD i = decide (i = n) := by
      rw [← BitVec.twoPow_eq, BitVec.getLsbD_twoPow]; grind
    rw [List.range_succ, List.foldl_append, List.foldl_cons, List.foldl_nil]
    by_cases hf : f n = true
    · rw [if_pos hf, BitVec.getLsbD_or, ih, hbit]
      by_cases hn : i = n
      · simp [hn, hf]
      · simp [hn, show i < n + 1 ↔ i < n by omega]
    · rw [if_neg hf, ih]
      by_cases hn : i = n
      · simp [hn, hf]
      · simp [show i < n + 1 ↔ i < n by omega]

theorem bitOf_maskOf (f : Nat → Bool) {i : Nat} (hi : i < 32) : bitOf (maskOf f) i = f i :=
  (getLsbD_foldl_maskOf f 32 i hi).trans (by simp [hi])

/-! ## The newest values of lane registers -/

theorem Group.vNew_eq (g : Group) (n : Nat) :
    g.vNew n = ((g.vregs.find? fun p => decide (p.1 = n)).map (·.2)).getD Lanes.zero := by
  unfold Group.vNew
  cases g.vregs.find? fun p => decide (p.1 = n) <;> rfl

theorem Group.vNew_congr {g g' : Group} (h : g'.vregs = g.vregs) (n : Nat) : g'.vNew n = g.vNew n := by
  rw [Group.vNew_eq, Group.vNew_eq, h]

/-- Finding by name after an upsert of that name or of another. -/
theorem find?_upsert_fst {α : Type} (l : List (Nat × α)) (n x : Nat) (v : α) :
    (upsert l (fun p => decide (p.1 = n)) (n, v)).find? (fun p => decide (p.1 = x))
      = if x = n then some (n, v) else l.find? fun p => decide (p.1 = x) := by
  unfold upsert
  split
  next hany =>
    have hfound : (l.find? fun p => decide (p.1 = n)).isSome := by simpa [List.any_eq_true] using hany
    obtain ⟨p, hp⟩ := Option.isSome_iff_exists.mp hfound
    have := find?_map_key l (·.1) n x (fun _ => (n, v)) (fun _ _ => rfl)
    simpa [hp] using this
  next hany =>
    have hnone : l.find? (fun p => decide (p.1 = n)) = none := by
      rw [List.find?_eq_none]
      exact fun p hp hpn => hany (List.any_eq_true.mpr ⟨p, hp, hpn⟩)
    rw [List.find?_append]
    by_cases hx : x = n
    · simp [hx, hnone]
    · simp [hx, Ne.symm hx]

theorem Group.vNew_setV (g : Group) (n x : Nat) (v : Lanes) : (g.setV n v).vNew x = if x = n then v else g.vNew x := by
  rw [Group.vNew_eq, Group.vNew_eq, show (g.setV n v).vregs = upsert g.vregs (fun p => decide (p.1 = n)) (n, v) from rfl,
    find?_upsert_fst]
  split <;> rfl

theorem Group.putV_vregs (g : Group) (now lat n : Nat) {m : Word} (track : Word) (f : Nat → Word) (hm : m ≠ 0) :
    (g.putV now lat n m track f).vregs = (g.setV n (Lanes.of fun i => if bitOf m i then f i else (g.vNew n).get i)).vregs := by
  unfold Group.putV; rw [if_neg hm]; rfl

/-- One write of one name: the lanes of the mask take their values, every other lane of every name keeps its own. -/
theorem Group.vNew_putV (g : Group) (now lat n x i : Nat) (m track : Word) (f : Nat → Word) (hi : i < 32) :
    ((g.putV now lat n m track f).vNew x).get i = if x = n ∧ bitOf m i = true then f i else (g.vNew x).get i := by
  by_cases hm : m = 0
  · simp [Group.putV, hm]
  · rw [Group.vNew_congr (Group.putV_vregs g now lat n track f hm), Group.vNew_setV]
    by_cases hx : x = n
    · simp [hx, Lanes.get_of _ _ hi]
    · simp [hx]

/-- The writes of a list of names, each in its own lanes, with one value for each lane. -/
theorem Group.vNew_foldl_putV (ns : List Nat) (now lat k x i : Nat) (m track : Nat → Word) (f : Nat → Word) (hi : i < 32)
    (g : Group) :
    ((ns.foldl (fun g n => g.putV now lat (n + k) (m n) (track n) f) g).vNew x).get i
      = if ∃ n ∈ ns, x = n + k ∧ bitOf (m n) i = true then f i else (g.vNew x).get i := by
  induction ns generalizing g with
  | nil => simp
  | cons n ns ih =>
    rw [List.foldl_cons, ih, Group.vNew_putV _ _ _ _ _ _ _ _ _ hi]
    simp only [List.mem_cons, exists_eq_or_imp]
    by_cases hrest : ∃ n ∈ ns, x = n + k ∧ bitOf (m n) i = true
    · rw [if_pos hrest, if_pos (Or.inr hrest)]
    · rw [if_neg hrest]; simp only [hrest, or_false]

theorem Group.blockV_vregs (g : Group) (ns : List Nat) : (g.blockV ns).vregs = g.vregs := by
  unfold Group.blockV; split <;> rfl

/-! ## Renaming (R188) -/

theorem Iss.rename_of_not_renames {c : Iss} {x : Nat} (h : c.renames x = false) (i : Nat) : c.rename x i = x :=
  if_neg (by simpa [Iss.renames] using h)

theorem Iss.names_of_not_renames {c : Iss} {x : Nat} (h : c.renames x = false) : c.names x = [x] :=
  if_neg (by simpa [Iss.renames] using h)

theorem Iss.rename_mem_names {c : Iss} {x i : Nat} (hi : i < 32) (hem : bitOf c.em i = true) : c.rename x i ∈ c.names x := by
  cases h : c.renames x with
  | false => simp [Iss.names_of_not_renames h, Iss.rename_of_not_renames h]
  | true =>
    have hnames : c.names x = (((List.range 32).filter fun i => bitOf c.em i).map (c.rename x)).eraseDups := if_pos h
    rw [hnames, List.mem_eraseDups]
    exact List.mem_map_of_mem (by simp [hi, hem])

/-- The lanes of `m` in which a write of field `x` writes the name `n`. -/
def Iss.lanesNamed (c : Iss) (x n : Nat) (m : Word) : Word :=
  if c.renames x then m &&& maskOf fun i => c.rename x i = n else m

/-- A lane of a name is among those that a write of field `x` writes just when the field stands for that name there. -/
theorem Iss.exists_names_lanesNamed {c : Iss} {x i : Nat} {m : Word} (hi : i < 32) (hm : bitOf m i = true → bitOf c.em i = true)
    (n k : Nat) : (∃ y ∈ c.names x, n = y + k ∧ bitOf (c.lanesNamed x y m) i = true) ↔ bitOf m i = true ∧ n = c.rename x i + k := by
  cases h : c.renames x with
  | false => simp [Iss.lanesNamed, h, Iss.names_of_not_renames h, Iss.rename_of_not_renames h, and_comm]
  | true =>
    have hbit (y : Nat) : bitOf (c.lanesNamed x y m) i = true ↔ bitOf m i = true ∧ c.rename x i = y := by
      simp only [Iss.lanesNamed, h, if_true, bitOf, BitVec.getLsbD_and, Bool.and_eq_true]
      exact and_congr_right fun _ => by rw [← bitOf, bitOf_maskOf _ hi, decide_eq_true_iff]
    constructor
    · rintro ⟨y, -, rfl, hy⟩
      obtain ⟨hmi, rfl⟩ := (hbit y).mp hy
      exact ⟨hmi, rfl⟩
    · rintro ⟨hmi, rfl⟩
      exact ⟨_, Iss.rename_mem_names hi (hm hmi), rfl, (hbit _).mpr ⟨hmi, rfl⟩⟩

/-- A write of register `k` after field `x` in lanes of em: lane `i` of the name that the field gives there takes its value, and
every other lane of every name keeps its own. -/
theorem Group.vNew_writeV (g : Group) {c : Iss} (lat x k n : Nat) {i : Nat} {m : Word} (f : Nat → Word) (hi : i < 32)
    (hm : bitOf m i = true → bitOf c.em i = true) :
    ((g.writeV c lat x k m f).vNew n).get i
      = if bitOf m i = true ∧ n = c.rename x i + k then f i else (g.vNew n).get i := by
  refine (Group.vNew_foldl_putV (c.names x) c.now lat k n i (c.lanesNamed x · m) (c.tracked x · m) f hi _).trans ?_
  rw [Group.vNew_congr (Group.blockV_vregs _ _)]
  exact if_congr (Iss.exists_names_lanesNamed hi hm n k) rfl rfl

/-! ## What a write of lane registers touches -/

/-- Nothing of the group but its lane registers, the records of last reads, the writes that are not yet readable, the scoreboard
and the stake has changed. -/
def Group.OnlyLanes (g g' : Group) : Prop :=
  { g' with vregs := g.vregs, deferred := g.deferred, pend := g.pend, board := g.board, stake := g.stake } = g

theorem Group.OnlyLanes.trans {g g' g'' : Group} (h : g.OnlyLanes g') (h' : g'.OnlyLanes g'') : g.OnlyLanes g'' :=
  Eq.trans (congrArg (fun x : Group =>
    { x with vregs := g.vregs, deferred := g.deferred, pend := g.pend, board := g.board, stake := g.stake }) h' :) h

theorem Group.onlyLanes_blockV (g : Group) (ns : List Nat) : g.OnlyLanes (g.blockV ns) := by
  unfold Group.blockV; split <;> rfl

theorem Group.onlyLanes_putV (g : Group) (now lat n : Nat) (m track : Word) (f : Nat → Word) :
    g.OnlyLanes (g.putV now lat n m track f) := by
  unfold Group.putV; split <;> rfl

theorem Group.onlyLanes_writeV (g : Group) (c : Iss) (lat x k : Nat) (m : Word) (f : Nat → Word) :
    g.OnlyLanes (g.writeV c lat x k m f) :=
  List.foldlRecOn (motive := g.OnlyLanes) (c.names x) _ (g.onlyLanes_blockV _) fun g' h _ _ => h.trans (g'.onlyLanes_putV _ _ _ _ _ _)

/-- `g'` is `g` after a write of `w` registers from field `d` in the lanes `m`. -/
structure Iss.LaneWrite (c : Iss) (d w : Nat) (m : Word) (value : Nat → Nat → Word) (g g' : Group) : Prop where
  written : ∀ i k, i < 32 → k < w → bitOf m i = true → (g'.vNew (c.rename d i + k)).get i = value k i
  kept : ∀ n i, i < 32 → (∀ k, k < w → ¬(bitOf m i = true ∧ n = c.rename d i + k)) → (g'.vNew n).get i = (g.vNew n).get i
  onlyLanes : g.OnlyLanes g'

theorem Iss.laneWrite_writeV (c : Iss) (lat d : Nat) {m : Word} (f : Nat → Nat → Word) (g : Group)
    (hm : ∀ i, bitOf m i = true → bitOf c.em i = true) : c.LaneWrite d 1 m f g (g.writeV c lat d 0 m (f 0)) where
  written i k hi hk hmi := by
    obtain rfl : k = 0 := by omega
    rw [g.vNew_writeV lat d 0 _ _ hi (hm i), if_pos ⟨hmi, rfl⟩]
  kept n i hi hn := by rw [g.vNew_writeV lat d 0 _ _ hi (hm i), if_neg (hn 0 Nat.one_pos)]
  onlyLanes := g.onlyLanes_writeV ..

/-- A pair: the low words in the first register, the high words in the second (R194). -/
theorem Iss.laneWrite_writePair (c : Iss) (lat d : Nat) {m : Word} (f : Nat → DWord) (g : Group)
    (hm : ∀ i, bitOf m i = true → bitOf c.em i = true) :
    c.LaneWrite d 2 m (fun k i => (f i).extractLsb' (32 * k) 32) g (g.writePair c lat d m f) where
  written i k hi hk hmi := by
    rw [Group.writePair, Group.vNew_writeV _ lat d 1 _ _ hi (hm i), Group.vNew_writeV _ lat d 0 _ _ hi (hm i)]
    obtain rfl | rfl : k = 0 ∨ k = 1 := by omega
    · rw [if_neg (by omega), if_pos ⟨hmi, rfl⟩, Nat.mul_zero, BitVec.setWidth_eq_extractLsb' (by omega)]
    · rw [if_pos ⟨hmi, rfl⟩]
  kept n i hi hn := by
    rw [Group.writePair, Group.vNew_writeV _ lat d 1 _ _ hi (hm i), Group.vNew_writeV _ lat d 0 _ _ hi (hm i),
      if_neg (hn 1 Nat.one_lt_two), if_neg (hn 0 Nat.two_pos)]
  onlyLanes := (g.onlyLanes_writeV ..).trans (Group.onlyLanes_writeV ..)

/-- A write of no lane. -/
theorem Iss.laneWrite_none (c : Iss) (d w : Nat) (f : Nat → Nat → Word) (g : Group) : c.LaneWrite d w 0 f g g where
  written i k _ _ h := by simp at h
  kept n i _ _ := rfl
  onlyLanes := rfl

end Sys2Proof.Machine
end

section
/-! SUPPORT. The issue of lane and uniform instructions (R67, R86): a slot that passes its checks completes, and its group alone
changes, as its effect says. -/

namespace Sys2Proof.Machine

/-! ## The issuing fragment and its group -/

theorem State.group?_at {s : State} {id : GroupId} {g : Group} (h : s.group? id = some g) : g.at_ = id := by
  simpa using List.find?_some h

theorem State.group?_of_issuer? {s : State} {c : Iss} (h : s.issuer? = some c) : s.group? c.who.group = some c.g := by
  unfold State.issuer? at h
  split at h
  · cases h
  · split at h
    · cases h
    next g hg =>
      split at h
      · cases h
      · cases h; exact hg

theorem State.group?_setGroup (s : State) (g : Group) (x : GroupId) :
    (s.setGroup g).group? x = if x = g.at_ then (s.group? x).map fun _ => g else s.group? x := by
  have h := s.group?_updGroup g.at_ x (fun _ => g) fun _ _ => rfl
  by_cases hx : x = g.at_
  · rw [if_pos hx, hx]; rwa [if_pos hx, hx] at h
  · rw [if_neg hx]; rwa [if_neg hx] at h

/-! ## Last reads keep the group's place -/

theorem Group.lastRead_at (g : Group) (n : Nat) : (g.lastRead n).at_ = g.at_ := by
  unfold Group.lastRead
  split
  · rfl
  · split <;> rfl

theorem Group.lastReads_at (g : Group) (c : Iss) (u : Uses) : (g.lastReads c u).at_ = g.at_ := by
  unfold Group.lastReads
  split
  · rfl
  · exact List.foldlRecOn (motive := fun g' : Group => g'.at_ = g.at_) _ _ rfl fun g' h n _ => (g'.lastRead_at n).trans h

/-- An instruction that reads no lane register marks no last read. -/
theorem Group.lastReads_of_vr_nil (g : Group) (c : Iss) {u : Uses} (h : u.vr = []) : g.lastReads c u = g := by
  unfold Group.lastReads
  split
  · rfl
  · rw [h]; rfl

/-! ## Completion -/

/-- A slot whose checks pass meets none of their traps. -/
theorem Iss.Passes.prep_ok {c : Iss} {i : Instr} {uni : Bool} {u : Uses} (h : c.Passes i uni u) : c.prep i uni u = .ok () := by
  obtain ⟨hwf, hlit, huni, hops, hchk⟩ := h
  have hmeld : (uni && c.melded) = false := by
    cases uni with
    | false => rfl
    | true => simp [Iss.melded, huni rfl]
  have hall : (u.vr ++ u.vw).all c.legalOp = true := List.all_eq_true.mpr hops
  unfold Iss.prep Iss.prepWith
  cases hc : c.g.chk with
  | false => simp only [need, hwf, hlit, hmeld, hall]; rfl
  | true =>
    obtain ⟨hhaz, hun⟩ := hchk hc
    simp only [need, hwf, hlit, hmeld, hall, hhaz, hun]; rfl

/-- The issue of a fixed-latency instruction that is uniform or not: the checks of R86, the last reads, then `eff` on the group. -/
def fixedIssue (i : Instr) (uni : Bool) (s : State) (u : Iss → Uses) (eff : Iss → Group → Group) : Out :=
  runIssue s fun c => do
    c.prep i uni (u c)
    .ok (finish s c (eff c (c.g.lastReads c (u c))))

theorem laneIssue_eq_fixedIssue (i : Instr) (s : State) (u : Iss → Uses) (eff : Iss → Group → Group) :
    laneIssue i s u eff = fixedIssue i false s u eff := rfl

theorem uniIssue_eq_fixedIssue (i : Instr) (s : State) (u : Iss → Uses) (eff : Iss → Group → Group) :
    uniIssue i s u eff = fixedIssue i true s u eff := rfl

theorem fixedIssue_eq {i : Instr} {uni : Bool} {s : State} {u : Iss → Uses} {eff : Iss → Group → Group} {c : Iss}
    (hc : s.issuer? = some c) (hp : c.Passes i uni (u c)) :
    fixedIssue i uni s u eff = .next (finish s c (eff c (c.g.lastReads c (u c)))) := by
  unfold fixedIssue runIssue
  rw [hc]
  simp only [hp.prep_ok]
  rfl

/-- What `finish` leaves: the issuing group is the one given, after its slot, and everything else is as it was. -/
theorem finish_onlyGroup {s : State} {c : Iss} {g : Group} (hc : s.issuer? = some c) (hg : g.at_ = c.g.at_) :
    OnlyGroup c.who.group s (finish s c g) ∧ (finish s c g).group? c.who.group = some (g.after c c.next) := by
  have hfound := State.group?_of_issuer? hc
  have hat : (g.after c c.next).at_ = c.who.group := hg.trans (State.group?_at hfound)
  refine ⟨⟨rfl, fun x hx => ?_⟩, ?_⟩
  · rw [finish, State.group?_setGroup, hat, if_neg hx]
  · rw [finish, State.group?_setGroup, hat, if_pos rfl, hfound]; rfl

/-- An instruction of fixed latency completes as its effect on the group says. -/
theorem completes_of_fixedIssue {i : Instr} {uni : Bool} {u : Iss → Uses} {eff : Iss → Group → Group}
    {P : State → Iss → Group → Prop} (hexec : ∀ s, exec i s = fixedIssue i uni s u eff)
    (hat : ∀ c g, (eff c g).at_ = g.at_)
    (heff : ∀ s c, c.Passes i uni (u c) → P s c ((eff c (c.g.lastReads c (u c))).after c c.next)) : Completes i uni u P := by
  intro s c hc hp
  obtain ⟨honly, hgroup⟩ := finish_onlyGroup hc ((hat c _).trans (c.g.lastReads_at c (u c)))
  exact ⟨_, (hexec s).trans (fixedIssue_eq hc hp), honly, _, hgroup, heff s c hp⟩

/-- A weaker account of the group's change, for well-formed instructions. -/
theorem Completes.mono {i : Instr} {uni : Bool} {u : Iss → Uses} {P Q : State → Iss → Group → Prop} (h : Completes i uni u P)
    (hPQ : i.wellFormed = true → ∀ s c g', P s c g' → Q s c g') : Completes i uni u Q := by
  intro s c hc hp
  obtain ⟨t, ht, honly, g', hg', hP⟩ := h s c hc hp
  exact ⟨t, ht, honly, g', hg', hPQ hp.1 s c g' hP⟩

/-! ## Results in lane registers -/

theorem Group.OnlyLanes.at_eq {g g' : Group} (h : g.OnlyLanes g') : g'.at_ = g.at_ := congrArg (·.at_) h

theorem Group.OnlyLanes.frags_eq {g g' : Group} (h : g.OnlyLanes g') : g'.frags = g.frags := congrArg (·.frags) h

/-- A write of lane registers and the end of its slot. -/
theorem Iss.LaneWrite.laneResult {c : Iss} {u : Uses} {d w : Nat} {m : Word} {value : Nat → Nat → Word} {g' : Group}
    (h : c.LaneWrite d w m value (c.g.lastReads c u) g') : LaneResult c u d w m value (g'.after c c.next) := by
  have hv (n : Nat) : (g'.after c c.next).vNew n = g'.vNew n := Group.vNew_congr rfl n
  refine ⟨fun i k hi hk hmi => ?_, fun n i hi hn => ?_, ?_, ?_⟩
  · rw [hv]; exact h.written i k hi hk hmi
  · rw [hv]; exact h.kept n i hi hn
  · exact congrArg (fun x : Group => { x with frags := (c.g.lastReads c u).frags }) h.onlyLanes
  · exact congrArg (List.map _) h.onlyLanes.frags_eq

/-- A lane result rests on the operands only through the last reads they mark. -/
theorem LaneResult.congr_uses {c : Iss} {u u' : Uses} {d w : Nat} {m : Word} {value : Nat → Nat → Word} {g' : Group}
    (h : LaneResult c u d w m value g') (hu : c.g.lastReads c u' = c.g.lastReads c u) : LaneResult c u' d w m value g' := by
  unfold LaneResult at h ⊢; rwa [hu]

/-- The effect of an instruction whose lane result is a write of lane registers. -/
theorem completes_of_laneWrite {i : Instr} {uni : Bool} {u : Iss → Uses} {eff : Iss → Group → Group} {d w : Nat} {m : Iss → Word}
    {value : Iss → Nat → Nat → Word} (hexec : ∀ s, exec i s = fixedIssue i uni s u eff)
    (heff : ∀ (c : Iss) g, c.LaneWrite d w (m c) (value c) g (eff c g)) :
    Completes i uni u fun _ c g' => LaneResult c (u c) d w (m c) (value c) g' :=
  completes_of_fixedIssue hexec (fun c g => (heff c g).onlyLanes.at_eq) fun _ c _ => (heff c _).laneResult

theorem laneGives_of_laneIssue {i : Instr} {u : Iss → Uses} {lat : Nat} {d : BitVec 7} {value : Iss → Nat → Word}
    (hexec : ∀ s, exec i s = laneIssue i s u fun c g => g.writeV c lat d.toNat 0 c.em (value c)) : LaneGives i u d value :=
  completes_of_laneWrite (fun s => (hexec s).trans (laneIssue_eq_fixedIssue i s u _)) fun c g =>
    c.laneWrite_writeV lat d.toNat (fun _ => value c) g fun _ h => h

theorem pairGives_of_laneIssue {i : Instr} {u : Iss → Uses} {lat : Nat} {d : BitVec 7} {value : Iss → Nat → DWord}
    (hexec : ∀ s, exec i s = laneIssue i s u fun c g => g.writePair c lat d.toNat c.em (value c)) : PairGives i u d value :=
  completes_of_laneWrite (fun s => (hexec s).trans (laneIssue_eq_fixedIssue i s u _)) fun c g =>
    c.laneWrite_writePair lat d.toNat (value c) g fun _ h => h

theorem lane1Gives_of_lane1 {i : Instr} {lat : Nat} {d a : BitVec 7} {f : Word → Word}
    (hexec : ∀ s, exec i s = lane1 i s lat d a f) : Lane1Gives i d a f := laneGives_of_laneIssue hexec

theorem lane2Gives_of_lane2 {i : Instr} {lat : Nat} {d a b : BitVec 7} {f : Word → Word → Word}
    (hexec : ∀ s, exec i s = lane2 i s lat d a b f) : Lane2Gives i d a b f := laneGives_of_laneIssue hexec

theorem lane3Gives_of_lane3 {i : Instr} {lat : Nat} {d a b : BitVec 7} {f : Word → Word → Word → Word}
    (hexec : ∀ s, exec i s = lane3 i s lat d a b f) : Lane3Gives i d a b f := laneGives_of_laneIssue hexec

theorem laneGives_of_laneMove {i : Instr} {d a b : BitVec 7} {value : Iss → Nat → Word}
    (hexec : ∀ s, exec i s = laneMove i s d a b value) :
    LaneGives i (fun c => c.crossUses (.a a :: c.bOp (.b b)) [.d d]) d value := laneGives_of_laneIssue hexec

/-! ## Results in scalars -/

theorem Group.sNew_setIfInBounds (g : Group) {g' : Group} (n : Nat) (x : DWord) (h : g'.sregs = g.sregs.setIfInBounds n x) (k : Nat) :
    g'.sNew k = if k = n ∧ n < 64 then x else g.sNew k := by
  have hget (v : Vector DWord 64) : v.toList.getD k 0 = (v[k]?).getD 0 := by simp [List.getD]
  rw [Group.sNew, Group.sNew, h, hget, hget, Vector.getElem?_setIfInBounds]
  grind

theorem Group.blockS_eq (g : Group) (n : Nat) : g.blockS n = { g with stake := (g.blockS n).stake } := by
  unfold Group.blockS; split <;> rfl

/-- What `writeS` writes, whether or not the write blocks a rewind. -/
theorem Group.writeS_eq (g : Group) (c : Iss) (lat n : Nat) (x : DWord) :
    g.writeS c lat n x = { g.overrule c.f.slices n with
      sregs := g.sregs.setIfInBounds n x, pend := (g.writeS c lat n x).pend, board := (g.writeS c lat n x).board,
      stake := (g.writeS c lat n x).stake } := by
  unfold Group.writeS
  rw [g.blockS_eq n]
  rfl

/-- A write of a scalar: that scalar takes its value, what another fragment's earlier instruction would still land there is
overruled (R179), and every other scalar is as it was. -/
theorem Group.writeS_scalarResult (g : Group) (c : Iss) {u : Uses} (lat : Nat) {n : Nat} (hn : n < 64) (x : DWord)
    (hg : c.g.lastReads c u = g) : ScalarResult c u n x ((g.writeS c lat n x).after c c.next) := by
  have hw := g.writeS_eq c lat n x
  have hs := g.sNew_setIfInBounds (g' := (g.writeS c lat n x).after c c.next) n x (congrArg (·.sregs) hw)
  unfold ScalarResult
  rw [hg]
  refine ⟨?_, fun k hk => ?_, ?_, ?_⟩
  · rw [hs, if_pos ⟨rfl, hn⟩]
  · rw [hs, if_neg fun h => hk h.1]
  · exact congrArg (fun g' : Group => { g' with
      sregs := g.sregs, pend := g.pend, board := g.board, stake := g.stake, frags := g.frags }) hw
  · exact congrArg (List.map _) (show (g.writeS c lat n x).frags = g.frags from congrArg (·.frags) hw)

theorem Group.writeS_at (g : Group) (c : Iss) (lat n : Nat) (x : DWord) : (g.writeS c lat n x).at_ = g.at_ :=
  congrArg (·.at_) (g.writeS_eq c lat n x)

theorem scalarGives_of_uniIssue {i : Instr} {u : Iss → Uses} {lat : Nat} {d : BitVec 6} {value : Iss → DWord}
    (hexec : ∀ s, exec i s = uniIssue i s u fun c g => g.writeS c lat d.toNat (value c)) : ScalarGives i u d value :=
  completes_of_fixedIssue (fun s => (hexec s).trans (uniIssue_eq_fixedIssue i s u _))
    (fun c g => g.writeS_at c lat d.toNat (value c)) fun _ c _ => (c.g.lastReads c (u c)).writeS_scalarResult c lat d.isLt (value c) rfl

theorem scalar1Gives_of_scal1 {i : Instr} {d a : BitVec 6} {f : DWord → DWord}
    (hexec : ∀ s, exec i s = scal1 i s d a f) : Scalar1Gives i d a f := scalarGives_of_uniIssue hexec

theorem scalar2Gives_of_scal2 {i : Instr} {lat : Nat} {d a b : BitVec 6} {f : DWord → DWord → DWord}
    (hexec : ∀ s, exec i s = scal2 i s lat d a b f) : Scalar2Gives i d a b f := scalarGives_of_uniIssue hexec

/-! ## Equal values -/

theorem Lane2Gives.congr {i : Instr} {d a b : BitVec 7} {f f' : Word → Word → Word} (h : Lane2Gives i d a b f)
    (hf : ∀ x y, f x y = f' x y) : Lane2Gives i d a b f' := by
  rwa [← funext₂ hf]

theorem ScalarGives.congr {i : Instr} {u : Iss → Uses} {d : BitVec 6} {value value' : Iss → DWord} (h : ScalarGives i u d value)
    (hv : ∀ c, value c = value' c) : ScalarGives i u d value' := by
  rwa [← funext hv]

/-- The value of a scalar instruction, for the fields that it defines. -/
theorem Scalar2Gives.congr {i : Instr} {d a b : BitVec 6} {f f' : DWord → DWord → DWord} (h : Scalar2Gives i d a b f)
    (hf : i.wellFormed = true → ∀ x y, f x y = f' x y) : Scalar2Gives i d a b f' :=
  Completes.mono h fun hwf _ _ _ hres => by rwa [← funext₂ (hf hwf)]

end Sys2Proof.Machine
end

section
/-! SUPPORT. The values of the integer operations, as numbers (R195, R196, R210). -/

namespace Sys2Proof.Machine

/-! ## Clamped results (R195) -/

theorem clampS_32 (x : Int) : clampS 32 x = max (-2 ^ 31) (min (2 ^ 31 - 1) x) := by
  unfold clampS; split_ifs <;> omega

theorem clampU_32 (x : Int) : clampU 32 x = max 0 (min (2 ^ 32 - 1) x) := by
  unfold clampU; split_ifs <;> omega

theorem toInt_ofInt_32 {x : Int} (h : -2 ^ 31 ≤ x ∧ x < 2 ^ 31) : (BitVec.ofInt 32 x).toInt = x := by
  rw [BitVec.toInt_ofInt, Int.bmod_eq_of_le (by omega) (by omega)]

theorem toInt_satS_32 (x : Int) : (satS x : Word).toInt = max (-2 ^ 31) (min (2 ^ 31 - 1) x) := by
  rw [satS, clampS_32, toInt_ofInt_32 (by omega)]

theorem toNat_satU_32 (x : Int) : (satU x : Word).toNat = (max 0 (min (2 ^ 32 - 1) x)).toNat := by
  rw [satU, clampU_32, BitVec.toNat_ofInt]; omega

theorem toInt_bounds_32 (x : Word) : -2 ^ 31 ≤ x.toInt ∧ x.toInt < 2 ^ 31 := ⟨BitVec.le_toInt x, BitVec.toInt_lt⟩

/-! ## Products -/

/-- The high half of a signed product lies in the format. -/
theorem toInt_mulMode_signed_high (x y : Word) : (mulMode 1 x y).toInt = x.toInt * y.toInt / 2 ^ 32 := by
  have hx := toInt_bounds_32 x
  have hy := toInt_bounds_32 y
  have hprod : |x.toInt * y.toInt| ≤ 2 ^ 31 * 2 ^ 31 := by
    rw [abs_mul]; exact mul_le_mul (abs_le.mpr (by omega)) (abs_le.mpr (by omega)) (abs_nonneg _) (by norm_num)
  have hbounds := abs_le.mp hprod
  exact toInt_ofInt_32 (by omega)

theorem toNat_mulMode_unsigned_high (x y : Word) : (mulMode 2 x y).toNat = x.toNat * y.toNat / 2 ^ 32 := by
  have hprod : x.toNat * y.toNat < 2 ^ 32 * 2 ^ 32 := Nat.mul_lt_mul'' x.isLt y.isLt
  exact Nat.mod_eq_of_lt (Nat.div_lt_of_lt_mul hprod)

/-! ## The smaller and the larger operand -/

theorem toInt_minMode_signed {w : Nat} (x y : BitVec w) : (minMode 0 x y).toInt = min x.toInt y.toInt :=
  (apply_ite BitVec.toInt _ x y).trans (min_def ..).symm

theorem toNat_minMode_unsigned {w : Nat} (x y : BitVec w) : (minMode 1 x y).toNat = min x.toNat y.toNat :=
  (apply_ite BitVec.toNat _ x y).trans (min_def ..).symm

theorem toInt_maxMode_signed {w : Nat} (x y : BitVec w) : (maxMode 0 x y).toInt = max x.toInt y.toInt :=
  (apply_ite BitVec.toInt _ y x).trans (max_def ..).symm

theorem toNat_maxMode_unsigned {w : Nat} (x y : BitVec w) : (maxMode 1 x y).toNat = max x.toNat y.toNat :=
  (apply_ite BitVec.toNat _ y x).trans (max_def ..).symm

/-! ## Magnitude and negation -/

theorem toNat_absMode_wrap (x : Word) : (absMode 0 x).toNat = x.toInt.natAbs := by
  have hx := toInt_bounds_32 x
  show (BitVec.ofInt 32 (x.toInt.natAbs : Int)).toNat = _
  rw [BitVec.toNat_ofInt]; omega

theorem toInt_absMode_sat (x : Word) : (absMode 1 x).toInt = min (2 ^ 31 - 1) (x.toInt.natAbs : Int) := by
  show (satS (x.toInt.natAbs : Int) : Word).toInt = _
  rw [toInt_satS_32]; omega

theorem toInt_negMode_sat (x : Word) : (negMode 1 x).toInt = min (2 ^ 31 - 1) (-x.toInt) := by
  have hx := toInt_bounds_32 x
  show (satS (-x.toInt) : Word).toInt = _
  rw [toInt_satS_32]; omega

/-! ## Sums and differences -/

theorem toNat_subMode_wrap (x y : Word) : (subMode 0 x y).toNat = (x.toNat + 2 ^ 32 - y.toNat) % 2 ^ 32 := by
  have hy := y.isLt
  show (x - y).toNat = _
  rw [BitVec.toNat_sub]; omega

theorem toNat_addMode_usat (x y : Word) : (addMode 2 x y).toNat = min (2 ^ 32 - 1) (x.toNat + y.toNat) := by
  show (satU ((x.toNat : Int) + y.toNat) : Word).toNat = _
  rw [toNat_satU_32]; omega

theorem toNat_subMode_usat (x y : Word) : (subMode 2 x y).toNat = x.toNat - y.toNat := by
  have hx := x.isLt
  show (satU ((x.toNat : Int) - y.toNat) : Word).toNat = _
  rw [toNat_satU_32]; omega

/-! ## Shifts by the whole count (R196, R210) -/

/-- A left shift multiplies by a power of 2: past the width nothing of the product is left in the word. -/
theorem shlFull_eq {w : Nat} (a b : BitVec w) : shlFull a b = BitVec.ofNat w (a.toNat * 2 ^ b.toNat) := by
  apply BitVec.eq_of_toNat_eq
  unfold shlFull
  by_cases hb : b.toNat < w
  · rw [if_pos hb, BitVec.toNat_shiftLeft, Nat.shiftLeft_eq, BitVec.toNat_ofNat]
  · have hdvd : 2 ^ w ∣ a.toNat * 2 ^ b.toNat := (pow_dvd_pow 2 (by omega)).mul_left _
    rw [if_neg hb, BitVec.toNat_ofNat, Nat.mod_eq_zero_of_dvd hdvd]; rfl

/-- A logical right shift divides by a power of 2. -/
theorem shrFull_logical_eq {w f : Nat} (hf : f ≠ 1) (a b : BitVec w) : shrFull f a b = BitVec.ofNat w (a.toNat / 2 ^ b.toNat) := by
  apply BitVec.eq_of_toNat_eq
  have hle : a.toNat / 2 ^ b.toNat < 2 ^ w := (Nat.div_le_self _ _).trans_lt a.isLt
  unfold shrFull
  rw [if_neg hf, BitVec.toNat_ofNat, Nat.mod_eq_of_lt hle]
  by_cases hb : b.toNat < w
  · rw [if_pos hb, BitVec.toNat_ushiftRight, Nat.shiftRight_eq_div_pow]
  · have hlt : a.toNat < 2 ^ b.toNat := a.isLt.trans_le (Nat.pow_le_pow_right two_pos (by omega))
    rw [if_neg hb, Nat.div_eq_of_lt hlt]; rfl

/-- Past the width an arithmetic right shift leaves the sign: the quotient, rounded down, is −1 or 0. -/
theorem toInt_ediv_two_pow_of_le {w n : Nat} (a : BitVec w) (h : w ≤ n) : a.toInt / 2 ^ n = if a.msb then -1 else 0 := by
  have hpow : (2 : Int) ^ w ≤ 2 ^ n := pow_le_pow_right₀ (by norm_num) h
  have hlo := BitVec.two_mul_toInt_lt (x := a)
  have hhi := BitVec.le_two_mul_toInt (x := a)
  split
  next hmsb =>
    have hneg : a.toInt < 0 := by rwa [BitVec.msb_eq_toInt, decide_eq_true_iff] at hmsb
    rw [Int.ediv_eq_iff_of_pos (by positivity)]; omega
  next hmsb =>
    have hpos : 0 ≤ a.toInt := by simpa [BitVec.msb_eq_toInt] using hmsb
    exact Int.ediv_eq_zero_of_lt hpos (by omega)

/-- An arithmetic right shift divides by a power of 2 and rounds down. -/
theorem shrFull_arithmetic_eq {w : Nat} (a b : BitVec w) : shrFull 1 a b = BitVec.ofInt w (a.toInt / 2 ^ b.toNat) := by
  unfold shrFull
  rw [if_pos rfl]
  by_cases hb : b.toNat < w
  · rw [if_pos hb, ← BitVec.ofInt_toInt (x := a.sshiftRight b.toNat), BitVec.toInt_sshiftRight, Int.shiftRight_eq_div_pow]
    norm_cast
  · rw [if_neg hb, toInt_ediv_two_pow_of_le a (by omega)]
    split
    · rw [BitVec.ofInt_neg, BitVec.ofInt_ofNat, BitVec.neg_one_eq_allOnes]
    · rfl

theorem shrFull_eq {w : Nat} (f : Nat) (a b : BitVec w) : shrFull f a b
    = if f = 1 then BitVec.ofInt w (a.toInt / 2 ^ b.toNat) else BitVec.ofNat w (a.toNat / 2 ^ b.toNat) := by
  split
  next hf => rw [hf, shrFull_arithmetic_eq]
  next hf => exact shrFull_logical_eq hf a b

end Sys2Proof.Machine
end

section
/-! CERTIFICATE. The statements of the lane integer and the scalar instructions (R193 to R214), from the shapes of their issue and
their values as numbers. -/

namespace Sys2Proof.Machine

/-! ## Lane instructions -/

/-- Settles O8: each form is an issue of the lane shapes, and its value is the number that R195 gives. -/
theorem laneArithmetic : Obligations.LaneArithmetic := by
  refine ⟨fun f d a b => ⟨?iadd, ?isub, ?imul, ?imad, ?imin, ?imax, ?iabs, ?ineg⟩, fun x y z => ?values⟩
  case iadd => exact lane2Gives_of_lane2 fun _ => rfl
  case isub => exact lane2Gives_of_lane2 fun _ => rfl
  case imul => exact lane2Gives_of_lane2 fun _ => rfl
  case imad => exact lane3Gives_of_lane3 fun _ => rfl
  case imin => exact lane2Gives_of_lane2 fun _ => rfl
  case imax => exact lane2Gives_of_lane2 fun _ => rfl
  case iabs => exact lane1Gives_of_lane1 fun _ => rfl
  case ineg => exact lane1Gives_of_lane1 fun _ => rfl
  case values =>
    exact ⟨BitVec.toNat_add x y, toNat_subMode_wrap x y, BitVec.toNat_mul x y, toInt_mulMode_signed_high x y,
      toNat_mulMode_unsigned_high x y, BitVec.toInt_ofInt (x.toInt * y.toInt + z.toInt), toInt_satS_32 (x.toInt * y.toInt + z.toInt),
      toInt_minMode_signed x y, toNat_minMode_unsigned x y, toInt_maxMode_signed x y, toNat_maxMode_unsigned x y,
      toNat_absMode_wrap x, toInt_absMode_sat x, BitVec.toNat_neg x, toInt_negMode_sat x, toInt_satS_32 (x.toInt + y.toInt),
      toNat_addMode_usat x y, toInt_satS_32 (x.toInt - y.toInt), toNat_subMode_usat x y⟩

/-- Settles O9: each is an issue of the lane shapes, and a shift is a product or a quotient by a power of 2. -/
theorem laneLogicAndShifts : Obligations.LaneLogicAndShifts := by
  intro f d a b
  refine ⟨?and, ?or, ?xor, ?andn, ?not, ?shl, ?shr, ?rot, ?popc, ?clz, ?brev, ?bfx, ?bfi⟩
  case and => exact lane2Gives_of_lane2 fun _ => rfl
  case or => exact lane2Gives_of_lane2 fun _ => rfl
  case xor => exact lane2Gives_of_lane2 fun _ => rfl
  case andn => exact lane2Gives_of_lane2 fun _ => rfl
  case not => exact lane1Gives_of_lane1 fun _ => rfl
  case shl => exact (lane2Gives_of_lane2 fun _ => rfl).congr shlFull_eq
  case shr => exact (lane2Gives_of_lane2 fun _ => rfl).congr (shrFull_eq f.toNat)
  case rot => exact lane2Gives_of_lane2 fun _ => rfl
  case popc => exact lane1Gives_of_lane1 fun _ => rfl
  case clz => exact lane1Gives_of_lane1 fun _ => rfl
  case brev => exact lane1Gives_of_lane1 fun _ => rfl
  case bfx => exact lane2Gives_of_lane2 fun _ => rfl
  case bfi => exact lane3Gives_of_lane3 fun _ => rfl

/-- Settles O10: selection, moves and permutes write one register, the wide forms a pair, and the lane movers the lane they name. -/
theorem laneMovesAndPermutes : Obligations.LaneMovesAndPermutes := by
  refine ⟨fun f d a b => ⟨?sel, ?mov, ?movl, ?lidx, ?iadd64, ?imulw, ?cvti, ?idot4⟩,
    fun f d a b => ⟨?permb, ?balign, ?bsel, ?shfl, ?shup, ?shdn, ?shflx, ?bcst⟩⟩
  case sel => exact laneGives_of_laneIssue fun _ => rfl
  case mov => exact lane1Gives_of_lane1 fun _ => rfl
  case movl => exact laneGives_of_laneIssue fun _ => rfl
  case lidx => exact laneGives_of_laneIssue fun _ => rfl
  case iadd64 => exact pairGives_of_laneIssue fun _ => rfl
  case imulw => exact pairGives_of_laneIssue fun _ => rfl
  case cvti => exact lane1Gives_of_lane1 fun _ => rfl
  case idot4 => exact lane3Gives_of_lane3 fun _ => rfl
  case permb => exact laneGives_of_laneIssue fun _ => rfl
  case balign => exact lane2Gives_of_lane2 fun _ => rfl
  case bsel => exact lane3Gives_of_lane3 fun _ => rfl
  case shfl => exact laneGives_of_laneMove fun _ => rfl
  case shup => exact laneGives_of_laneMove fun _ => rfl
  case shdn => exact laneGives_of_laneMove fun _ => rfl
  case shflx => exact laneGives_of_laneMove fun _ => rfl
  case bcst => exact laneGives_of_laneMove fun _ => rfl

/-! ## Scalars, and moves between lanes and scalars -/

/-- A signed or unsigned high half, for the forms that SMULH defines. -/
theorem smulh_value {f : BitVec 4} (hf : f.toNat ≤ 1) (x y : DWord) : mulMode (f.toNat + 1) x y
    = if f.toNat = 0 then BitVec.ofInt 64 (x.toInt * y.toInt / 2 ^ 64) else BitVec.ofNat 64 (x.toNat * y.toNat / 2 ^ 64) := by
  obtain h | h : f.toNat = 0 ∨ f.toNat = 1 := by omega
  all_goals rw [h]; rfl

/-- The forms of RDLANE: zero-extended, sign-extended, or a pair (R212). -/
theorem rdlane_value (g : Nat) (x y z : DWord) :
    (match g with | 0 => x | 1 => y | _ => z) = if g = 0 then x else if g = 1 then y else z := by
  match g with
  | 0 => rfl
  | 1 => rfl
  | _ + 2 => rfl

theorem bitOf_and_left {m m' : Word} {i : Nat} (h : bitOf (m &&& m') i = true) : bitOf m i = true := by
  rw [bitOf, BitVec.getLsbD_and, Bool.and_eq_true] at h; exact h.1

/-- A scalar written in lanes of em to a register, or to a pair (R194, R212, R214): what WRLANE and VBCST write. -/
theorem Iss.laneWrite_ofScalar (c : Iss) (pair : Prop) [Decidable pair] (d : Nat) {m : Word} (x : DWord) (g : Group)
    (hm : ∀ i, bitOf m i = true → bitOf c.em i = true) :
    c.LaneWrite d (if pair then 2 else 1) m (fun k _ => x.extractLsb' (32 * k) 32) g
      (if pair then g.writePair c 3 d m fun _ => x else g.writeV c 3 d 0 m fun _ => x.setWidth 32) := by
  split
  · exact c.laneWrite_writePair 3 d (fun _ => x) g hm
  · have hlow : x.setWidth 32 = x.extractLsb' (32 * 0) 32 := BitVec.setWidth_eq_extractLsb' (by omega)
    rw [hlow]
    exact c.laneWrite_writeV 3 d (fun k _ => x.extractLsb' (32 * k) 32) g hm

/-- WRLANE writes its lane when it lies in em, and otherwise nothing (R212). -/
theorem Iss.laneWrite_wrlane (c : Iss) (pair : Prop) [Decidable pair] (d k : Nat) (x : DWord) (g : Group) :
    c.LaneWrite d (if pair then 2 else 1) (c.em &&& oneLane k) (fun k _ => x.extractLsb' (32 * k) 32) g
      (if c.em &&& oneLane k = 0 then g
        else if pair then g.writePair c 3 d (c.em &&& oneLane k) fun _ => x
        else g.writeV c 3 d 0 (c.em &&& oneLane k) fun _ => x.setWidth 32) := by
  by_cases hm : c.em &&& oneLane k = 0
  · rw [if_pos hm, hm]; exact c.laneWrite_none ..
  · rw [if_neg hm]; exact c.laneWrite_ofScalar pair d x g fun _ => bitOf_and_left

/-- Settles O17: each scalar form is an issue of the scalar shapes, RDLANE and REDUX write a scalar, and WRLANE and VBCST write a
scalar in lanes of em. -/
theorem scalarArithmetic : Obligations.ScalarArithmetic := by
  refine ⟨fun f d a b i => ⟨?sadd, ?ssub, ?smul, ?smulh, ?sand, ?sor, ?sxor, ?sshl, ?sshr, ?smin, ?smax, ?scmp, ?sbfx, ?ssel, ?smov,
    ?smovl, ?spopc, ?sclz, ?smovi, ?saddi, ?slui⟩, fun f d a b g => ⟨?rdlane, ?redux, ?wrlane, ?vbcst⟩⟩
  case sadd => exact scalar2Gives_of_scal2 fun _ => rfl
  case ssub => exact scalar2Gives_of_scal2 fun _ => rfl
  case smul => exact scalar2Gives_of_scal2 fun _ => rfl
  case smulh => exact (scalar2Gives_of_scal2 fun _ => rfl).congr fun hwf => smulh_value (of_decide_eq_true hwf)
  case sand => exact scalar2Gives_of_scal2 fun _ => rfl
  case sor => exact scalar2Gives_of_scal2 fun _ => rfl
  case sxor => exact scalar2Gives_of_scal2 fun _ => rfl
  case sshl => exact (scalar2Gives_of_scal2 fun _ => rfl).congr fun _ => shlFull_eq
  case sshr => exact (scalar2Gives_of_scal2 fun _ => rfl).congr fun _ => shrFull_eq f.toNat
  case smin => exact scalar2Gives_of_scal2 fun _ => rfl
  case smax => exact scalar2Gives_of_scal2 fun _ => rfl
  case scmp => exact scalar2Gives_of_scal2 fun _ => rfl
  case sbfx => exact scalar2Gives_of_scal2 fun _ => rfl
  case ssel => exact scalarGives_of_uniIssue fun _ => rfl
  case smov => exact scalar1Gives_of_scal1 fun _ => rfl
  case smovl => exact scalarGives_of_uniIssue fun _ => rfl
  case spopc => exact scalar1Gives_of_scal1 fun _ => rfl
  case sclz => exact scalar1Gives_of_scal1 fun _ => rfl
  case smovi => exact scalarGives_of_uniIssue fun _ => rfl
  case saddi => exact scalarGives_of_uniIssue fun _ => rfl
  case slui => exact scalarGives_of_uniIssue fun _ => rfl
  case rdlane => exact (scalarGives_of_uniIssue fun _ => rfl).congr fun c => rdlane_value g.toNat _ _ _
  case redux => exact scalarGives_of_uniIssue fun _ => rfl
  case wrlane =>
    refine (completes_of_laneWrite (fun _ => rfl) fun c gr => c.laneWrite_wrlane (g.toNat = 1) d.toNat _ (c.sv a.toNat) gr).mono
      fun _ _ c g' h => ?_
    exact h.congr_uses (by rw [c.g.lastReads_of_vr_nil c rfl, c.g.lastReads_of_vr_nil c rfl])
  case vbcst =>
    refine (completes_of_laneWrite (fun _ => rfl) fun c gr => c.laneWrite_ofScalar (f.toNat = 1) d.toNat (c.sv a.toNat) gr
      fun _ => id).mono fun _ _ c g' h => ?_
    exact h.congr_uses (by rw [c.g.lastReads_of_vr_nil c rfl, c.g.lastReads_of_vr_nil c rfl])

end Sys2Proof.Machine
end
